-- ==== Sys2Proof/Word.lean ====
section
/-! DEFINITION. The word types of the S4 and their plainest arithmetic. Everything a test could show
wrong (bit fields, sign extension, byte order) stands in Machine/Bits.lean. -/

namespace Sys2Proof

/-- A byte of memory. -/
abbrev Byte := BitVec 8
/-- A 32-bit word: a vector register, an instruction word, an accumulator cell (R7, R115, R251). -/
abbrev Word := BitVec 32
/-- A 64-bit word: a scalar register, an address, a system register (R7, R198). -/
abbrev DWord := BitVec 64
/-- A 128-bit value: a capability (R78), a format slot (R71), a barrier object (R274). -/
abbrev QWord := BitVec 128
/-- A set of lanes, bit L for lane L (R361, R156). -/
abbrev LaneMask := BitVec 64
/-- A finite map with natural-number keys, as a list of pairs. -/
abbrev NMap (α : Type) := List (Nat × α)

end Sys2Proof
end

