-- ==== Sys2Proof/Machine/Bits.lean ====
section
/-! DEFINITION. Bit fields, sign extension, byte order, lane masks and the finite maps of the state. -/

namespace Sys2Proof

/-- Bits [hi:lo] of a natural number (the slices `x[hi:lo]` of the manual's pseudocode). -/
def slice (x hi lo : Nat) : Nat := x / 2 ^ lo % 2 ^ (hi + 1 - lo)

/-- Bit k of a natural number. -/
def bit (x k : Nat) : Bool := x / 2 ^ k % 2 == 1

/-- 1 for true, 0 for false. -/
def b2n (b : Bool) : Nat := if b then 1 else 0

/-- x read as a two's-complement value of w bits. -/
def sgn (w x : Nat) : Int := if 2 * (x % 2 ^ w) < 2 ^ w then (x % 2 ^ w : Nat) else (x % 2 ^ w : Nat) - (2 ^ w : Nat)

/-- The w-bit pattern of an integer. -/
def pat (w : Nat) (v : Int) : Nat := (v % (2 ^ w : Nat)).toNat

/-- v limited to [lo, hi] (the manual's Clamp). -/
def clamp (v lo hi : Int) : Int := if v < lo then lo else if v > hi then hi else v

/-- The number x's bit length: 0 for 0. -/
def bitLen (x : Nat) : Nat := if x = 0 then 0 else Nat.log2 x + 1

/-- Rounded-up division. -/
def ceilDiv (a b : Nat) : Nat := (a + b - 1) / b

/-- The n low bytes of x, the least significant first (R115, R223: little-endian). -/
def leBytes : Nat → Nat → List Byte
  | 0, _ => []
  | n + 1, x => BitVec.ofNat 8 x :: leBytes n (x / 256)

/-- The number that little-endian bytes hold. -/
def ofLe : List Byte → Nat
  | [] => 0
  | b :: bs => b.toNat + 256 * ofLe bs

/-- Lane L of a mask. -/
def inMask (m : LaneMask) (lane : Nat) : Bool := m.getLsbD lane

/-- The mask of a list of lanes. -/
def maskOf : List Nat → LaneMask
  | [] => 0
  | l :: ls => maskOf ls ||| (1#64 <<< l)

/-- The lanes 0 to 63. -/
def allLanes : List Nat := List.range 64

/-- The lanes of a mask, ascending. -/
def lanesOf (m : LaneMask) : List Nat := allLanes.filter (inMask m)

/-- The value a map holds for a key. -/
def mget {α : Type} : NMap α → Nat → Option α
  | [], _ => none
  | (j, a) :: r, k => if j = k then some a else mget r k

/-- A map with one key's value replaced; keys rise. -/
def mset {α : Type} : NMap α → Nat → α → NMap α
  | [], k, v => [(k, v)]
  | (j, a) :: r, k, v => if k < j then (k, v) :: (j, a) :: r else if j = k then (k, v) :: r else (j, a) :: mset r k v

/-- A map without a key. -/
def mdel {α : Type} (m : NMap α) (k : Nat) : NMap α := m.filter fun x => x.1 != k

/-- The value a map holds, or a default. -/
def mgetD {α : Type} (m : NMap α) (k : Nat) (d : α) : α := (mget m k).getD d

/-- A list with element n replaced. -/
def lset {α : Type} : List α → Nat → α → List α
  | [], _, _ => []
  | _ :: r, 0, v => v :: r
  | a :: r, n + 1, v => a :: lset r n v

/-- A register file with element n written; a file of fewer elements reads as `d` where it has none, and is filled up. -/
def lput {α : Type} (d : α) : List α → Nat → α → List α
  | [], 0, v => [v]
  | [], n + 1, v => d :: lput d [] n v
  | _ :: r, 0, v => v :: r
  | a :: r, n + 1, v => a :: lput d r n v

/-- Insert a number into a rising list. -/
def sins : List Nat → Nat → List Nat
  | [], k => [k]
  | j :: r, k => if k < j then k :: j :: r else if j = k then j :: r else j :: sins r k

/-- Remove a number from a list. -/
def sdel : List Nat → Nat → List Nat
  | [], _ => []
  | j :: r, k => if j = k then sdel r k else j :: sdel r k

/-- Insert into a list sorted by an order, after its equals. -/
def oins {α : Type} (lt : α → α → Bool) (x : α) : List α → List α
  | [] => [x]
  | y :: r => if lt x y then x :: y :: r else y :: oins lt x r

/-- Sort a list by an order, equals in their places. -/
def osort {α : Type} (lt : α → α → Bool) : List α → List α
  | [] => []
  | x :: r => oins (fun a b => !lt b a) x (osort lt r)

/-- The first some-value of f over a list. -/
def firstSome {α β : Type} (f : α → Option β) : List α → Option β
  | [] => none
  | a :: r => match f a with
    | some b => some b
    | none => firstSome f r

end Sys2Proof
end

