-- ==== Sys2Proof/Machine/Cells.lean ====
section
/-! DEFINITION. Memories as lists of cells in one canonical form: rising addresses, no cell that holds what an
unlisted address reads as. -/

namespace Sys2Proof.Machine

open Sys2Proof

/-- What an unlisted address of a memory reads as: 0. Near memory is zeroed at full reset (R417) and scratchpads
are cleared (R201, R417); for the capacity tier the manual states nothing (assumption 1). -/
def unlisted : Byte := 0

/-- The byte a memory holds at an address. -/
def cget : List Host.Cell → Nat → Byte
  | [], _ => unlisted
  | (a, b) :: r, k => if a = k then b else if k < a then unlisted else cget r k

/-- A memory with one byte written, in canonical form. -/
def cset : List Host.Cell → Nat → Byte → List Host.Cell
  | [], k, v => if v = unlisted then [] else [(k, v)]
  | (a, b) :: r, k, v =>
    if k < a then (if v = unlisted then (a, b) :: r else (k, v) :: (a, b) :: r)
    else if a = k then (if v = unlisted then r else (k, v) :: r)
    else (a, b) :: cset r k v

/-- n bytes from an address on, ascending. -/
def cread (m : List Host.Cell) (a : Nat) : Nat → List Byte
  | 0 => []
  | n + 1 => cget m a :: cread m (a + 1) n

/-- A memory with bytes written from an address on. -/
def cwrite (m : List Host.Cell) (a : Nat) : List Byte → List Host.Cell
  | [] => m
  | b :: bs => cwrite (cset m a b) (a + 1) bs

/-- The little-endian number in n bytes at an address. -/
def creadLe (m : List Host.Cell) (a n : Nat) : Nat := ofLe (cread m a n)

/-- Are all addresses of the list above k, rising, and no byte the unlisted one? -/
def cellsAbove : Nat → List Host.Cell → Bool
  | _, [] => true
  | k, (a, b) :: r => k ≤ a && b != unlisted && cellsAbove (a + 1) r

/-- The canonical form of a memory. -/
def Memory.wf (m : List Host.Cell) : Bool := cellsAbove 0 m

/-- Two memories joined where the second's cells count: its bytes written over the first. -/
def coverlay (m : List Host.Cell) : List Host.Cell → List Host.Cell
  | [] => m
  | (a, b) :: r => coverlay (cset m a b) r

/-- The cells of a range, moved by an offset. -/
def cslice (m : List Host.Cell) (a n off : Nat) : List Host.Cell :=
  (m.filter fun c => a ≤ c.1 && c.1 < a + n).map fun c => (c.1 - a + off, c.2)

/-- A memory without the cells of a range (its bytes then read as unlisted). -/
def cclear (m : List Host.Cell) (a n : Nat) : List Host.Cell := m.filter fun c => c.1 < a || a + n ≤ c.1

/-- The 16-byte granules that a range of bytes touches (R81). -/
def granules (a n : Nat) : List Nat :=
  if n = 0 then [] else (List.range ((a + n - 1) / 16 - a / 16 + 1)).map (a / 16 + ·)

/-- Tags with the granules of a range cleared (R81). -/
def untag (tags : List Nat) (a n : Nat) : List Nat := tags.filter fun g => !(granules a n).contains g

end Sys2Proof.Machine
end

