-- ==== Sys2Proof/Config.lean ====
section
/-! DEFINITION. What the S4 as shipped fixes (R1), and the free values: what the manual leaves open has an
opaque constant here, so that no proof can see what it is. -/

namespace Sys2Proof.Config

/-- Bytes of one core's scratchpad: 4096 KiB (R1, R198). -/
def spadBytes : Nat := 4194304
/-- Rows and columns of the accumulator store (R1, R251). -/
def accDim : Nat := 1024
/-- Tenant words per thread in one quarter (R31). -/
def quarterWords : Nat := 2016
/-- Entries of a core's side log (R1). -/
def sideLogEntries : Nat := 512
/-- Bytes of a core's publication buffer (R1, R200). -/
def pubBytes : Nat := 65536
/-- Records of a quarter's ring (R360). -/
def ringRecords : Nat := 128
/-- Near memory: 16 stacks of 48 GiB (R1). -/
def nearBytes : Nat := 824633720832
/-- Capacity memory installed: up to 4 TiB (R1); this device has all of it (assumption 21). -/
def capacityBytes : Nat := 4398046511104
/-- Key of byte 0 of the capacity tier in the one physical memory; the near tier starts at key 0. -/
def capacityBase : Nat := 4503599627370496
/-- Tokens of a partition (R97). -/
def tokenCount : Nat := 4096
/-- Grids that one launch queue holds (R99). -/
def queueGrids : Nat := 256
/-- Tile-queue entries of a Loupe grid (R313). -/
def tileEntries : Nat := 4096

/-- FREE VALUE. What a read of a register word with no defined value gives (R140, R15): by the ticket of the
reading step, the lane and the logical word. -/
opaque undefWord : Nat → Nat → Nat → BitVec 32
/-- FREE VALUE. What a read of an undefined scalar register or latch entry gives (R140): by ticket, lane and
register number. -/
opaque undefDWord : Nat → Nat → Nat → BitVec 64
/-- FREE VALUE. The truth value of an undefined predicate (R140): by ticket, lane and predicate number. -/
opaque undefBool : Nat → Nat → Nat → Bool
/-- FREE VALUE. A byte whose contents the manual leaves undefined (R140, R244, R262): by ticket and address. -/
opaque undefByte : Nat → Nat → BitVec 8
/-- FREE VALUE. A choice the manual leaves to the device, as a number: by ticket and a tag of the place. -/
opaque choice : Nat → Nat → Nat
/-- IMPLEMENTATION. What the partition manager puts into a register of a partition, by partition, register and unit (R356,
R397, R109). -/
opaque partReg : Nat → Nat → Nat → BitVec 64
/-- IMPLEMENTATION. The ranges of near (`false`) and of capacity frames that the partition manager gives a partition: first frame
and number (R405). -/
opaque frameRange : Nat → Bool → List (Nat × Nat)
/-- IMPLEMENTATION. The cores that the partition manager assigns to a partition on another of its devices, by partition and index
(R107, R405). -/
opaque extent : Nat → Nat → List Nat
/-- IMPLEMENTATION. The Pyrloha ports and the switch routes that the partition manager enters for an index of a partition
(R404, R405). -/
opaque wayPorts : Nat → Nat → List Nat
/-- IMPLEMENTATION. The switch routes of an index. -/
opaque waySwitch : Nat → Nat → List Nat
/-- IMPLEMENTATION. Firmware version of HSTAT.FWV (R422). -/
opaque firmwareVersion : BitVec 16
/-- IMPLEMENTATION. Whether the firmware's signature verifies (R425). -/
opaque firmwareOk : Bool
/-- IMPLEMENTATION. The 16-byte device identifier of an attestation report (R426). -/
opaque deviceId : BitVec 128
/-- IMPLEMENTATION. Byte i of the SHA-256 digest of the running firmware (R426). -/
opaque firmwareDigest : Nat → BitVec 8
/-- IMPLEMENTATION. Byte i of the Signet key's HSS signature with number n over a report (R425, R426): the key is not in
the manual. -/
opaque signatureByte : Nat → List (BitVec 8) → Nat → BitVec 8

end Sys2Proof.Config
end

