-- ==== Sys2Proof/Syntax.lean ====
section
/-! DEFINITION. The syntax of the S4: every row of the table of operations and events is one constructor of
`Instr`. The instructions carry their decoded fields (R116 to R121); the device's events carry the unit they
act on. -/

namespace Sys2Proof

/-- An operand field with its high-scalar bit resolved (R7, R117, R118). -/
inductive Opnd where
  /-- v0 to v31, codes 0 to 31. -/
  | v (n : Fin 32)
  /-- s0 to s47: codes 32 to 55, the high-scalar bit adding 24. -/
  | s (n : Fin 48)
  /-- l0 to l2, codes 56 to 58. -/
  | l (n : Fin 3)
  /-- the value 0, code 59. -/
  | zero
  /-- the lane index, code 60. -/
  | lane
  /-- the literal, code 61. -/
  | lit
  /-- codes 62 and 63, which no instruction accepts (R117). -/
  | rsv (hi : Bool)
deriving DecidableEq, Repr

/-- The guard: the predicate number G and its negation N (R20). -/
structure Guard where
  neg  : Bool
  pred : Fin 8
deriving DecidableEq, Repr

/-- The decoded fields of an instruction word (R116). A field that the word does not have, or that the
instruction does not use, is 0 (R117). `lit` is present for LEN 0b10 and 0b11, `ext` says that W1 and W2 are
there (LEN 0b01 and 0b11). -/
structure Form where
  ext   : Bool
  hold  : BitVec 2
  guard : Guard
  d     : Opnd
  a     : Opnd
  b     : Opnd
  c     : Opnd
  mod   : BitVec 6
  scope : BitVec 4
  slot  : BitVec 3
  fs    : Bool
  imm   : BitVec 24
  lit   : Option (BitVec 64)
deriving DecidableEq, Repr

/-- The wide offset of a control transfer: IMM of a LEN 0b01 word or the literal of a LEN 0b10 word (R125). -/
inductive WideOff where
  | imm (o : BitVec 24)
  | lit (o : BitVec 64)
deriving DecidableEq, Repr

/-- A resident group's place: core 16 * y + x, quarter and slot (R30, R357). -/
structure GRef where
  core : Nat
  qtr  : Nat
  slot : Nat
deriving DecidableEq, Repr

/-- The moves of the page-move engine (R218). -/
inductive PageMove where
  | promote | evict | compress | decompressPromote
deriving DecidableEq, Repr

/-- The kinds of access that reach memory (R212, R361). -/
inductive Access where
  | load | store | atomic | fetch | con | dap
deriving DecidableEq, Repr

/-- The operations of a Clasp engine (R230). -/
inductive AtomOp where
  | add | fadd | min | max | and | or | xor | xchg | cas
deriving DecidableEq, Repr

/-- A PEER access that arrives from another device (R210, R366). -/
structure PeerIn where
  dev   : Nat
  ten   : Nat
  kind  : Access
  va    : BitVec 64
  size  : Nat
  data  : BitVec 128
  op    : AtomOp
  uns   : Bool
  cmp   : BitVec 64
deriving DecidableEq, Repr

/-- The host's answer to an ATS Translation Request (R416). -/
inductive AtsAnswer where
  /-- no translation granted, or not the write that was asked for. -/
  | none
  /-- a translated address with its write and execute permissions. -/
  | addr (pa : BitVec 64) (w x : Bool)
deriving DecidableEq, Repr

/-- The response codes of a PRS Page Request (R416). -/
inductive PrsCode where
  | success | invalidRequest | responseFailure
deriving DecidableEq, Repr

/-- The instructions and events of the S4, one constructor for each row of the table. -/
inductive Instr where
  /-- NOP (R152): takes the group's turn and does nothing else. -/
  | nop
  /-- NOP_EXTENDED (R152): the extended (LEN 0b01) form of NOP. -/
  | nopExtended
  /-- BR (R146): sends each thread of the issuing set whose guard holds to the target header; the other threads fall through. -/
  | br (g : Guard) (off : BitVec 18)
  /-- BR_WIDE (R146): BR with its offset in IMM (LEN 0b01) or in the literal (LEN 0b10). -/
  | brWide (g : Guard) (off : WideOff)
  /-- BRU (R147): a branch that takes the guard of the lowest issuing thread for the whole set, and sets UNIF_VIOL or traps when the guard diverges. -/
  | bru (g : Guard) (off : BitVec 18)
  /-- BRU_WIDE (R147): BRU with its offset in IMM or in the literal. -/
  | bruWide (g : Guard) (off : WideOff)
  /-- JMP (R149): sends the guarded threads to the scalar target address, which is checked as R124 lays down. -/
  | jmp (h : BitVec 2) (g : Guard) (a : Opnd)
  /-- JMP_EXTENDED (R149): the extended (LEN 0b01) form of JMP. -/
  | jmpExtended (h : BitVec 2) (g : Guard) (a : Opnd)
  /-- CALL (R143): writes the link, slides the window by the frame, raises the call depth and jumps to the target. -/
  | call (g : Guard) (fr : BitVec 2) (off : BitVec 16)
  /-- CALL_WIDE (R143): CALL with its offset in IMM or in the literal. -/
  | callWide (g : Guard) (fr : BitVec 2) (off : WideOff)
  /-- RET (R144): reads the link, slides the window back, lowers the call depth and returns. -/
  | ret (g : Guard)
  /-- RET_EXTENDED (R144): the extended (LEN 0b01) form of RET. -/
  | retExtended (g : Guard)
  /-- EXIT (R150): makes the guarded threads exited; when the last live thread exits, the group becomes Draining. -/
  | exit (g : Guard)
  /-- EXIT_EXTENDED (R150): the extended (LEN 0b01) form of EXIT. -/
  | exitExtended (g : Guard)
  /-- ADD (R167): integer addition, wrapped or saturated. -/
  | add (f : Form)
  /-- ADD_EXTENDED (R167): ADD with a literal, modifiers or a high scalar. -/
  | addExtended (f : Form)
  /-- SUB (R167): integer subtraction. -/
  | sub (f : Form)
  /-- SUB_EXTENDED (R167): SUB in its wider forms. -/
  | subExtended (f : Form)
  /-- MUL (R167): integer multiplication. -/
  | mul (f : Form)
  /-- MUL_EXTENDED (R167): MUL in its wider forms. -/
  | mulExtended (f : Form)
  /-- MAD (R167): integer multiply-add; in the base form D is the addend. -/
  | mad (f : Form)
  /-- MAD_EXTENDED (R167): MAD with its third operand in C. -/
  | madExtended (f : Form)
  /-- AND (R170): bitwise AND. -/
  | and (f : Form)
  /-- AND_EXTENDED (R170): AND in its wider forms. -/
  | andExtended (f : Form)
  /-- OR (R170): bitwise OR. -/
  | or (f : Form)
  /-- OR_EXTENDED (R170): OR in its wider forms. -/
  | orExtended (f : Form)
  /-- XOR (R170): bitwise XOR. -/
  | xor (f : Form)
  /-- XOR_EXTENDED (R170): XOR in its wider forms. -/
  | xorExtended (f : Form)
  /-- SHL (R171): logical left shift; counts at or above W give 0. -/
  | shl (f : Form)
  /-- SHL_EXTENDED (R171): SHL in its wider forms. -/
  | shlExtended (f : Form)
  /-- SHR (R171): logical right shift. -/
  | shr (f : Form)
  /-- SHR_EXTENDED (R171): SHR in its wider forms. -/
  | shrExtended (f : Form)
  /-- SAR (R171): arithmetic right shift. -/
  | sar (f : Form)
  /-- SAR_EXTENDED (R171): SAR in its wider forms. -/
  | sarExtended (f : Form)
  /-- MIN (R167): the smaller of two integers. -/
  | min (f : Form)
  /-- MIN_EXTENDED (R167): MIN in its wider forms. -/
  | minExtended (f : Form)
  /-- MAX (R167): the larger of two integers. -/
  | max (f : Form)
  /-- MAX_EXTENDED (R167): MAX in its wider forms. -/
  | maxExtended (f : Form)
  /-- CMP (R173): integer compare into a predicate per thread. -/
  | cmp (f : Form)
  /-- CMP_EXTENDED (R173): CMP with a condition modifier, a literal or a high scalar. -/
  | cmpExtended (f : Form)
  /-- SEL (R174): writes A where the guard holds and B elsewhere; the guard never suppresses it. -/
  | sel (f : Form)
  /-- SEL_EXTENDED (R174): SEL in its wider forms. -/
  | selExtended (f : Form)
  /-- MOV (R174): copies A at width W. -/
  | mov (f : Form)
  /-- MOV_EXTENDED (R174): MOV in its wider forms. -/
  | movExtended (f : Form)
  /-- LEA (R175): forms the address sum A plus B scaled by 2^k. -/
  | lea (f : Form)
  /-- LEA_EXTENDED (R175): LEA with a scale or width modifier. -/
  | leaExtended (f : Form)
  /-- FADD (R180): binary32 addition. -/
  | fadd (f : Form)
  /-- FADD_EXTENDED (R180): FADD with rounding or FTZ modifiers. -/
  | faddExtended (f : Form)
  /-- FMUL (R180): binary32 multiplication. -/
  | fmul (f : Form)
  /-- FMUL_EXTENDED (R180): FMUL in its wider forms. -/
  | fmulExtended (f : Form)
  /-- FMA (R180): fused multiply-add with one rounding; in the base form D is the addend. -/
  | fma (f : Form)
  /-- FMA_EXTENDED (R180): FMA with C as the addend. -/
  | fmaExtended (f : Form)
  /-- FMIN (R181): binary32 minimum that passes over a single NaN. -/
  | fmin (f : Form)
  /-- FMIN_EXTENDED (R181): FMIN with FTZ. -/
  | fminExtended (f : Form)
  /-- FMAX (R181): binary32 maximum that passes over a single NaN. -/
  | fmax (f : Form)
  /-- FMAX_EXTENDED (R181): FMAX with FTZ. -/
  | fmaxExtended (f : Form)
  /-- FCMP (R182): binary32 compare into a predicate. -/
  | fcmp (f : Form)
  /-- FCMP_EXTENDED (R182): FCMP with a condition or FTZ modifier. -/
  | fcmpExtended (f : Form)
  /-- LD (R224): loads from the path that the address selects; long-latency on its clause flag. -/
  | ld (f : Form)
  /-- LD_EXTENDED (R224): LD with a size or SX modifier, or a literal. -/
  | ldExtended (f : Form)
  /-- ST (R225): stores per thread: into the publication buffer on GEN and PEER, directly on the other paths. -/
  | st (f : Form)
  /-- ST_EXTENDED (R225): ST with a size modifier or a literal. -/
  | stExtended (f : Form)
  /-- LDC (R226): reads one group-uniform address once through CON. -/
  | ldc (f : Form)
  /-- LDC_EXTENDED (R226): LDC with modifiers or a literal. -/
  | ldcExtended (f : Form)
  /-- ADDC (R168): adds with a carry predicate in and out. -/
  | addc (f : Form)
  /-- MULH (R167): writes the high half of the exact product. -/
  | mulh (f : Form)
  /-- DIV (R169): truncating integer division with defined edge cases. -/
  | div (f : Form)
  /-- REM (R169): integer remainder. -/
  | rem (f : Form)
  /-- NEG (R167): integer negation. -/
  | neg (f : Form)
  /-- ABS (R167): integer absolute value. -/
  | abs (f : Form)
  /-- NOT (R170): bitwise NOT. -/
  | not (f : Form)
  /-- ROT (R171): rotates left by the count mod W. -/
  | rot (f : Form)
  /-- POPC (R170): counts one bits. -/
  | popc (f : Form)
  /-- CLZ (R170): counts leading zero bits. -/
  | clz (f : Form)
  /-- BREV (R170): reverses the bits. -/
  | brev (f : Form)
  /-- BFX (R172): extracts a bit field. -/
  | bfx (f : Form)
  /-- BFI (R172): inserts a bit field. -/
  | bfi (f : Form)
  /-- IDX (R176): forms the address of a capability element, with an optional bounds check. -/
  | idx (f : Form)
  /-- FSUB (R180): binary32 subtraction. -/
  | fsub (f : Form)
  /-- FRCP (R183): correctly rounded reciprocal. -/
  | frcp (f : Form)
  /-- FRSQ (R183): correctly rounded reciprocal square root. -/
  | frsq (f : Form)
  /-- FSQRT (R183): correctly rounded square root. -/
  | fsqrt (f : Form)
  /-- FEX2 (R183): correctly rounded 2^x. -/
  | fex2 (f : Form)
  /-- FLG2 (R183): correctly rounded log2 x. -/
  | flg2 (f : Form)
  /-- FRND (R184): rounds to an integral binary32 value. -/
  | frnd (f : Form)
  /-- FCLASS (R185): classifies a binary32 value into a code or a masked predicate. -/
  | fclass (f : Form)
  /-- VDOT4 (R187): dot product of four byte pairs added to C. -/
  | vdot4 (f : Form)
  /-- HFMA2 (R186): packed half-precision fused multiply-add. -/
  | hfma2 (f : Form)
  /-- HADD2 (R186): packed half-precision addition. -/
  | hadd2 (f : Form)
  /-- HMUL2 (R186): packed half-precision multiplication. -/
  | hmul2 (f : Form)
  /-- CVT_TO (R192): converts binary32 into an element of the slot format. -/
  | cvtTo (f : Form)
  /-- CVT_FR (R192): converts an element of the slot format into binary32. -/
  | cvtFr (f : Form)
  /-- CVT_BLK (R193): converts each half-group block into block mantissas and an exponent. -/
  | cvtBlk (f : Form)
  /-- CVT_UBLK (R194): converts a mantissa and exponent pair back to binary32. -/
  | cvtUblk (f : Form)
  /-- FCVT (R188): converts between binary32, binary16 and BF16 by KIND. -/
  | fcvt (f : Form)
  /-- ICVT (R189): converts between binary32 and integers. -/
  | icvt (f : Form)
  /-- RQ (R195): requantises a block mantissa to a shifted exponent. -/
  | rq (f : Form)
  /-- PLN (R196): writes bit planes from the lane mantissas. -/
  | pln (f : Form)
  /-- UNPL (R197): rebuilds mantissas from bit planes. -/
  | unpl (f : Form)
  /-- RFL (R157): writes the lowest participating thread's value into a scalar. -/
  | rfl (f : Form)
  /-- MATCH (R158): writes the mask of participating lanes that hold an equal value. -/
  | matchLanes (f : Form)
  /-- VOTE_ANY (R159): true when any participating thread's predicate is true. -/
  | voteAny (f : Form)
  /-- VOTE_ALL (R159): true when all participating threads' predicates are true. -/
  | voteAll (f : Form)
  /-- VOTE_BAL (R159): counts the participating threads whose predicate is true. -/
  | voteBal (f : Form)
  /-- SHFL_IDX (R160): reads A from lane B. -/
  | shflIdx (f : Form)
  /-- SHFL_UP (R160): reads A from lane lane - B. -/
  | shflUp (f : Form)
  /-- SHFL_DN (R160): reads A from lane lane + B. -/
  | shflDn (f : Form)
  /-- SHFL_XOR (R160): reads A from lane lane xor B. -/
  | shflXor (f : Form)
  /-- LMASK_LT (R161): writes the mask of lanes below the thread's own. -/
  | lmaskLt (f : Form)
  /-- LMASK_LE (R161): writes the mask of lanes at or below the thread's own. -/
  | lmaskLe (f : Form)
  /-- LMASK_GT (R161): writes the mask of lanes above the thread's own. -/
  | lmaskGt (f : Form)
  /-- LMASK_GE (R161): writes the mask of lanes at or above the thread's own. -/
  | lmaskGe (f : Form)
  /-- BCST (R160): broadcasts A of a uniform lane B. -/
  | bcst (f : Form)
  /-- CALLS (R149): a call to a scalar target, with the frame taken from MOD. -/
  | calls (f : Form)
  /-- YIELD (R152): swaps the group out as ready when another group is ready. -/
  | yield (f : Form)
  /-- TRAP (R151): raises the software trap with code k. -/
  | trap (f : Form)
  /-- WAITF (R153): holds the next instruction until the named flags clear. -/
  | waitf (f : Form)
  /-- ACQ (R154): raises the group's allotment to the full allotment, or enters ACQ-wait. -/
  | acq (f : Form)
  /-- REL (R154): returns the group to its prologue allotment and frees the words. -/
  | rel (f : Form)
  /-- LDK (R227): loads a 16-byte granule into a capability pair, with its tag. -/
  | ldk (f : Form)
  /-- STK (R227): stores a capability pair and its tag into a granule. -/
  | stk (f : Form)
  /-- ATOM_ADD (R230): atomic add at a Clasp engine, returning the old value. -/
  | atomAdd (f : Form)
  /-- ATOM_FADD (R230): atomic binary32 add. -/
  | atomFadd (f : Form)
  /-- ATOM_MIN (R230): atomic minimum. -/
  | atomMin (f : Form)
  /-- ATOM_MAX (R230): atomic maximum. -/
  | atomMax (f : Form)
  /-- ATOM_AND (R230): atomic AND. -/
  | atomAnd (f : Form)
  /-- ATOM_OR (R230): atomic OR. -/
  | atomOr (f : Form)
  /-- ATOM_XOR (R230): atomic XOR. -/
  | atomXor (f : Form)
  /-- ATOM_XCHG (R230): atomic exchange. -/
  | atomXchg (f : Form)
  /-- ATOM_CAS (R230): atomic compare-and-swap. -/
  | atomCas (f : Form)
  /-- RED_ADD (R230): reduction add with no return value. -/
  | redAdd (f : Form)
  /-- RED_FADD (R230): reduction binary32 add. -/
  | redFadd (f : Form)
  /-- RED_MIN (R230): reduction minimum. -/
  | redMin (f : Form)
  /-- RED_MAX (R230): reduction maximum. -/
  | redMax (f : Form)
  /-- RED_AND (R230): reduction AND. -/
  | redAnd (f : Form)
  /-- RED_OR (R230): reduction OR. -/
  | redOr (f : Form)
  /-- RED_XOR (R230): reduction XOR. -/
  | redXor (f : Form)
  /-- POOL_A (R237): allocates the lowest free block of a pool as a tagged capability. -/
  | poolA (f : Form)
  /-- POOL_F (R237): frees a block of a pool. -/
  | poolF (f : Form)
  /-- CPY (R242): checks a copy descriptor and starts a copy channel. -/
  | cpy (f : Form)
  /-- CPWP (R247): reads a channel's state and write pointer. -/
  | cpwp (f : Form)
  /-- CPWT (R248): waits until a channel's write pointer reaches a value. -/
  | cpwt (f : Form)
  /-- CPCAN (R249): stops a channel at its next sector boundary. -/
  | cpcan (f : Form)
  /-- BINIT (R280): initialises and arms a barrier object. -/
  | binit (f : Form)
  /-- BARV (R281): records an arrival at a barrier object or at the team barrier. -/
  | barv (f : Form)
  /-- BEXP (R282): adds expected bytes to a barrier object. -/
  | bexp (f : Form)
  /-- BWAIT (R283): waits for a barrier phase to complete. -/
  | bwait (f : Form)
  /-- BTRY (R284): tests a barrier without waiting. -/
  | btry (f : Form)
  /-- PHASE (R286): closes the group's phase at a scope and publishes its stores. -/
  | phase (f : Form)
  /-- FENCE (R287): orders the group's own accesses across paths. -/
  | fence (f : Form)
  /-- FOPD (R288): orders visible scratchpad writes before later engine operand reads. -/
  | fopd (f : Form)
  /-- TOKWT (R289): waits for, or polls, a completion token. -/
  | tokwt (f : Form)
  /-- MMA (R259): queues a one-core tile product on the matrix engine. -/
  | mma (f : Form)
  /-- MMAC (R263): queues a tile product split over a 2 x 2 rectangle. -/
  | mmac (f : Form)
  /-- MSMX (R266): queues an online-softmax step. -/
  | msmx (f : Form)
  /-- MDRN (R268): queues a drain of accumulator cells to memory or registers. -/
  | mdrn (f : Form)
  /-- MZERO (R271): queues the zeroing of accumulator cells. -/
  | mzero (f : Form)
  /-- MLDA (R272): queues a load of raw cell bits from scratchpad. -/
  | mlda (f : Form)
  /-- MSIDE (R264): queues the initialisation, save or load of side registers. -/
  | mside (f : Form)
  /-- CNAR (R87): narrows a capability to a sub-range. -/
  | cnar (f : Form)
  /-- CPERM (R88): masks a capability's permissions. -/
  | cperm (f : Form)
  /-- CGET (R89): reads a capability field. -/
  | cget (f : Form)
  /-- CCHK (R90): checks a range against a capability and returns the sub-cause. -/
  | cchk (f : Form)
  /-- CMINT (R91): mints a tagged capability from plain numbers; privileged. -/
  | cmint (f : Form)
  /-- LFILL (R331): holds a fill of the thread's Loupe rectangle, performed when its tile is decided. -/
  | lfill (f : Form)
  /-- LSPLIT (R332): makes the thread's tile undecided. -/
  | lsplit (f : Form)
  /-- IVPT (R333): tests whether an operand is a point. -/
  | ivpt (f : Form)
  /-- IVLO (R333): writes an interval's lower end. -/
  | ivlo (f : Form)
  /-- IVHI (R333): writes an interval's upper end. -/
  | ivhi (f : Form)
  /-- LSUM (R334): builds a Loupe summary of an array. -/
  | lsum (f : Form)
  /-- SOPEN (R349): opens a Strand session with a plan. -/
  | sopen (f : Form)
  /-- SRUN (R350): runs a Strand session to DONE or FAULT. -/
  | srun (f : Form)
  /-- STOPK (R351): writes a session's ranked list. -/
  | stopk (f : Form)
  /-- SSTAT (R352): reads a session's status. -/
  | sstat (f : Form)
  /-- LAUNCH (R113): checks, closes a .pa phase, reads and queues a launch record. -/
  | launch (f : Form)
  /-- LQRY (R112): reads a grid's state and retired-cluster count. -/
  | lqry (f : Form)
  /-- LCAN (R114): cancels a grid according to its state. -/
  | lcan (f : Form)
  /-- SYSRD (R373): reads a system register. -/
  | sysrd (f : Form)
  /-- SYSWR (R373): writes a system register. -/
  | syswr (f : Form)
  /-- ERET (R374): ends service of a record, acting by its cause, and frees the ring head. -/
  | eret (f : Form)
  /-- TLBI_PAGE (R375): invalidates the TLB entries that map one address. -/
  | tlbiPage (f : Form)
  /-- TLBI_TEN (R375): invalidates every TLB entry of one translation. -/
  | tlbiTen (f : Form)
  /-- TLBI_ALL (R375): invalidates every TLB entry. -/
  | tlbiAll (f : Form)
  /-- SLOG_ST (R376): reads the side log's count and head index. -/
  | slogSt (f : Form)
  /-- SLOG_RD (R376): reads a word of a side-log entry. -/
  | slogRd (f : Form)
  /-- SLOG_DH (R376): discards the side-log head entry. -/
  | slogDh (f : Form)
  /-- FREEZE (R377): freezes a tenant on the device. -/
  | freeze (f : Form)
  /-- THAW (R378): restores a cluster section of a Locket image onto a rectangle. -/
  | thaw (f : Form)
  /-- THAW_IP (R378): resumes a frozen tenant in place. -/
  | thawIp (f : Form)
  /-- WINSP (R379): spills register-stack words of the masked threads. -/
  | winsp (f : Form)
  /-- WINFL (R379): fills register-stack words of the masked threads. -/
  | winfl (f : Form)
  /-- HALT_GRID (R380): ends the served group's grid as CANCELLED. -/
  | haltGrid (f : Form)
  /-- HALT_TEN (R380): releases a frozen tenant's device state. -/
  | haltTen (f : Form)
  /-- BARREL_TURN (R132): in its barrel turn, a ready active group issues one instruction of its issuing set. -/
  | barrelTurn
  /-- QUANTUM_EXPIRY (R135): a group that has owned its turn for 56 rotations while a ready group is pending is swapped out. -/
  | quantumExpiry (r : GRef)
  /-- LONG_LATENCY_COMPLETION (R123): a long-latency operation completes and decrements its flag, readying any waiting group. -/
  | longLatencyCompletion (r : GRef) (id : Nat)
  /-- ACQUIRE_DEADLOCK_BREAK (R108): when every group of a quarter is in ACQ-wait, the youngest is spilled to its SPILL area once its flags are 0. -/
  | acquireDeadlockBreak (core qtr : Nat)
  /-- SPILLED_REFILL (R41): a spilled group whose slot and allotment fit again is restored and re-executes its ACQ. -/
  | spilledRefill (core qtr : Nat)
  /-- GRID_RETIRE (R44): a grid retires once its last cluster retires and its side-log stores are empty, and closes its phase at CSCOPE. -/
  | gridRetire (part handle : Nat)
  /-- GRID_START (R101): the launch engine starts the highest-priority queued grid whose dependences are satisfied. -/
  | gridStart (part : Nat)
  /-- CLUSTER_ADMISSION (R103): a cluster is admitted once its rectangle meets the admission conditions. -/
  | clusterAdmission (part handle idx : Nat)
  /-- COOPERATIVE_ADMISSION (R105): all clusters of a cooperative grid are admitted at one instant. -/
  | cooperativeAdmission (part handle : Nat)
  /-- CORE_WITHDRAW (R107): the partition manager withdraws cores, parking the grids that ran on them. -/
  | coreWithdraw (part : Nat) (cores : List Nat)
  /-- PARKED_RESUME (R107): a parked cluster or cooperative grid resumes by THAW once its rectangles are available. -/
  | parkedResume (part handle : Nat)
  /-- PUBLICATION_BUFFER_DRAIN (R200): the buffer drains stores to memory at times of its choosing. -/
  | publicationBufferDrain (core : Nat)
  /-- SIDE_LOG_REPLAY (R364): the side log replays its head entry, or writes a cause 0x11 record when the head faults. -/
  | sideLogReplay (core : Nat)
  /-- FAULT_RECORD_WRITE (R360): the core writes a record at the ring tail, waiting for room when the ring is full. -/
  | faultRecordWrite (core qtr : Nat)
  /-- SYSTEM_GROUP_SERVICE (R355): the system group starts at SVEC to serve the record at the ring head. -/
  | systemGroupService (core qtr : Nat)
  /-- CLASP_REQUEST (R233): a Clasp engine serves one atomic, reduction or pool request. -/
  | claspRequest (engine : Nat)
  /-- HOT_LINE_WRITEBACK (R232): a memory-side engine writes back a hot line that it evicts. -/
  | hotLineWriteback (engine line : Nat)
  /-- PAGE_MOVE_REQUEST (R218): a page move is requested and takes the page's move lock. -/
  | pageMoveRequest (ten : Nat) (va : BitVec 64) (m : PageMove)
  /-- PAGE_MOVE_COMPLETE (R218): a page move writes the leaf, invalidates the TLBs, releases the lock and releases waiters. -/
  | pageMoveComplete (ten : Nat) (va : BitVec 64)
  /-- ENGINE_COMPRESS (R220): the page-move engine compresses a clean capacity-tier page of its own accord. -/
  | engineCompress (ten : Nat) (va : BitVec 64)
  /-- COPY_SECTOR (R244): a channel writes its next sector at a receiver, raises WP and credits the barrier object. -/
  | copySector (core ch recv : Nat)
  /-- MATRIX_OPERATION_START (R250): the engine starts the next queued operation. -/
  | matrixOperationStart (core : Nat)
  /-- MATRIX_UNIT (R260): the engine completes one unit of work: a K step, a row or a block of rows. -/
  | matrixUnit (core : Nat)
  /-- MATRIX_OPERATION_COMPLETE (R260): an operation completes 16 cycles after its last unit and decrements its flag. -/
  | matrixOperationComplete (core : Nat)
  /-- MMAC_QUARTER_ENQUEUE (R263): an MMAC quarter enters another core's queue 4 cycles after issue. -/
  | mmacQuarterEnqueue (core : Nat)
  /-- BARRIER_UNIT_OPERATION (R275): the barrier unit performs one arriving barrier operation on an object. -/
  | barrierUnitOperation (core : Nat)
  /-- STRAND_BLOCK (R339): a Strand engine decodes and evaluates one block of a running session. -/
  | strandBlock (core sess : Nat)
  /-- LSUM_BLOCK (R334): the LSUM engine reads one 1,024-byte block and writes its summary entry, or meets a translation fault with a cause 0x12 record. -/
  | lsumBlock (r : GRef) (id : Nat)
  /-- LOUPE_BATCH_START (R314): a Loupe group takes its next batch of tiles or elements, or retires. -/
  | loupeBatchStart (r : GRef)
  /-- FREEZE_REACH_CORE (R369): FREEZE arrives at a core, and its groups and engines stop at their boundaries. -/
  | freezeReachCore (ten core : Nat)
  /-- RECONVERGENCE_TIMEOUT (R368): after FRZTO.TO a still-diverged group meets a forced save. -/
  | reconvergenceTimeout (ten core : Nat)
  /-- FREEZE_COMPLETE (R369): FREEZE completes once every group and engine has halted and drains have ended. -/
  | freezeComplete (ten : Nat)
  /-- PEER_REQUEST (R210): a PEER access arrives at its target device and is translated there. -/
  | peerRequest (q : PeerIn)
  /-- RESOLVED_MESSAGE (R366): the target's resolved message lets the initiator's refused entry replay. -/
  | resolvedMessage (dev : Nat) (va : BitVec 64)
  /-- REMOTE_TIMEOUT (R366): a PEER load or ATOM held 100 us stops its group with cause 0x0f. -/
  | remoteTimeout (r : GRef) (id : Nat)
  /-- PAGE_PULL (R400): a remote-owned page is pulled from the source device and made present. -/
  | pagePull (ten : Nat) (va : BitVec 64)
  /-- PULL_SERVICE (R401): the source device serves a pull: it finishes atomics, writes back lines and sends the page. -/
  | pullService (ten : Nat) (va : BitVec 64) (dev : Nat)
  /-- PULL_REFUSAL_TIMEOUT (R401): a pull refused for 100 us writes a REMOTE record for each waiting access. -/
  | pullRefusalTimeout (ten : Nat) (va : BitVec 64)
  /-- FORWARDED_ATOMIC (R402): an ATOM on a remote-owned line is served at the source engine, or retried. -/
  | forwardedAtomic (q : PeerIn)
  /-- ROUTE_SWITCH (R404): every device routes the source's index to the destination at one instant. -/
  | routeSwitch (old new : Nat)
  /-- MIGRATION (R399): the partition manager migrates a tenant between devices step by step. -/
  | migration (ten : Nat) (act : Nat)
  /-- MANAGER_REQUEST (R362): a request of the partition manager arrives as a cause 0x1e record. -/
  | managerRequest (core qtr code ten : Nat)
  /-- HALT_NOTICE (R415): the partition manager acts on a halted core's notice. -/
  | haltNotice (core : Nat)
  /-- CORE_REPAIR (R424): a core with too little margin is moved to a spare and retired. -/
  | coreRepair (core spare : Nat)
  /-- VOLTAGE_REPLAN (R423): every 24 hours each core's supply voltage is re-planned. -/
  | voltageReplan
  /-- HOST_READ (R409): a host read through the GEN or DAP aperture is translated and served. -/
  | hostRead (off len : Nat)
  /-- HOST_WRITE (R409): a host write through the GEN aperture is translated and performed. -/
  | hostWrite (off : Nat) (data : List (BitVec 8))
  /-- HOST_ATOMICOP (R408): a host AtomicOp is served at the line's home engine. -/
  | hostAtomicop (off size : Nat) (op : AtomOp) (uns : Bool) (value cmp : BitVec 64)
  /-- HOST_FAULT_SERVICE (R414): the partition manager copies a host fault record into the error log and signals MSI-X. -/
  | hostFaultService
  /-- CAPHI (R109): a host write to CAPHI submits a launch record capability. -/
  | caphi (bell : Nat) (value : BitVec 64)
  /-- HOST_LAUNCH_OUTCOME (R111): a doorbell submission ends with STATUS and HANDLE set and BUSY clear. -/
  | hostLaunchOutcome (bell : Nat)
  /-- CRST (R422): a host write of 1 to HCTL.CRST requests a compute reset. -/
  | crst
  /-- ATTESTATION_SIGN (R426): a write of 1 asks the device to sign an attestation report. -/
  | attestationSign
  /-- HOST_REGISTER_WRITE (R421): a host write to a control-page byte with no behaviour of its own. -/
  | hostRegisterWrite (off : Nat) (data : List (BitVec 8))
  /-- ATS_INVALIDATE_REQUEST (R416): an ATS Invalidate Request removes cached host translations. -/
  | atsInvalidateRequest (pasid : Nat) (va : BitVec 64)
  /-- PAGE_REQUEST_RESPONSE (R416): a PRS response retries or faults the waiting accesses. -/
  | pageRequestResponse (pasid : Nat) (va : BitVec 64) (code : PrsCode)
  /-- COMPUTE_RESET (R418): a compute reset clears the compute domain. -/
  | computeReset
  /-- COMPUTE_RESET_COMPLETE (R418): the compute reset completes and CRSTP clears. -/
  | computeResetComplete
  /-- FULL_RESET (R419): a full reset takes the link down, zeroes near memory and restarts bring-up. -/
  | fullReset
  /-- POWER_GOOD (R420): power-good starts bring-up. -/
  | powerGood
  /-- BRINGUP_STEP_END (R420): a bring-up step ends and STEP advances, setting READY at the last step. -/
  | bringupStepEnd
  /-- ATTESTATION_REPORT_SIGNED (R426): the device finishes signing an attestation report, writes the report and signature, and clears BUSY with its status. -/
  | attestationReportSigned
  /-- ATS_TRANSLATION_COMPLETION (R416): the host's answer to an ATS Translation Request for a PASID-bound walk arrives, and the walk goes on or sends a page request. -/
  | atsTranslationCompletion (pasid : Nat) (va : BitVec 64) (ans : AtsAnswer)
  /-- PARTITION_CREATE (R97): the partition manager creates a partition, setting every token to 0 and restarting handles at 1. -/
  | partitionCreate (pid ndev didx : Nat) (cores : List Nat)
  /-- PEER_RETRY_RESPONSE (R404): a retry response from the old source device arrives at an initiator, which reissues the PEER request along the new route. -/
  | peerRetryResponse (r : GRef) (id : Nat)
  /-- PEER_REFUSAL_RESPONSE (R366): a target's refusal of a faulting PEER access arrives at the initiator, which retires a store or RED into its side log or holds a load or ATOM. -/
  | peerRefusalResponse (r : GRef) (id : Nat)
deriving DecidableEq, Repr

end Sys2Proof
end

