-- ==== Sys2Proof/Machine/State.lean ====
section
/-! DEFINITION. The state of one S4 device as plain data, and the state right after reset. Every piece of
state that the manual names has a field; INVENTORY.md lists them with their rules. Fields marked MODEL are the
model's own (the agenda of due events, the ticket of the free values). -/

namespace Sys2Proof.Machine

open Sys2Proof

/-- The reasons a step can stop with a fault. -/
inductive Fault where
  /-- Raised by an instruction's meaning when the state has no group whose turn it is. No step reaches it:
  BARREL_TURN latches an instruction only for an issuing group. Safe: the model stops. -/
  | noIssuingGroup
deriving DecidableEq, Repr

/-- The reasons an instruction has no meaning. -/
inductive Refusal where
  /-- Raised by an arm of `exec` whose instruction has no meaning in the model yet, by its mnemonic. Safe. -/
  | notModelled (mnemonic : String)
deriving DecidableEq, Repr

/-- A predicate's truth value; U only in a Loupe pass (R28, R320). -/
inductive Tri where
  | f | t | u
deriving DecidableEq, Repr

/-- The hidden bits of an interval register (R317): KIND 0 S, 1 U, 2 F, 3 X. -/
structure Hidden where
  kind : BitVec 2
  np   : Bool
  wide : Bool
deriving DecidableEq, Repr

/-- A capability: its 128 bits and its tag (R78). -/
structure Cap where
  bits : QWord
  tag  : Bool
deriving DecidableEq, Repr

/-- A rectangle of Loupe elements (R314, R319). -/
structure Rect where
  x0 : Nat
  x1 : Nat
  y0 : Nat
  y1 : Nat
deriving DecidableEq, Repr

/-- A held LFILL (R331, R392), with the instruction's base-word address and LEN for its record (R381), and whether a
record of its fault is unserved. -/
structure HeldFill where
  cap : Cap
  val : Word
  pc  : DWord
  len : BitVec 2
  told : Bool
deriving DecidableEq, Repr

/-- A thread (R28, R142, R389), its register stack by logical word, and its Loupe item (R314). -/
structure Thread where
  pc    : DWord
  depth : Nat
  wb    : Nat
  rb    : Nat
  /-- p1 to p7. -/
  preds : List Tri
  live  : Bool
  /-- position within the clause (32: a header is due whose check as a branch target is still to be made), and the
  instructions still to come in it: 0 when a header is due. `none` after a THAW from an image, which does not hold it
  (assumption 12). -/
  cpos  : Nat
  left  : Option Nat
  seta  : BitVec 4
  setb  : BitVec 4
  /-- words written since group start; another word has no defined value (R15). -/
  stack : NMap Word
  /-- hidden bits by even logical word, in a Loupe grid (R317). -/
  hid   : NMap Hidden
  /-- this thread holds a batch item; it runs in point mode; its queue entry, element and rectangle. -/
  lv    : Bool
  point : Bool
  entry : Nat
  elem  : Nat
  rect  : Rect
  fills : List HeldFill
deriving DecidableEq, Repr

/-- An operand latch (R19, R138, R388): instructions since the capture (`none`: none in range), whether the
capture was 64 bits wide, the lanes captured and their values. -/
structure Latch where
  age   : Option Nat
  wide  : Bool
  lanes : LaneMask
  vals  : NMap DWord
  /-- in a Loupe grid: the upper ends and hidden bits of a captured vector (R317). -/
  his   : NMap DWord
  hids  : NMap Hidden
deriving DecidableEq, Repr

/-- A register that a long-latency operation writes: a logical stack word of a lane, a scalar, a predicate. -/
inductive Reg where
  | word (lane w : Nat)
  | scalar (n : Nat)
  | pred (lane n : Nat)
deriving DecidableEq, Repr

/-- What a faulting access waits for. -/
inductive HoldWhy where
  /-- ERET of its record (R363). -/
  | record
  /-- the release of a page's move lock, a promotion or a pull (R218, R400). -/
  | lock
  /-- a host page request or ATS translation (R416). -/
  | host
  /-- a refused PEER access (R366). -/
  | peer
  /-- the replay of a side-log entry that it overlaps (R305); the group is not held. -/
  | log
deriving DecidableEq, Repr

/-- The states of a group (R41, R134, R388). Being in the active set is `Quarter.active`, being frozen
`Group.frozen`. -/
inductive GState where
  | ready
  /-- waits for the flags of the mask: at a clause header, or in a WAITF. -/
  | waiting (mask : BitVec 12) (waitf : Bool)
  | acqWait
  /-- held by the faulting access of the outstanding operation. -/
  | held (id : Nat)
  /-- held by a faulting fetch, or by a branch target that cannot be read yet (R124, R363). -/
  | fetchHeld (why : HoldWhy)
  | trapped
  | spilled
  | draining
  /-- a Loupe group without a free tile-queue entry (R314). -/
  | batchWait
deriving DecidableEq, Repr

/-- One lane's memory request: the lane (64 for a request made once for the group), the address, the bytes. -/
structure Req where
  lane : Nat
  addr : DWord
  size : Nat
  data : DWord
  cmp  : DWord
deriving DecidableEq, Repr

/-- What an outstanding long-latency operation is, and what it still waits for. -/
inductive PendKind where
  /-- its results are at hand. -/
  | ready
  /-- LD, LDC or LDK: `none` once its data are on their way; a waiting one is reissued whole from its requests. -/
  | load (why : Option HoldWhy) (acc : Access) (reqs : List Req) (f : Form) (ldk : Bool)
  /-- ATOM: requests not yet served, of which the held ones wait. -/
  | atom (why : Option HoldWhy) (op : AtomOp) (uns : Bool) (scope : BitVec 4) (wide : Bool) (left : List Req) (f : Form)
  | pool (why : Option HoldWhy) (free : Bool) (c : Cap) (blk : Cap)
  /-- CPY, until the channel stops. -/
  | copy (ch : Nat)
  | cpwt (owner ch : Nat) (value : DWord)
  | cpcan (ch : Nat) (before : Nat)
  /-- BWAIT on an object of a core, or BTRY on its way there; `none`: the team barrier's generation. -/
  | bwait (obj : Option (Nat × Nat)) (parity : Bool) (gen : Nat)
  | btry (core off : Nat) (parity st : Bool)
  /-- a BWAIT on its way to another core's barrier unit. -/
  | bsent (core off : Nat) (parity : Bool)
  | tokwt (token : Nat) (target : Word)
  | phase (scope : BitVec 4)
  | fence
  /-- a matrix operation: engines that have still to complete it. -/
  | matrix (cores : List Nat)
  | srun (sess : Nat)
  /-- STOPK: elements still to write. -/
  | stopk (sess : Nat) (why : Option HoldWhy) (addr : DWord) (left : List DWord) (n : Nat)
  /-- TLBI: until the requests of the translation's tenant, or of all, have been performed (R375). -/
  | tlbi (ten : Option Nat)
  /-- LSUM: next block, and the hold of its faulting access. -/
  | lsum (why : Option HoldWhy) (dst src : Cap) (kind : BitVec 2) (blk : Nat)
  | launch (why : Option HoldWhy) (c : Cap)
  | freeze (ten : Nat)
deriving DecidableEq, Repr

/-- A Loupe register that an outstanding load writes: the logical word of its lower end, the value's width and ends,
the hidden bits, and whether the hull with the old value is written (R320). -/
structure IvDest where
  lane : Nat
  w    : Nat
  size : Nat
  lo   : DWord
  hi   : DWord
  hid  : Hidden
  hull : Bool
deriving DecidableEq, Repr

/-- An outstanding or completed but uncovered long-latency operation (R123, R140). -/
structure Pend where
  id     : Nat
  flag   : Nat
  /-- base-word address and LEN of the instruction (R361, R381). -/
  pc     : DWord
  len    : BitVec 2
  mask   : LaneMask
  kind   : PendKind
  /-- what it was issued as; `kind` says how far it is. -/
  born   : PendKind
  /-- MODEL: the ticket of its issue, 0 for a restored one. -/
  issued : Nat
  /-- registers it writes, and the values once it has them. -/
  dests  : List Reg
  vals   : List DWord
  ivs    : List IvDest
  /-- destinations that a short-latency instruction has written since the issue (R140). -/
  clash  : List Reg
  /-- the pair written as a capability: register and tag. -/
  capTag : Option (Nat × Bool)
  done   : Bool
  /-- scratchpad bytes that it writes (R262), by `core * 2^22 + offset` and length, and those of them that another
  write has met before its completion. -/
  owns   : List (Nat × Nat)
  dirty  : List (Nat × Nat)
  /-- the cycle of a remote access's first refusal (R366); of a PHASE or FENCE, the ticket of its issue. -/
  since  : Nat
deriving DecidableEq, Repr

/-- A fault record (R361, R362); `who` as SERV. -/
structure Record where
  cause : Nat
  sub   : Nat
  len   : BitVec 2
  seq   : Word
  pc    : DWord
  rpc   : DWord
  mask  : LaneMask
  addr  : DWord
  info  : DWord
  who   : DWord
  /-- MODEL: the ticket of an engine's fault, by which its ERET finds the access that waits for it (R382). -/
  id    : Nat := 0
deriving DecidableEq, Repr

/-- A group (R26, R28, R41, R388). -/
structure Group where
  ten    : Nat
  part   : Nat
  handle : Nat
  /-- team slot on the core (R215), index in the team, role and index in it (R37). -/
  team   : Nat
  gidx   : Nat
  ridx   : Nat
  role   : BitVec 2
  lpass  : Bool
  st     : GState
  frozen : Bool
  /-- halted by a forced save (R368). -/
  forced : Bool
  /-- cycle in which it last became ready (R135); its admission number (R42). -/
  readyAt : Nat
  age    : Nat
  flags  : List Nat
  pend   : List Pend
  nextId : Nat
  pro    : Nat
  full   : Nat
  allot  : Nat
  acqf   : Bool
  strict : Bool
  univ   : Bool
  scal   : List DWord
  ctag   : BitVec 24
  latches : List Latch
  threads : List Thread
  /-- phase index (R292). -/
  phase  : Nat
  /-- generation of its last BARV on the team barrier (R283), with none outstanding `none`. -/
  bgen   : Option Nat
  /-- a record carried through a freeze (R370). -/
  crec   : Option Record
  /-- MODEL: the ticket of its last FOPD, and of the last acquire before that (R261); of its last acquire: a cover, a CPWP, its start
  (R293). -/
  fopd   : Nat
  fopdFar : Nat
  covered : Nat
deriving DecidableEq, Repr

/-- A quarter: the barrel, the system group's registers and the ring (R132, R135, R136, R356, R360). -/
structure Quarter where
  /-- the eight turns: the slot that owns each. -/
  active : List (Option Nat)
  /-- rotations each turn's owner has had without leaving (R135). -/
  owned  : List Nat
  /-- turns that stay empty once after a hand-over (R135). -/
  gap    : List Bool
  /-- the group being served and the turn given to the system group (R136). -/
  serving : Option Nat
  sysTurn : Option Nat
  /-- events that wait for room in the ring, oldest first (R360), and the records in it. -/
  waitRec : List Record
  ring   : List Record
  /-- ring indices of the head and of the tail; the next sequence number. -/
  head   : Nat
  tail   : Nat
  seq    : Word
  busy   : Bool
  sroot  : DWord
  svec   : DWord
  serv   : DWord
  frec   : DWord
  fqb    : DWord
  frzto  : DWord
  sfault : DWord
  troot  : DWord
deriving DecidableEq, Repr

/-- A team resident on a core (R34, R39, R40, R202, R21). -/
structure Team where
  part   : Nat
  handle : Nat
  ten    : Nat
  /-- map index of its cluster (R102). -/
  map    : Nat
  tidx   : Nat
  w : Nat
  h : Nat
  dx : Nat
  dy : Nat
  x0 : Nat
  y0 : Nat
  wave : Nat
  cx : Nat
  cy : Nat
  gx : Nat
  gy : Nat
  ngrp   : Nat
  spzcfg : DWord
  /-- team barrier: generation, groups arrived in it, groups retired. -/
  gen    : Nat
  arrived : List Nat
  gone   : List Nat
  /-- the index of its cluster in its wave, for the SPILL area (R108). -/
  waveIx : Nat
deriving DecidableEq, Repr

/-- Where a byte of a store goes: a key of the physical memory, or an address of a peer device. -/
inductive Loc where
  | phys (a : Nat)
  | peer (dev : Nat) (va : Nat)
deriving DecidableEq, Repr

/-- The place n bytes on. -/
def Loc.add (l : Loc) (n : Nat) : Loc :=
  match l with
  | .phys k => .phys (k + n)
  | .peer d a => .peer d (a + n)

/-- MODEL: a group by what stays its own through spilling, freezing and THAW (R306): partition, grid handle, map index, TIDX and
GIDX; of a system group 65536, core, quarter, 0 and 0. -/
structure Gid where
  part   : Nat
  handle : Nat
  map    : Nat
  tidx   : Nat
  gidx   : Nat
deriving DecidableEq, Repr

/-- MODEL: whose write an `OldByte` is of, the ticket of its issue, and whether that group's CON reads and DAP reads do not see it
yet (R302, R303). -/
structure Own where
  gid    : Gid
  serial : Nat
  con    : Bool
  dap    : Bool
deriving DecidableEq, Repr

/-- MODEL: a byte of memory that a write has replaced, with the ticket of the write's performance: CON reads see memory as it was
at their group's last boundary (R302), CON and DAP reads not the group's own unpublished writes (R303). -/
structure OldByte where
  time : Nat
  loc  : Loc
  old  : Byte
  own  : Option Own
deriving DecidableEq, Repr

/-- MODEL: a scratchpad byte that an ordinary store or a copy has replaced: after which ticket, its key, what it was, and the storing
group (none: a copy, or another core's store). -/
structure SpadNote where
  time : Nat
  key  : Nat
  old  : Byte
  by_  : Option Gid
deriving DecidableEq, Repr

/-- A store in the publication buffer (R200). -/
structure PubEntry where
  loc   : Loc
  bytes : List Byte
  ref   : GRef
  ten   : Nat
  /-- an STK of a tagged pair (R81). -/
  tag   : Bool
  /-- MODEL: the ticket of its issue. -/
  serial : Nat
deriving DecidableEq, Repr

/-- A side-log entry (R364, R365). -/
structure LogEntry where
  idx   : Nat
  /-- 0 ST, 1 STK, 2 RED. -/
  kind  : Nat
  addr  : DWord
  data  : QWord
  size  : BitVec 3
  scope : BitVec 4
  red   : Nat
  uns   : Bool
  tag   : Bool
  lock  : Bool
  ovl   : Bool
  ref   : GRef
  /-- partition and grid of the group (R44). -/
  part  : Nat
  handle : Nat
  ten   : Nat
  pc    : DWord
  len   : BitVec 2
  /-- the threads that its record names (R361). -/
  mask  : LaneMask
  /-- a cause 0x11 record of it is unserved (R364); it was refused by a peer (R366). -/
  told  : Bool
  refused : Bool
  /-- MODEL: the ticket of its issue. -/
  serial : Nat
deriving DecidableEq, Repr

/-- The states of a copy channel (R246). -/
inductive ChState where
  | idle | run | done | held | cancelled | spzFull
deriving DecidableEq, Repr

/-- A copy channel (R238 to R246, R394). -/
structure Channel where
  st    : ChState
  src   : Cap
  dst   : Cap
  soff  : DWord
  doff  : DWord
  shape : DWord
  ctl   : DWord
  ref   : GRef
  ten   : Nat
  team  : Nat
  pend  : Nat
  pc    : DWord
  len   : BitVec 2
  /-- receivers by TIDX with their core, and WP(r) by TIDX. -/
  recv  : List (Nat × Nat)
  wp    : NMap Nat
  /-- the CB4 table once read (R58), the slot word and SlotP of the conversion. -/
  table : List (BitVec 16)
  tabAt : Nat
  slotw : DWord
  why   : Option HoldWhy
  /-- a CPCAN waits for the next sector boundary. -/
  cancel : Bool
  /-- the stream position; the bytes of the sector that is on its way and the receivers that have dropped it. -/
  pos   : Nat
  buf   : List Byte
  drop  : List Nat
  /-- X of the blocks whose planes have been formed (R244). -/
  xs    : NMap Nat
  /-- the fault record on whose ERET a held channel waits (R382). -/
  told  : Option Nat
deriving DecidableEq, Repr

/-- An operation of the matrix engine (R250, R273). -/
structure MatOp where
  /-- FN of R127. -/
  fn    : Nat
  ref   : GRef
  ten   : Nat
  pend  : Nat
  pc    : DWord
  len   : BitVec 2
  /-- the 128-byte block; for MZERO the tile word in its first eight bytes. -/
  block : List Byte
  /-- tags of the block's granules. -/
  tags  : List Bool
  /-- the slot words of SLA, SLB and SLC. -/
  slots : List DWord
  /-- MODEL: the ticket of the group's last FOPD before the issue, and of the last acquire before that (R261). -/
  fopd  : Nat
  fopdFar : Nat
  /-- quarter (i, j) of an MMAC; the core that holds the A half and the B half. -/
  qi    : Nat
  qj    : Nat
  coreA : Nat
  coreB : Nat
  /-- MDRN in register mode: WB of each lane at issue (R269). -/
  wbs   : List Nat
  /-- started; next sub-tile and K step, or next row. -/
  run   : Bool
  unit  : Nat
  step  : Nat
  why   : Option HoldWhy
deriving DecidableEq, Repr

/-- A posting (R342). -/
structure Posting where
  doc : Nat
  tf  : Nat
deriving DecidableEq, Repr

/-- The states of a Strand session (R340). -/
inductive SessState where
  | closed | opened | run | done | fault | held
deriving DecidableEq, Repr

/-- A Strand session (R339 to R354). -/
structure Session where
  st     : SessState
  nstr   : Nat
  plan   : List DWord
  skip   : Bool
  dlen   : Cap
  dvec   : Cap
  strs   : List Cap
  /-- the session's copy of the saturation tables: 1,024 entries of 16 bits. -/
  tables : List (BitVec 16)
  k      : Nat
  status : Nat
  /-- the highest complete document, `none` before the first. -/
  doc    : Option Nat
  /-- the ranked list: document and score. -/
  topk   : List (Nat × Int)
  /-- by LIST word of the plan: next block, and the postings decoded and not yet evaluated. -/
  cur    : List Nat
  posts  : List (List Posting)
  /-- by LIST word of the plan: the last document of the stream's decoded blocks. -/
  last   : List (Option Nat)
  /-- the same before its last decoded block, from which a saved run decodes again (R354). -/
  prev   : List (Option Nat)
  /-- document ranges of the blocks that SKIP has left undecoded (R347). -/
  gaps   : List (Nat × Nat)
  /-- after a THAW from an image: the LIST words whose next block has been decoded before, and the document up to which every one
  is dealt with (R354). -/
  again  : List Nat
  floor  : Option Nat
  ref    : GRef
  ten    : Nat
  pend   : Nat
  pc     : DWord
  len    : BitVec 2
  why    : Option HoldWhy
deriving DecidableEq, Repr

/-- A TLB entry (R215, R216). `sup` marks the supervisor's translation. -/
structure TlbEntry where
  ten  : Nat
  sup  : Bool
  big  : Bool
  vpn  : Nat
  leaf : DWord
  set  : Nat
deriving DecidableEq, Repr

/-- A request at a Clasp engine, in its port (R230, R233). -/
structure ClaspReq where
  port  : Nat
  ref   : GRef
  pend  : Option Nat
  ten   : Nat
  op    : AtomOp
  uns   : Bool
  wide  : Bool
  req   : Req
  /-- physical key, or core and scratchpad offset. -/
  core  : Option Nat
  loc   : Nat
  pool  : Bool
  /-- MODEL: the ticket of its issue. -/
  serial : Nat
deriving DecidableEq, Repr

/-- A barrier operation on its way to another core's barrier unit (R275). -/
inductive BarOp where
  | init (off count : Nat)
  | arrive (off : Nat)
  | expect (off bytes : Nat)
  | test (off : Nat) (parity st : Bool) (r : GRef) (id : Nat)
  | wait (off : Nat) (parity : Bool) (r : GRef) (id : Nat)
deriving DecidableEq, Repr

/-- The engine and log state that FREEZE moves out of a core for a tenant (R368, R394). -/
structure Saved where
  ten   : Nat
  chans : NMap Channel
  mats  : List MatOp
  sess  : NMap Session
  log   : List LogEntry
  recs  : List (Nat × Record)
deriving DecidableEq, Repr

/-- A core (R1, R132, R200, R201, R250, R251, R339, R356). Its groups are in `State.groups`. -/
structure Core where
  inService : Bool
  halted : Bool
  part   : Option Nat
  saving : DWord
  quarters : List Quarter
  /-- resident teams by team slot. -/
  teams  : NMap Team
  /-- the tenant of the last resident team (R201). -/
  lastTen : Option Nat
  spad   : List Host.Cell
  stags  : List Nat
  armed  : List Nat
  acc    : NMap Word
  side   : NMap (Word × Word)
  mat    : List MatOp
  /-- MMAC quarters on their way to this core's queue (R263). -/
  matIn  : List MatOp
  chans  : List Channel
  pub    : List PubEntry
  /-- MODEL: the ticket of the core's last release that another core can acquire (R293, R297). -/
  released : Nat
  log    : List LogEntry
  logNext : Nat
  /-- the index of a discarded head whose record ERET has not served: replay waits for it (R364). -/
  logWait : Option Nat
  sess   : List Session
  l1     : List TlbEntry
  barq   : List BarOp
  /-- spilled groups by quarter * 64 + slot (R41, R108). -/
  spilled : NMap Group
  saved  : List Saved
  /-- a spare's own number, when it serves in place of a retired core (R424). -/
  spare  : Option Nat
  nextAge : Nat
deriving DecidableEq, Repr

/-- A page move in progress or queued (R218, R219). -/
structure Move where
  ten  : Nat
  page : Nat
  kind : PageMove
  pull : Bool
  queued : List PageMove
deriving DecidableEq, Repr

/-- A tenant: its translation root, settings and binding (R211, R148, R416). -/
structure Tenant where
  part   : Nat
  root   : Nat
  strict : Bool
  pasid  : Option Nat
  frozen : Bool
  /-- a FREEZE is in progress; cores it has still to reach; groups halted and forced so far. -/
  freezing : Bool
  /-- the cycle in which it issued. -/
  freezeAt : Nat
  reach  : List Nat
  halted : Nat
  forced : Nat
deriving DecidableEq, Repr

/-- The state codes of a grid (R99). -/
inductive GridState where
  | gone | queued | running | cancelling | parked | done | cancelled
deriving DecidableEq, Repr

/-- A cluster of a grid. -/
inductive ClusterState where
  | waiting | admitted | retired | parked
deriving DecidableEq, Repr

/-- A cluster: wave read at acceptance, device, origin, state (R102, R106). -/
structure Cluster where
  idx  : Nat
  wave : Nat
  dev  : Nat
  x0   : Nat
  y0   : Nat
  st   : ClusterState
  /-- teams that have still to retire. -/
  left : Nat
deriving DecidableEq, Repr

/-- A tile-queue entry of a Loupe grid (R313, R392). -/
structure Tile where
  id    : Nat
  rect  : Rect
  depth : Nat
  point : Bool
  /-- a whole tile is taken; the first element not yet taken; threads that still run part of it. -/
  taken : Bool
  next  : Nat
  open_ : Nat
deriving DecidableEq, Repr

/-- The Loupe part of a grid (R313, R316). -/
structure LoupeGrid where
  tiles   : List Tile
  nextId  : Nat
  cursor  : Nat
  decided : Nat
  split   : Nat
  points  : Nat
deriving DecidableEq, Repr

/-- A grid (R92 to R107). -/
structure Grid where
  handle : Nat
  st     : GridState
  ten    : Nat
  prio   : Nat
  /-- the accepted record's 32 doublewords, its arguments, and the record's address for the map re-read. -/
  lrec   : List DWord
  args   : List Cap
  base   : DWord
  order  : Nat
  started : Nat
  clusters : List Cluster
  retired : Nat
  /-- no further cluster is admitted: a map entry failed (R106). -/
  stop   : Bool
  /-- the state before it was parked (R107, R384). -/
  before : GridState
  loupe  : LoupeGrid
  /-- the group that launched it, or none for the host. -/
  by_    : Option GRef
deriving DecidableEq, Repr

/-- A partition (R97, R99, R100, R109, R405, R406). -/
structure Part where
  ndev   : Nat
  didx   : Nat
  cores  : List Nat
  tokens : NMap Word
  next   : Nat
  order  : Nat
  grids  : List Grid
  /-- the most recently ended grids' handles with their states, newest first, at most 256. -/
  ended  : List (Nat × GridState × Nat)
  root   : Cap
  /-- the tenant of the launch window. -/
  winTen : Nat
  sroot  : DWord
  svec   : DWord
  rfq    : DWord
  dirtyb : DWord
  weight : NMap Nat
  /-- what the partition owns beside its cores (R405): ranges of near and of capacity frames, first frame and number; Pyrloha ports;
  switch routes. -/
  near   : List (Nat × Nat)
  far    : List (Nat × Nat)
  ports  : List Nat
  switch : List Nat
  /-- the cores of the partition on its other devices, by index (R107). -/
  others : NMap (List Nat)
deriving DecidableEq, Repr

/-- A doorbell of the tenant launch window (R109). -/
structure Doorbell where
  caplo  : DWord
  caphi  : DWord
  busy   : Bool
  status : BitVec 8
  handle : Word
  /-- a compute reset was in progress, or came, before the outcome (R418). -/
  cut    : Bool
deriving DecidableEq, Repr

/-- What the endpoint sends to the host. -/
inductive HostOut where
  /-- a read's or AtomicOp's completion: offset, poisoned, bytes. -/
  | completion (off : Nat) (poisoned : Bool) (bytes : List Byte)
  /-- a message-signalled interrupt (R414). -/
  | msix (vector : Nat)
  /-- an ATS Translation Request, a PRS Page Request, an ATS invalidation's completion (R416). -/
  | ats (pasid : Nat) (va : DWord)
  | prs (pasid : Nat) (va : DWord) (write : Bool)
  | invalidated (pasid : Nat) (va : DWord)
  /-- the partition manager is told that a request of it is complete (R374). -/
  | managerDone (code : Nat)
deriving DecidableEq, Repr

/-- A record of the host-tenant fault queue (R413). -/
structure HostRecord where
  kind : Nat
  sub  : Nat
  len  : Nat
  seq  : Word
  off  : DWord
  rid  : DWord
deriving DecidableEq, Repr

/-- A host request that waits for a move (R409, R410). -/
structure HostReq where
  kind : Nat
  off  : Nat
  size : Nat
  data : List Byte
  op   : AtomOp
  uns  : Bool
  value : DWord
  cmp  : DWord
deriving DecidableEq, Repr

/-- The endpoint, the control page and the attestation mailbox (R407 to R414, R421, R422, R426). -/
structure Endpoint where
  root    : Nat
  rid     : DWord
  linkUp  : Bool
  herrcnt : Nat
  fwv     : BitVec 16
  spares  : Nat
  step    : Nat
  crstp   : Bool
  sigok   : Bool
  rsvc    : Bool
  ready   : Bool
  crsten  : Bool
  queue   : List HostRecord
  hseq    : Word
  helog   : Nat
  errlog  : List HostRecord
  bells   : List Doorbell
  nonce   : List Byte
  attBusy : Bool
  attStat : BitVec 8
  report  : List Byte
  sig     : List Byte
  sigsLeft : Nat
  waiting : List HostReq
  out     : List HostOut
  tcache  : List TlbEntry
  /-- the ATS translation cache: PASID, host page, translated page, write, execute (R416). -/
  ats     : List (Nat × Nat × DWord × Bool × Bool)
  /-- page requests sent and not yet answered: PASID, page, write. -/
  prs     : List (Nat × Nat × Bool)
  /-- page requests that the host has refused, with the sub-cause that an access to the page meets. -/
  denied  : List (Nat × Nat × Nat)
deriving DecidableEq, Repr

/-- A notice of a halted core (R415). -/
structure Notice where
  ncw   : DWord
  npc   : DWord
  naddr : DWord
  nten  : DWord
  core  : Nat
deriving DecidableEq, Repr

/-- A pull of a remote-owned page (R400, R401). -/
structure Pull where
  ten   : Nat
  page  : Nat
  refused : Bool
  /-- the cycle of the first refusal, and whether 100 µs have passed since (R401). -/
  since : Nat
  failed : Bool
deriving DecidableEq, Repr

/-- What this device sends over the fabric. -/
inductive FabricOut where
  /-- a PEER access reissued or sent (R210, R404). -/
  | peer (dev : Nat) (va : DWord)
  | resolved (dev : Nat) (va : DWord)
  | refusal (dev : Nat) (va : DWord)
  | retry (dev : Nat) (va : DWord)
  | response (dev : Nat) (va : DWord) (bytes : List Byte)
  /-- the request of a pull (R400), and a page that is sent: its bytes and tagged granules by their virtual places (R82). -/
  | pull (dev : Nat) (ten page : Nat)
  | page (dev : Nat) (ten page : Nat) (bytes : List Host.Cell) (tags : List Nat)
  | pullRefusal (dev : Nat) (ten page : Nat)
deriving DecidableEq, Repr

/-- The ports and switch routes toward the device of an index (R404). -/
structure Way where
  ports  : List Nat
  switch : List Nat
deriving DecidableEq, Repr

/-- The Pyrloha side of the device: route table, the peers' memory as this device's requests have left it, the
messages sent, the pulls (R210, R366, R400 to R404). -/
structure Fabric where
  /-- the route table: by partition-relative index the device it leads to, and the ports and switch routes (R404). -/
  routes : List Nat
  ways   : List Way
  peers  : NMap (List Host.Cell)
  /-- tagged granules of the other devices' near tiers (R81), by the same keys. -/
  ptags  : NMap (List Nat)
  out    : List FabricOut
  /-- PEER stores and REDs sent and not yet acknowledged, by their number; the next number (R286, R366). -/
  sent   : List (Nat × LogEntry)
  sentNext : Nat
  pulls  : List Pull
  /-- inbound requests that wait for a page, oldest first (R218, R404). -/
  inbox  : List PeerIn
  /-- tenants that have left this device by a route switch (R404). -/
  left   : List Nat
  /-- progress of a migration by tenant: the last step of R399. -/
  steps  : NMap Nat
deriving DecidableEq, Repr

/-- The memory-side and quad Clasp engines (R231 to R233): engines 0 to 31 and, from 32, one for each quad. -/
structure Clasp where
  reqs : NMap (List ClaspReq)
  /-- the port served last, by engine. -/
  rr   : NMap Nat
  /-- hot lines by engine: line numbers (R232). -/
  hot  : NMap (List Nat)
  /-- by hot line, the tenant and the virtual address of its last atomic (R384). -/
  hotAt : NMap (Nat × Nat)
deriving DecidableEq, Repr

/-- The barrel turn that comes next: the core and the quarter (R132). -/
structure Turn where
  core : Nat
  qtr  : Nat
deriving DecidableEq, Repr

/-- The state of one S4 device. -/
structure State where
  /-- MODEL: events that are due, oldest first. -/
  agenda : List Instr
  /-- MODEL: the instruction that BARREL_TURN has read in this step. -/
  issue  : Option Instr
  /-- MODEL: the LEN of that instruction's words. -/
  ilen   : BitVec 2
  /-- MODEL: the ticket that the next free values are drawn by. -/
  ticket : Nat
  turn   : Turn
  /-- the cycle counter of every core (R133); the model runs the cores in step (assumption 4). -/
  cycle  : Nat
  /-- resident groups by `core * 256 + qtr * 64 + slot`, the system groups (slot 63) among them. -/
  groups : NMap Group
  cores  : NMap Core
  /-- the near tier at its addresses, the capacity tier from `Config.capacityBase` on. -/
  mem    : List Host.Cell
  /-- tagged granules of that memory (R81). -/
  mtags  : List Nat
  clasp  : Clasp
  l2     : NMap (List TlbEntry)
  /-- by quad, the session of its four cores that the Strand engine served last (R339). -/
  strand : NMap Nat
  moves  : List Move
  tenants : NMap Tenant
  parts  : NMap Part
  /-- frames written since their move into their tier, numbered as in the dirty bitmap (R218, R220, R397). -/
  written : List Nat
  /-- near frames that the page-move engine and pulls have taken, each with its tenant (R218, R399, R400). -/
  frames : NMap Nat
  /-- capacity frames that stay reserved after a promotion: tenant, page, frame (R218). -/
  reserve : List (Nat × Nat × Nat)
  host   : Endpoint
  fabric : Fabric
  notices : List Notice
  /-- MODEL: the scratchpad bytes that ordinary stores and copies have replaced, newest first (R261). -/
  spadOld : List SpadNote
  /-- MODEL: the bytes of memory that writes have replaced, newest first (R302, R303); the ticket of each group's last boundary, or
  of its start. -/
  memOld : List OldByte
  opens  : List (Gid × Nat)
  /-- a compute reset is in progress (R418). -/
  resetting : Bool
deriving DecidableEq, Repr

/-- A thread at group start (R28). -/
def Thread.start : Thread :=
  { pc := 0, depth := 0, wb := 0, rb := 0, preds := List.replicate 7 .f, live := true, cpos := 0, left := some 0,
    seta := 15, setb := 15, stack := [], hid := [], lv := false, point := false, entry := 0, elem := 0,
    rect := ⟨0, 0, 0, 0⟩, fills := [] }

/-- A latch with no capture in range. -/
def Latch.empty : Latch := { age := Option.none, wide := false, lanes := 0, vals := [], his := [], hids := [] }

/-- A group at its start, before admission fills in its place (R15, R28, R41). -/
def Group.start : Group :=
  { ten := 0, part := 0, handle := 0, team := 0, gidx := 0, ridx := 0, role := 0, lpass := false, st := .ready,
    frozen := false, forced := false, readyAt := 0, age := 0, flags := List.replicate 12 0, pend := [], nextId := 0,
    pro := 32, full := 32, allot := 32, acqf := false, strict := false, univ := false,
    scal := List.replicate 48 0, ctag := 0, latches := List.replicate 3 Latch.empty,
    threads := List.replicate 64 Thread.start, phase := 0, bgen := none, crec := none, fopd := 0, fopdFar := 0, covered := 0 }

/-- A quarter after reset (R357: FRZTO is 8,000, SFAULT 0; the partition's registers as assumption 2 says). -/
def Quarter.reset : Quarter :=
  { active := List.replicate 8 none, owned := List.replicate 8 0, gap := List.replicate 8 false, serving := none,
    sysTurn := none, waitRec := [], ring := [], head := 0, tail := 0, seq := 0, busy := false, sroot := 0, svec := 0,
    serv := 1, frec := 0, fqb := 0, frzto := 8000, sfault := 0, troot := 0 }

/-- An untagged capability of all zeros. -/
def Cap.null : Cap := ⟨0, false⟩

/-- A channel after reset: IDLE, every WP 0 (R417, R201). -/
def Channel.reset : Channel :=
  { st := .idle, src := Cap.null, dst := Cap.null, soff := 0, doff := 0, shape := 0, ctl := 0, ref := ⟨0, 0, 0⟩,
    ten := 0, team := 0, pend := 0, pc := 0, len := 0, recv := [], wp := [], table := [], tabAt := 0, slotw := 0,
    why := none, cancel := false, pos := 0, buf := [], drop := [], xs := [], told := none }

/-- A session after reset: CLOSED, STATUS 0 (R340, R352). -/
def Session.reset : Session :=
  { st := .closed, nstr := 0, plan := [], skip := false, dlen := Cap.null, dvec := Cap.null, strs := [], tables := [],
    k := 0, status := 0, doc := none, topk := [], cur := [], posts := [], last := [], prev := [], gaps := [], again := [], floor := none, ref := ⟨0, 0, 0⟩, ten := 0,
    pend := 0, pc := 0, len := 0, why := none }

/-- A core after reset (R417: cleared). -/
def Core.reset : Core :=
  { inService := true, halted := false, part := none, saving := 0,
    quarters := List.replicate 4 Quarter.reset, teams := [], lastTen := none, spad := [], stags := [], armed := [],
    acc := [], side := [], mat := [], matIn := [], chans := List.replicate 8 Channel.reset, pub := [], released := 0, log := [],
    logNext := 0, logWait := none, sess := List.replicate 2 Session.reset, l1 := [], barq := [], spilled := [], saved := [],
    spare := none, nextAge := 0 }

/-- A doorbell after reset. -/
def Doorbell.reset : Doorbell :=
  { caplo := 0, caphi := 0, busy := false, status := 0, handle := 0, cut := false }

/-- The endpoint after power-good or a full reset (R420, R422, R426). -/
def Endpoint.reset : Endpoint :=
  { root := 0, rid := 0, linkUp := true, herrcnt := 0, fwv := Config.firmwareVersion, spares := 16, step := 0,
    crstp := false, sigok := false, rsvc := true, ready := false, crsten := false, queue := [], hseq := 0, helog := 0,
    errlog := [], bells := List.replicate 8 Doorbell.reset, nonce := List.replicate 32 0, attBusy := false,
    attStat := 0, report := List.replicate 128 0, sig := List.replicate 5076 0, sigsLeft := 1048576, waiting := [],
    out := [], tcache := [], ats := [], prs := [], denied := [] }

/-- The fabric after reset: each index routes to itself, by no port (assumption 3). -/
def Fabric.reset : Fabric :=
  { routes := List.range 256, ways := List.replicate 256 ⟨[], []⟩, peers := [], ptags := [], out := [], sent := [], sentNext := 0, pulls := [], inbox := [], left := [], steps := [] }

/-- The machine right after reset (R417, R420): bring-up at STEP 0, nothing launched, no partition. -/
def State.reset : State :=
  { agenda := [], issue := none, ilen := 0, ticket := 0, turn := ⟨0, 0⟩, cycle := 0, groups := [], cores := [], mem := [],
    mtags := [], clasp := ⟨[], [], [], []⟩, l2 := [], strand := [], moves := [], tenants := [], parts := [], written := [], frames := [], reserve := [],
    host := Endpoint.reset, fabric := Fabric.reset, notices := [], spadOld := [], memOld := [], opens := [], resetting := false }

end Sys2Proof.Machine
end

