-- ==== Sys2Proof/Machine/Ops.lean ====
section
/-! DEFINITION. The named operations over the state: its cores, quarters, groups, threads and registers, with the
rules of R140 on what an uncovered long-latency operation makes undefined. -/

namespace Sys2Proof.Machine

open Sys2Proof

/-! ### Cores, quarters, groups, threads -/

/-- A core; one without an entry is as after reset. -/
def State.core (s : State) (c : Nat) : Core := mgetD s.cores c Core.reset
/-- The state with one core replaced. -/
def State.setCore (s : State) (c : Nat) (k : Core) : State := { s with cores := mset s.cores c k }
/-- The state with one core changed. -/
def State.modCore (s : State) (c : Nat) (f : Core → Core) : State := s.setCore c (f (s.core c))
/-- A quarter of a core. -/
def Core.quarter (k : Core) (q : Nat) : Quarter := k.quarters.getD q Quarter.reset
/-- A core with one quarter changed. -/
def Core.modQuarter (k : Core) (q : Nat) (f : Quarter → Quarter) : Core :=
  { k with quarters := lput Quarter.reset k.quarters q (f (k.quarter q)) }
/-- A quarter of the state. -/
def State.quarter (s : State) (c q : Nat) : Quarter := (s.core c).quarter q
/-- The state with one quarter changed. -/
def State.modQuarter (s : State) (c q : Nat) (f : Quarter → Quarter) : State := s.modCore c fun k => k.modQuarter q f
/-- The key of a group's place. -/
def gkey (r : GRef) : Nat := r.core * 256 + r.qtr * 64 + r.slot
/-- MODEL: the slot of a place at which no group is: an engine whose group is gone, the host endpoint; one more, an inbound device. -/
def noSlot : Nat := 1048576
/-- The place of a key. -/
def grefOf (k : Nat) : GRef := ⟨k / 256, k / 64 % 4, k % 64⟩
/-- The group resident at a place. -/
def State.group? (s : State) (r : GRef) : Option Group := mget s.groups (gkey r)
/-- The state with a group at a place. -/
def State.setGroup (s : State) (r : GRef) (g : Group) : State := { s with groups := mset s.groups (gkey r) g }
/-- The state with a place emptied. -/
def State.delGroup (s : State) (r : GRef) : State := { s with groups := mdel s.groups (gkey r) }
/-- The state with one group, if resident, changed. -/
def State.modGroup (s : State) (r : GRef) (f : Group → Group) : State :=
  match s.group? r with
  | some g => s.setGroup r (f g)
  | none => s
/-- The resident groups of a core with their places, the system groups left out. -/
def State.coreGroups (s : State) (c : Nat) : List (GRef × Group) :=
  (s.groups.filter fun p => p.1 / 256 == c && p.1 % 64 != 63).map fun p => (grefOf p.1, p.2)
/-- All resident tenant groups. -/
def State.tenantGroups (s : State) : List (GRef × Group) :=
  (s.groups.filter fun p => p.1 % 64 != 63).map fun p => (grefOf p.1, p.2)
/-- A group's team on its core. -/
def State.team (s : State) (r : GRef) (g : Group) : Option Team := mget (s.core r.core).teams g.team
/-- The state with one team changed. -/
def State.modTeam (s : State) (c t : Nat) (f : Team → Team) : State :=
  s.modCore c fun k => match mget k.teams t with
    | some x => { k with teams := mset k.teams t (f x) }
    | none => k
/-- A partition. -/
def State.part? (s : State) (p : Nat) : Option Part := mget s.parts p
/-- The state with one partition changed. -/
def State.modPart (s : State) (p : Nat) (f : Part → Part) : State :=
  match mget s.parts p with
  | some x => { s with parts := mset s.parts p (f x) }
  | none => s
/-- A grid of a partition by its handle. -/
def Part.grid? (p : Part) (h : Nat) : Option Grid := p.grids.find? fun x => x.handle == h
/-- A partition with one grid changed. -/
def Part.modGrid (p : Part) (h : Nat) (f : Grid → Grid) : Part :=
  { p with grids := p.grids.map fun x => if x.handle == h then f x else x }
/-- A group's grid. -/
def State.gridOf (s : State) (g : Group) : Option Grid := (s.part? g.part).bind fun p => p.grid? g.handle
/-- The state with a grid changed. -/
def State.modGrid (s : State) (p h : Nat) (f : Grid → Grid) : State := s.modPart p fun x => x.modGrid h f
/-- A tenant. -/
def State.tenant? (s : State) (t : Nat) : Option Tenant := mget s.tenants t
/-- The state with one tenant changed. -/
def State.modTenant (s : State) (t : Nat) (f : Tenant → Tenant) : State :=
  match mget s.tenants t with
  | some x => { s with tenants := mset s.tenants t (f x) }
  | none => s

/-- A group's thread by its lane. -/
def Group.thread (g : Group) (lane : Nat) : Thread := g.threads.getD lane Thread.start
/-- A group with one thread changed. -/
def Group.modThread (g : Group) (lane : Nat) (f : Thread → Thread) : Group :=
  { g with threads := lput Thread.start g.threads lane (f (g.thread lane)) }
/-- A group with some threads changed. -/
def Group.modThreads (g : Group) (lanes : List Nat) (f : Nat → Thread → Thread) : Group :=
  lanes.foldl (fun g l => g.modThread l (f l)) g
/-- The live lanes of a group, ascending (R29). -/
def Group.liveLanes (g : Group) : List Nat := allLanes.filter fun l => (g.thread l).live

/-- Does one thread's place come before another's: depth, PC (R141)? -/
def Thread.leads (a b : Thread) : Bool := a.depth < b.depth || (a.depth == b.depth && a.pc.toNat ≤ b.pc.toNat)

/-- The leader of some lanes, the lowest among equals (R141). -/
def leaderOf (g : Group) : List Nat → Option Nat
  | [] => none
  | l :: r => match leaderOf g r with
    | none => some l
    | some m => if (g.thread l).leads (g.thread m) then some l else some m

/-- The issuing set: every live thread at the leader's PC and depth (R141). -/
def Group.issuingSet (g : Group) : List Nat :=
  match leaderOf g g.liveLanes with
  | none => []
  | some m => g.liveLanes.filter fun l => (g.thread l).pc == (g.thread m).pc && (g.thread l).depth == (g.thread m).depth

/-! ### Registers -/

/-- The words that one vector register takes: two in a Loupe grid, where it holds an interval (R317). -/
def Group.regWords (g : Group) : Nat := if g.lpass then 2 else 1
/-- The window's size in stack words: 32 registers (R142, R317). -/
def Group.winWords (g : Group) : Nat := 32 * g.regWords
/-- The logical word of register vn of a lane: its lower word (R142, R317). -/
def Group.wordOf (g : Group) (lane n : Nat) : Nat := (g.thread lane).wb + g.regWords * n

/-- Is a register a destination of an operation that is not covered yet (R140)? -/
def Group.uncovered (g : Group) (x : Reg) : Bool := g.pend.any fun p => p.dests.contains x

/-- A stack word as an instruction reads it: undefined when never written or uncovered (R15, R140). -/
def Group.word (tk : Nat) (g : Group) (lane w : Nat) : Word :=
  if g.uncovered (.word lane w) then Config.undefWord tk lane w
  else (mget (g.thread lane).stack w).getD (Config.undefWord tk lane w)

/-- A stack word as it is stored: what WINSP moves, and what is saved of a frozen group (R379, R390). -/
def Group.stored (tk : Nat) (g : Group) (lane w : Nat) : Word :=
  (mget (g.thread lane).stack w).getD (Config.undefWord tk lane w)

/-- A scalar register as an instruction reads it (R140). -/
def Group.scalar (tk : Nat) (g : Group) (n : Nat) : DWord :=
  if g.uncovered (.scalar n) then Config.undefDWord tk 64 n else g.scal.getD n 0

/-- A predicate of a lane: p0 reads true (R20). -/
def Group.pred (tk : Nat) (g : Group) (lane n : Nat) : Tri :=
  if n = 0 then .t
  else if g.uncovered (.pred lane n) then (if Config.undefBool tk lane n then .t else .f)
  else (g.thread lane).preds.getD (n - 1) .f

/-- A free choice between two values of a register that an uncovered operation and an instruction both write
(R140). -/
def eitherOf {α : Type} (tk lane n : Nat) (x y : α) : α := if Config.choice tk (lane * 4096 + n) % 2 = 0 then x else y

/-- Note that an instruction has written a register that an incomplete operation also writes (R140). -/
def Group.noteClash (g : Group) (x : Reg) : Group :=
  if g.uncovered x then
    { g with pend := g.pend.map fun p =>
        if p.dests.contains x && !p.done && !p.clash.contains x then { p with clash := x :: p.clash } else p }
  else g

/-- Has a completed but uncovered operation written the register (R140)? -/
def Group.doneUncovered (g : Group) (x : Reg) : Bool := g.pend.any fun p => p.done && p.dests.contains x

/-- Write a stack word. -/
def Group.setWord (tk : Nat) (g : Group) (lane w : Nat) (v : Word) : Group :=
  let x := Reg.word lane w
  let old := (mget (g.thread lane).stack w).getD v
  let v' := if g.doneUncovered x then eitherOf tk lane w old v else v
  (g.noteClash x).modThread lane fun t => { t with stack := mset t.stack w v' }

/-- Write a scalar register; its pair's capability tag is cleared (R80). -/
def Group.setScalar (tk : Nat) (g : Group) (n : Nat) (v : DWord) : Group :=
  let x := Reg.scalar n
  let v' := if g.doneUncovered x then eitherOf tk 64 n (g.scal.getD n 0) v else v
  let g := g.noteClash x
  { g with scal := lput 0 g.scal n v', ctag := g.ctag &&& ~~~(1#24 <<< (n / 2)) }

/-- Write a predicate of a lane; p0 discards what is written (R120). -/
def Group.setPred (tk : Nat) (g : Group) (lane n : Nat) (v : Tri) : Group :=
  if n = 0 then g
  else
    let x := Reg.pred lane n
    let old := (g.thread lane).preds.getD (n - 1) .f
    let v' := if g.doneUncovered x then eitherOf tk lane n old v else v
    (g.noteClash x).modThread lane fun t => { t with preds := lput .f t.preds (n - 1) v' }

/-- The capability in a register pair (R78); of an uncovered pair the value is undefined and the tag clear. -/
def Group.cap (tk : Nat) (g : Group) (n : Nat) : Cap :=
  let lo := (g.scalar tk (2 * n)).toNat
  let hi := (g.scalar tk (2 * n + 1)).toNat
  ⟨BitVec.ofNat 128 (lo + hi * 2 ^ 64),
   g.ctag.getLsbD n && !g.uncovered (.scalar (2 * n)) && !g.uncovered (.scalar (2 * n + 1))⟩

/-- May an operation that is complete and not covered leave its value in a half of capability register cn (R140)? -/
def Group.pairMixed (g : Group) (n : Nat) : Bool :=
  g.doneUncovered (.scalar (2 * n)) || g.doneUncovered (.scalar (2 * n + 1))

/-- Write a capability register with its tag (R80). A pair whose halves may keep another operation's values is left
untagged: a tagged pair satisfies R79 (assumption 86). -/
def Group.setCap (tk : Nat) (g : Group) (n : Nat) (c : Cap) : Group :=
  let mixed := g.pairMixed n
  let g := g.setScalar tk (2 * n) (c.bits.setWidth 64)
  let g := g.setScalar tk (2 * n + 1) ((c.bits >>> 64).setWidth 64)
  if c.tag && !mixed then { g with ctag := g.ctag ||| (1#24 <<< n) } else g

/-- Hidden bits of a Loupe register, by its lower logical word (R317). -/
def Thread.hidden (t : Thread) (w : Nat) : Hidden := mgetD t.hid w ⟨0, false, false⟩
/-- Write the hidden bits of a Loupe register. -/
def Group.setHidden (g : Group) (lane w : Nat) (h : Hidden) : Group :=
  g.modThread lane fun t => { t with hid := mset t.hid w h }

/-! ### Capabilities (R78) -/

/-- BASE, bits [63:0]. -/
def Cap.base (c : Cap) : Nat := slice c.bits.toNat 63 0
/-- LEN, bits [103:64]. -/
def Cap.len (c : Cap) : Nat := slice c.bits.toNat 103 64
/-- The permissions, bits [111:104]: bit 0 R, 1 W, 2 A, 3 C, 4 M, 5 G, 6 L, 7 S (R90). -/
def Cap.perm (c : Cap) : Nat := slice c.bits.toNat 111 104
/-- ESZ, bits [115:112]. -/
def Cap.esz (c : Cap) : Nat := slice c.bits.toNat 115 112
/-- PITCH, bits [127:116]. -/
def Cap.pitch (c : Cap) : Nat := slice c.bits.toNat 127 116
/-- A capability from its fields. -/
def capOf (base len perm esz pitch : Nat) (tag : Bool) : Cap :=
  ⟨BitVec.ofNat 128 (base % 2 ^ 64 + len % 2 ^ 40 * 2 ^ 64 + perm % 256 * 2 ^ 104 + esz % 16 * 2 ^ 112 + pitch % 4096 * 2 ^ 116), tag⟩
/-- A capability from its two doublewords. -/
def capOfWords (lo hi : DWord) (tag : Bool) : Cap := ⟨BitVec.ofNat 128 (lo.toNat + hi.toNat * 2 ^ 64), tag⟩

/-- The conditions of R79. -/
def Cap.formed (c : Cap) : Bool :=
  c.esz ≤ 4 && c.base + c.len ≤ 2 ^ 64 && (c.len == 0 || c.base / 2 ^ 60 == (c.base + c.len - 1) / 2 ^ 60)

/-- The check of R85, steps 2 to 5, of a range of n rows of b bytes at offset o: the sub-cause of the first
failure, 0 when all pass. -/
def Cap.check (c : Cap) (need n b o : Nat) : Nat :=
  if !c.tag then 1
  else if !c.formed then 2
  else if c.perm &&& need != need then 3
  else if b = 0 then (if o ≤ c.len then 0 else 4)
  else if n > 1 ∧ c.pitch = 0 then 2
  else if o + (n - 1) * 64 * c.pitch + b ≤ c.len then 0
  else 4

/-! ### Granule tags (R81) -/

/-- Is a granule of the physical memory tagged? -/
def State.mtag (s : State) (g : Nat) : Bool := s.mtags.contains g
/-- Note the bytes that a write is about to replace (R302, R303). -/
def State.noteBytes (s : State) (l : Loc) (old : List Byte) (own : Option Own) : State :=
  { s with memOld := ((old.zip (List.range old.length)).map fun x => ⟨s.ticket, l.add x.2, x.1, own⟩) ++ s.memOld }
/-- Write bytes into the physical memory; their granules' tags are cleared (R81). -/
def State.writeMem (s : State) (a : Nat) (bs : List Byte) (own : Option Own := none) : State :=
  { s.noteBytes (.phys a) (cread s.mem a bs.length) own with mem := cwrite s.mem a bs, mtags := untag s.mtags a bs.length }
/-- Write a tagged or untagged granule (R81). -/
def State.writeGranule (s : State) (a : Nat) (bs : List Byte) (tag : Bool) (own : Option Own := none) : State :=
  let s := s.writeMem a bs own
  if tag then { s with mtags := sins s.mtags (a / 16) } else s

/-- Why an access waits. -/
def Pend.why (p : Pend) : Option HoldWhy :=
  match p.kind with
  | .load w _ _ _ _ => w
  | .atom w _ _ _ _ _ _ => w
  | .pool w _ _ _ => w
  | .stopk _ w _ _ _ => w
  | .lsum w _ _ _ _ => w
  | .launch w _ => w
  | _ => none

/-- An access that waits for a reason. -/
def Pend.setWhy (p : Pend) (w : Option HoldWhy) : Pend :=
  match p.kind with
  | .load _ a q f k => { p with kind := .load w a q f k }
  | .atom _ a b c d e f => { p with kind := .atom w a b c d e f }
  | .pool _ a b c => { p with kind := .pool w a b c }
  | .stopk a _ b c d => { p with kind := .stopk a w b c d }
  | .lsum _ a b c d => { p with kind := .lsum w a b c d }
  | .launch _ a => { p with kind := .launch w a }
  | _ => p

/-- A group as its writes name it. -/
def State.gidOf (s : State) (r : GRef) (g : Group) : Gid :=
  if r.slot = 63 then ⟨65536, r.core, r.qtr, 0, 0⟩
  else match s.team r g with
    | some t => ⟨g.part, g.handle, t.map, t.tidx, g.gidx⟩
    | none => ⟨g.part, g.handle, 65536, r.core, g.gidx⟩
/-- The writer's note of a resident group. -/
def State.ownOf (s : State) (r : GRef) (serial : Nat) (con : Bool) : Option Own :=
  (s.group? r).map fun g => ⟨s.gidOf r g, serial, con, true⟩

end Sys2Proof.Machine
end

