-- ==== Sys2Proof/Machine/Translate.lean ====
section
/-! DEFINITION. Address translation: page tables, access checks, swizzle, TLBs, page moves (R208 to R221, R416). -/

namespace Sys2Proof.Machine

open Sys2Proof

/-! ### Table entries (R212) -/

/-- P. -/
def pteP (e : Nat) : Bool := bit e 0
/-- L. -/
def pteL (e : Nat) : Bool := bit e 1
/-- TIER: 0 near, 1 capacity, 2 neighbour, 3 reserved. -/
def pteTier (e : Nat) : Nat := slice e 59 58
/-- The tier address of the frame: FRAME in place. -/
def pteFrame (e : Nat) : Nat := slice e 51 16 * 65536

/-- A present entry that breaks R212: BADPTE. -/
def entryBad (e : Nat) (big : Bool) : Bool :=
  if pteL e then
    slice e 53 52 != 0 || slice e 15 9 != 0 || slice e 3 2 != 0 || pteTier e == 3
      || (bit e 57 && (pteTier e != 1 || bit e 55)) || (big && slice e 28 16 != 0)
      || (match pteTier e with
          | 0 => pteFrame e + (if big then 536870912 else 65536) > Config.nearBytes
          | 1 => pteFrame e + (if big then 536870912 else 65536) > Config.capacityBytes
          | _ => slice e 43 16 * 65536 + (if big then 536870912 else 65536) > Config.nearBytes)
  else
    e != b2n (pteP e) + pteFrame e || pteFrame e + 65536 > Config.nearBytes

/-- What a walk of the tables finds: the leaf, whether it maps 512 MiB, and the near address of its entry. -/
structure Leaf where
  e    : Nat
  big  : Bool
  addr : Nat
deriving DecidableEq, Repr

/-- Index of a level into its table (R211). -/
def walkIndex (lvl va : Nat) : Nat :=
  match lvl with
  | 0 => slice va 56 55
  | 1 => slice va 54 42
  | 2 => slice va 41 29
  | _ => slice va 28 16

/-- The walk from a table of level `lvl` on, with `n` levels left below it (R211): NOTPRESENT is 1, BADPTE 2. -/
def walkFrom (mem : List Host.Cell) (va : Nat) : Nat → Nat → Nat → Except Nat Leaf
  | 0, _, _ => .error 2
  | n + 1, lvl, table =>
    let a := table + 8 * walkIndex lvl va
    let e := creadLe mem a 8
    if !pteP e then .error 1
    else if pteL e then (if lvl ≥ 2 && !entryBad e (lvl == 2) then .ok ⟨e, lvl == 2, a⟩ else .error 2)
    else if lvl ≥ 3 || entryBad e false then .error 2
    else walkFrom mem va n (lvl + 1) (pteFrame e)

/-- The walk from a root (R211). -/
def walk (mem : List Host.Cell) (root va : Nat) : Except Nat Leaf := walkFrom mem va 4 0 root

/-- The swizzle of a page offset (R214). -/
def swizzle (swz o : Nat) : Nat :=
  match swz / 4 with
  | 1 => o ^^^ (slice o 12 10 * 128)
  | 2 => o ^^^ (slice o 12 9 * 32)
  | 3 => o ^^^ (slice o 9 7 * 16)
  | _ => o

/-- Where a leaf puts an address. A neighbour-tier frame is the near tier of another device, which the model keeps
apart from that device's virtual memory by the number 256 + device. -/
def Leaf.loc (l : Leaf) (va : Nat) : Loc :=
  let off := swizzle (slice l.e 63 60) (va % 65536)
  let up := if l.big then slice va 28 16 * 65536 else 0
  let pa := pteFrame l.e + up + off
  match pteTier l.e with
  | 0 => .phys pa
  | 1 => .phys (Config.capacityBase + pa)
  | _ => .peer (256 + slice l.e 51 44) (slice l.e 43 16 * 65536 + up + off)

/-- Does the leaf allow the access (R212, order 4)? -/
def leafAllows (e : Nat) : Access → Bool
  | .load => bit e 4
  | .con => bit e 4
  | .dap => bit e 4
  | .store => bit e 5
  | .atomic => bit e 4 && bit e 5 && bit e 7
  | .fetch => bit e 6

/-- The first failure of the access checks of R212; `ext`: the access comes from the host or a peer. -/
def leafFault (e : Nat) (acc : Access) (ext : Bool) : Option Nat :=
  if bit e 56 then some 3
  else if ext && !bit e 8 then some 4
  else if bit e 57 && ext && acc != .dap then some 5
  else if !leafAllows e acc then some 4
  else none

/-! ### TLBs (R215 to R217) -/

/-- Whose translation an access uses: the tenant number and root, or the supervisor's root; the core, and the team
slot whose L1 slice serves it (`none`: the access uses the L2 only). -/
structure Who where
  ten  : Nat
  sup  : Bool
  root : Nat
  core : Nat
  team : Option Nat
deriving DecidableEq, Repr

/-- BitRev4. -/
def bitRev4 (k : Nat) : Nat := k % 2 * 8 + k / 2 % 2 * 4 + k / 4 % 2 * 2 + k / 8 % 2

/-- The slice of a team slot among the resident ones: first set and number of sets (R215). -/
def tlbSlice (resident : List Nat) (k : Nat) : Nat × Nat :=
  let b := 4 * bitRev4 k
  let ok (n : Nat) : Bool := resident.all fun j => j == k || 4 * bitRev4 j / n != b / n
  let n := if ok 64 then 64 else if ok 32 then 32 else if ok 16 then 16 else if ok 8 then 8 else 4
  (b / n * n, n)

/-- The quad of a core (R38). -/
def quadOf (core : Nat) : Nat := 8 * (core / 16 / 2) + core % 16 / 2
/-- The die of a core (R38). -/
def dieOf (core : Nat) : Nat := 2 * (core / 16 / 4) + core % 16 / 8

/-- The virtual page number of an address. -/
def vpnOf (big : Bool) (va : Nat) : Nat := if big then slice va 56 29 else slice va 56 16

/-- Does an entry map the address for this translation? -/
def TlbEntry.maps (t : TlbEntry) (ten : Nat) (sup : Bool) (va : Nat) : Bool :=
  t.sup == sup && (sup || t.ten == ten) && t.vpn == vpnOf t.big va

/-- The leaf that a TLB holds for an address. -/
def tlbFind (es : List TlbEntry) (w : Who) (va : Nat) : Option TlbEntry := es.find? fun t => t.maps w.ten w.sup va

/-- Put an entry into a TLB of `ways` ways; in a full set a free choice says which entry goes. -/
def tlbPut (tk ways : Nat) (es : List TlbEntry) (t : TlbEntry) : List TlbEntry :=
  let same := es.filter fun x => x.set == t.set
  if same.length < ways then es ++ [t]
  else match same[Config.choice tk t.set % same.length]? with
    | some v => es.filter (fun x => !(x == v)) ++ [t]
    | none => es ++ [t]

/-- Fill the TLBs on the way of an access with a leaf. -/
def State.tlbFill (s : State) (w : Who) (va : Nat) (l : Leaf) : State :=
  let vpn := vpnOf l.big va
  let ent (set : Nat) : TlbEntry := ⟨w.ten, w.sup, l.big, vpn, BitVec.ofNat 64 l.e, set⟩
  let q := quadOf w.core
  let l2 := mgetD s.l2 q []
  let s := if (tlbFind l2 w va).isSome then s else { s with l2 := mset s.l2 q (tlbPut s.ticket 8 l2 (ent (vpn % 512))) }
  match w.team with
  | none => s
  | some k => s.modCore w.core fun c =>
    if (tlbFind c.l1 w va).isSome then c
    else
      let sl := tlbSlice (c.teams.map (·.1)) k
      { c with l1 := tlbPut s.ticket 4 c.l1 (ent (sl.1 + vpn % sl.2)) }

/-- Remove from every L1 and L2 TLB, and from the endpoint's cache, the entries that a test names. -/
def State.tlbDrop (s : State) (p : TlbEntry → Bool) : State :=
  { s with cores := s.cores.map fun c => (c.1, { c.2 with l1 := c.2.l1.filter fun t => !p t }),
           l2 := s.l2.map fun q => (q.1, q.2.filter fun t => !p t),
           host := { s.host with tcache := s.host.tcache.filter fun t => !p t } }

/-- After an admission or a retirement on a core, a team whose slice changed loses its entries (R215). -/
def Core.reslice (c : Core) (before : List Nat) : Core :=
  let now := c.teams.map (·.1)
  let lost := before.filter fun k => !(now.contains k && tlbSlice before k == tlbSlice now k)
  let gone (set : Nat) : Bool := lost.any fun k => (tlbSlice before k).1 ≤ set && set < (tlbSlice before k).1 + (tlbSlice before k).2
  { c with l1 := c.l1.filter fun t => !gone t.set }

/-! ### Page moves: requests (R218 to R221) -/

/-- Is a page's move lock held? -/
def State.locked (s : State) (ten page : Nat) : Bool := s.moves.any fun m => m.ten == ten && m.page == page

/-- May a move of this kind start on a page with this leaf (R218, R220, R221)? `clean`: not written since its last
move into the capacity tier. -/
def moveStarts (e : Nat) (big clean : Bool) : PageMove → Bool
  | .promote => !big && !bit e 55 && !bit e 56 && pteTier e == 1 && !bit e 57
  | .evict => !big && !bit e 55 && !bit e 56 && pteTier e == 0
  | .compress => !big && !bit e 55 && !bit e 56 && pteTier e == 1 && !bit e 57 && clean
  | .decompressPromote => !big && !bit e 55 && !bit e 56 && pteTier e == 1 && bit e 57

/-- Does a move bring the page into the near tier? -/
def PageMove.nearward : PageMove → Bool
  | .promote => true
  | .decompressPromote => true
  | _ => false

/-- What a request does to the moves of a page whose last move so far is `last` (R219): `none` refused or merged,
`some m` queued as m. -/
def moveMeets (last req : PageMove) : Option PageMove :=
  match last, req with
  | .evict, .promote => some .promote
  | .evict, .decompressPromote => some .promote
  | .promote, .evict => some .evict
  | .decompressPromote, .evict => some .evict
  | .compress, .promote => some .decompressPromote
  | .compress, .decompressPromote => some .decompressPromote
  | _, _ => none

/-- The number of a leaf's frame, as the dirty bitmap numbers it (R397). -/
def frameNumber (e : Nat) : Nat := pteFrame e / 65536 + (if pteTier e = 0 then 0 else 12582912)

/-- The number under which the model keeps the host tenant's page moves: the manual gives the host tenant none, and the 16-bit
numbers are the device tenants' (assumption 87). -/
def hostTen : Nat := 65536
/-- The number under which it keeps the page moves of a partition's supervisor translation (assumption 87). -/
def supTen (part : Nat) : Nat := 65537 + part

/-- The root of the tables that map a page: a tenant's, the host tenant's at the endpoint, or a supervisor's (R211, R408). -/
def State.moveRoot (s : State) (ten : Nat) : Option Nat :=
  if ten = hostTen then some s.host.root
  else if hostTen < ten then (s.part? (ten - 65537)).map fun p => p.sroot.toNat
  else (s.tenant? ten).map (·.root)

/-- The number under which the moves of a translation's pages are kept. -/
def State.moverOf (s : State) (w : Who) : Nat := if w.sup then supTen ((s.core w.core).part.getD 0) else w.ten

/-- Request a move of a page; a request that may not start is refused. -/
def State.requestMove (s : State) (ten page : Nat) (m : PageMove) : State :=
  match s.moves.find? fun x => x.ten == ten && x.page == page with
  | some x =>
    let last := if x.pull then (x.queued.getLast?).getD .promote else (x.queued.getLast?).getD x.kind
    match moveMeets last m with
    | none => s
    | some q => { s with moves := s.moves.map fun y => if y == x then { y with queued := y.queued ++ [q] } else y }
  | none =>
    match s.moveRoot ten with
    | none => s
    | some root => match walk s.mem root (page * 65536) with
      | .error _ => s
      | .ok l =>
        if moveStarts l.e l.big (!s.written.contains (frameNumber l.e)) m then
          { s with moves := s.moves ++ [⟨ten, page, m, false, []⟩] }
        else s

/-- Start a pull of a remote-owned page, unless one runs: the page's owner is asked for it (R400). -/
def State.startPull (s : State) (ten page dev : Nat) : State :=
  if s.locked ten page then s
  else { s with moves := s.moves ++ [⟨ten, page, .promote, true, []⟩],
                fabric := { s.fabric with pulls := s.fabric.pulls ++ [⟨ten, page, false, 0, false⟩],
                                          out := s.fabric.out ++ [.pull dev ten page] } }

/-! ### Translation -/

/-- What a translation gives. -/
inductive Tr where
  | ok (l : Loc)
  /-- a translation fault, with its sub-cause (R362). -/
  | fault (sub : Nat)
  /-- the access waits without a fault record. -/
  | wait (why : HoldWhy)
  /-- a remote-owned page (R400): the device that owns it. -/
  | remote (dev : Nat)
deriving DecidableEq, Repr

/-- The bit of a frame in the dirty bitmap (R397). -/
def dirtyBit : Loc → Option Nat
  | .phys k => some (if k < Config.capacityBase then k / 65536 else 12582912 + (k - Config.capacityBase) / 65536)
  | .peer _ _ => none

/-- The partition that owns a frame, by its number in the dirty bitmap (R405). -/
def State.frameOwner (s : State) (n : Nat) : Option Nat :=
  let holds (p : Part) : Bool :=
    if n < 12582912 then p.near.any fun r => r.1 ≤ n && n < r.1 + r.2
    else p.far.any fun r => r.1 ≤ n - 12582912 && n - 12582912 < r.1 + r.2
  (s.parts.find? fun p => holds p.2).map (·.1)

/-- Set a frame's bit in its partition's dirty bitmap, which lies at a supervisor-window address (R213, R397). -/
def State.setDirtyBit (s : State) (part n : Nat) : State :=
  match s.part? part with
  | none => s
  | some p => match walk s.mem p.sroot.toNat (p.dirtyb.toNat + n / 8) with
    | .error _ => s
    | .ok l => match l.loc (p.dirtyb.toNat + n / 8) with
      | .phys k => s.writeMem k [cget s.mem k ||| BitVec.ofNat 8 (2 ^ (n % 8))]
      | .peer _ _ => s

/-- The partition in whose dirty bitmap a write through a translation is noted: its tenant's, its core's for the supervisor, and for
the host tenant's pages the one that owns the frame (assumption 87). -/
def State.dirtyPart (s : State) (w : Who) (n : Nat) : Option Nat :=
  if w.sup then (s.core w.core).part
  else match s.tenant? w.ten with
    | some t => some t.part
    | none => s.frameOwner n

/-- A write has reached a page (R213, R218): DRT and the dirty-bitmap bit are set when the leaf that the memory unit
holds has DRT clear, and the page counts as written since its move. -/
def State.markWrite (s : State) (w : Who) (va : Nat) (e : Nat) (loc : Loc) : State :=
  let s := match dirtyBit loc with
    | some f => if s.written.contains f then s else { s with written := sins s.written f }
    | none => s
  if bit e 54 then s
  else
    let s := match walk s.mem w.root va with
      | .ok l => s.writeMem l.addr (leBytes 8 (l.e ||| 2 ^ 54))
      | .error _ => s
    let up (t : TlbEntry) : TlbEntry :=
      if t.maps w.ten w.sup va then { t with leaf := t.leaf ||| BitVec.ofNat 64 (2 ^ 54) } else t
    let s := { s with cores := s.cores.map (fun c => (c.1, { c.2 with l1 := c.2.l1.map up })),
                      l2 := s.l2.map fun q => (q.1, q.2.map up) }
    match dirtyBit loc with
    | none => s
    | some n => match s.dirtyPart w n with
      | some p => s.setDirtyBit p n
      | none => s

/-- Who the host is: the host tenant's tables through the endpoint's own walkers and cache (R408). -/
def State.hostWho (s : State) : Who := ⟨hostTen, false, s.host.root, 0, none⟩

/-- A host write, or an AtomicOp, reaches a page (R213). -/
def State.markHost (s : State) (va : Nat) : State :=
  match walk s.mem s.host.root va with
  | .ok l => s.markWrite s.hostWho va l.e (l.loc va)
  | .error _ => s

/-- The leaf for an address: from the L1, the L2 or a walk. -/
def State.lookup (s : State) (w : Who) (va : Nat) : Except Nat Leaf :=
  let hit := match w.team with
    | some _ => (tlbFind (s.core w.core).l1 w va).orElse fun _ => tlbFind (mgetD s.l2 (quadOf w.core) []) w va
    | none => tlbFind (mgetD s.l2 (quadOf w.core) []) w va
  match hit with
  | some t => .ok ⟨t.leaf.toNat, t.big, 0⟩
  | none => walk s.mem w.root va

/-- An access meets a remote-owned page of a tenant (R400, R401): it waits for the pull, which it starts unless one runs; a pull that
has failed ends it with SUB REMOTE. -/
def State.meetRemote (s : State) (ten page dev : Nat) : State × Tr :=
  if s.fabric.pulls.any fun p => p.ten == ten && p.page == page && p.failed then (s, .fault 3)
  else if s.fabric.pulls.any fun p => p.ten == ten && p.page == page && p.refused then (s, .wait .lock)
  else (s.startPull ten page dev, .remote dev)

/-- The access meets a leaf (R212, R213, R218, R400); `va` is the address in the translation that the leaf is of. -/
def State.meetLeaf (s : State) (w : Who) (acc : Access) (ext : Bool) (va : Nat) (l : Leaf) : State × Tr :=
  let page := slice va 56 16
  match leafFault l.e acc ext with
  | some 3 => if w.sup || ext then (s, .fault 3) else s.meetRemote w.ten page (slice l.e 51 44)
  | some c => (s, .fault c)
  | none =>
    if s.locked (s.moverOf w) page && !bit l.e 55 then (s, .wait .lock)
    else if bit l.e 57 && acc != .dap then (s.requestMove (s.moverOf w) page .decompressPromote, .wait .lock)
    else
      let loc := l.loc va
      let s := s.tlbFill w va l
      (if acc == .store then s.markWrite w va l.e loc else s, .ok loc)

/-- The host-process region of a bound tenant (R416). -/
def inHostRegion (va : Nat) : Bool := slice va 56 55 == 3

/-- Host window offset of a translated host address: the GEN aperture of BAR0 is addresses 0 to 2^45 − 1
(assumption 5). -/
def inGenAperture (a : Nat) : Bool := a < 2 ^ 45

/-- An access in the host-process region of a tenant bound to a PASID (R416): the translation cache, a Translation
Request, or a page request in progress. -/
def State.hostRegion (s : State) (w : Who) (pasid : Nat) (acc : Access) (va : Nat) : State × Tr :=
  let a := va % 2 ^ 55
  let page := a / 4096
  let wr := acc == .store || acc == .atomic
  let h := s.host
  match h.ats.find? fun x => x.1 == pasid && x.2.1 == page with
  | some (_, _, pa, w2, x2) =>
    if acc == .fetch && !x2 then (s, .fault 4)
    else if wr && !w2 then
      (if let some d := h.denied.find? (fun d => d.1 == pasid && d.2.1 == page) then (s, .fault d.2.2)
       else if h.prs.contains (pasid, page, wr) then (s, .wait .host)
       else ({ s with host := { h with prs := h.prs ++ [(pasid, page, wr)],
                                       out := h.out ++ [.prs pasid (BitVec.ofNat 64 a) wr] } }, .wait .host))
    else
      let o := pa.toNat + a % 4096
      if !inGenAperture o then (s, .fault 2)
      else match walk s.mem h.root o with
        | .error c => (s, .fault c)
        | .ok l => match leafFault l.e acc true with
          | some 5 => (s.requestMove hostTen (slice o 56 16) .decompressPromote, .wait .lock)
          | some c => (s, .fault c)
          | none =>
            if s.locked hostTen (slice o 56 16) && !bit l.e 55 then (s, .wait .lock)
            else
              let loc := l.loc o
              (if acc == .store then s.markWrite { w with ten := hostTen, root := h.root } o l.e loc else s, .ok loc)
  | none =>
    (if let some d := h.denied.find? (fun d => d.1 == pasid && d.2.1 == page) then (s, .fault d.2.2)
     else if h.prs.any (fun p => p.1 == pasid && p.2.1 == page) then (s, .wait .host)
     else if h.out.contains (.ats pasid (BitVec.ofNat 64 (page * 4096))) then (s, .wait .host)
     else ({ s with host := { h with out := h.out ++ [.ats pasid (BitVec.ofNat 64 (page * 4096))] } }, .wait .host))

/-- Translate one address of an access. -/
def State.translate (s : State) (w : Who) (acc : Access) (va : Nat) : State × Tr :=
  match (if w.sup || !inHostRegion va then none else (s.tenant? w.ten).bind (·.pasid)) with
  | some p => s.hostRegion w p acc va
  | none => match s.lookup w va with
    | .error c => (s, .fault c)
    | .ok l => s.meetLeaf w acc false va l

/-! ### Bytes behind a translation -/

/-- The key of a tenant's memory on a device of its partition: PEER addresses are that tenant's virtual ones (R210). The near
tiers of other devices, for neighbour-tier frames, have the keys 256 to 511. -/
def peerKey (ten dev : Nat) : Nat := 512 * ten + dev % 256
/-- Does a key name a tenant's memory, and not a near tier? -/
def isPeerKey (k : Nat) : Bool := k % 512 < 256

/-- The memory of a peer as this device's requests have left it. -/
def State.peer (s : State) (dev : Nat) : List Host.Cell := mgetD s.fabric.peers dev []

/-- Bytes of a side-log entry: its kind's and SIZE's width. -/
def LogEntry.bytes (e : LogEntry) : Nat :=
  if e.kind = 1 then 16
  else match e.size.toNat with
    | 1 => 1
    | 2 => 2
    | 3 => 8
    | 4 => 16
    | _ => 4

/-- The SIZE of a number of bytes (R121). -/
def sizeCode (n : Nat) : BitVec 3 := if n = 1 then 1 else if n = 2 then 2 else if n = 8 then 3 else if n = 16 then 4 else 0

/-- The key of the memory and the address that a PEER entry names (R210). -/
def LogEntry.peerAt (e : LogEntry) : Nat × Nat := (peerKey e.ten (slice e.addr.toNat 59 52), slice e.addr.toNat 51 0)

/-- The tagged granules of another device's near tier, as this device's writes have left them (R81). -/
def State.ptag (s : State) (dev : Nat) : List Nat := mgetD s.fabric.ptags dev []

/-- The memory of a peer with the stores on their way to it. -/
def State.peerView (s : State) (dev : Nat) : List Host.Cell :=
  (s.fabric.sent.filter fun e => e.2.kind != 2 && e.2.peerAt.1 == dev).foldl
    (fun m e => cwrite m e.2.peerAt.2 (leBytes e.2.bytes e.2.data.toNat)) (s.peer dev)

/-- Bytes of memory at a place. -/
def State.readLoc (s : State) (l : Loc) (n : Nat) : List Byte :=
  match l with
  | .phys k => cread s.mem k n
  | .peer d a => cread (if isPeerKey d then s.peerView d else s.peer d) a n

/-- Write bytes of memory at a place, for a group or for none; the granules' tags are cleared, or set to a stored capability's
(R81). A peer tenant's memory, on the PEER path, holds no tags. -/
def State.writeOwn (s : State) (own : Option Own) (l : Loc) (bs : List Byte) (tag : Bool) : State :=
  match l with
  | .phys k => s.writeGranule k bs tag own
  | .peer d a =>
    if isPeerKey d then { s with fabric := { s.fabric with peers := mset s.fabric.peers d (cwrite (s.peer d) a bs) } }
    else
      let s := s.noteBytes l (cread (s.peer d) a bs.length) own
      let ts := untag (s.ptag d) a bs.length
      { s with fabric := { s.fabric with peers := mset s.fabric.peers d (cwrite (s.peer d) a bs),
                                         ptags := mset s.fabric.ptags d (if tag then sins ts (a / 16) else ts) } }

/-- Does a buffered store cover a place? The index of the byte in it. -/
def PubEntry.covers (e : PubEntry) (l : Loc) : Option Nat :=
  match e.loc, l with
  | .phys a, .phys b => if a ≤ b && b < a + e.bytes.length then some (b - a) else none
  | .peer d a, .peer d' b => if d == d' && a ≤ b && b < a + e.bytes.length then some (b - a) else none
  | _, _ => none

/-- The youngest buffered store's byte at a place (R200); the buffer lists the oldest first. -/
def bufferByte (es : List PubEntry) (l : Loc) : Option Byte :=
  firstSome (fun (e : PubEntry) => (e.covers l).bind fun i => e.bytes[i]?) es.reverse

/-- A GEN or PEER read: memory under the core's buffered stores (R200). -/
def State.readBuffered (s : State) (core : Nat) (l : Loc) (n : Nat) : List Byte :=
  let es := (s.core core).pub
  if es.isEmpty then s.readLoc l n
  else (List.range n).map fun i => (bufferByte es (l.add i)).getD ((s.readLoc (l.add i) 1).headD unlisted)

/-- The tag of a granule of memory. -/
def State.tagAt (s : State) (l : Loc) : Bool :=
  match l with
  | .phys k => s.mtag (k / 16)
  | .peer d a => !isPeerKey d && (s.ptag d).contains (a / 16)

/-- The tag of a granule under the core's buffered stores (R83). -/
def State.tagBuffered (s : State) (core : Nat) (l : Loc) : Bool :=
  match ((s.core core).pub.reverse.find? fun e => (List.range 16).any fun i => (e.covers (l.add i)).isSome) with
  | some e => e.tag && e.bytes.length == 16 && e.loc == l
  | none => s.tagAt l

/-- Bytes of the publication buffer in use. -/
def pubUsed (es : List PubEntry) : Nat := es.foldl (fun n e => n + e.bytes.length) 0

/-- The device that the route table names for an index (R404). -/
def State.routed (s : State) (dev : Nat) : Nat := s.fabric.routes.getD dev dev

/-- Send a PEER access along the route of its index (R404). -/
def State.peerOut (s : State) (dev : Nat) (va : DWord) : State :=
  { s with fabric := { s.fabric with out := s.fabric.out ++ [.peer (s.routed dev) va] } }

/-- Send a PEER store or RED: it waits for its target's acknowledgement (R286, R366). -/
def State.sendPeer (s : State) (e : LogEntry) : State :=
  let f := s.fabric
  State.peerOut { s with fabric := { f with sent := f.sent ++ [(f.sentNext, e)], sentNext := f.sentNext + 1 } }
    (e.peerAt.1 % 512) (BitVec.ofNat 64 e.peerAt.2)

/-- A buffered PEER store as an entry. -/
def PubEntry.toLog (e : PubEntry) (dev va : Nat) : LogEntry :=
  { idx := 0, kind := 0, addr := BitVec.ofNat 64 (7 * 2 ^ 60 + dev % 256 * 2 ^ 52 + va % 2 ^ 52),
    data := BitVec.ofNat 128 (ofLe e.bytes), size := sizeCode e.bytes.length, scope := 0, red := 0, uns := false,
    tag := false, lock := false, ovl := false, ref := e.ref, part := 0, handle := 0, ten := dev / 512, pc := 0, len := 0, mask := 0,
    told := false, refused := false, serial := e.serial }

/-- The POOL requests that are not covered: their groups and the capabilities of their pools (R237). -/
def Pend.poolCap (p : Pend) : Option Cap :=
  match p.born with
  | .pool _ _ c _ => some c
  | _ => none
/-- Those of the device. -/
def State.poolsHeld (s : State) : List (GRef × Group × Cap) :=
  (s.groups.map fun x => (x.2.pend.filterMap Pend.poolCap).map fun c => (grefOf x.1, x.2, c)).flatten

/-- The place in memory of an address of a group. -/
def State.memPlace (s : State) (r : GRef) (g : Group) (va : Nat) : Option Nat :=
  let root := if r.slot = 63 then (s.quarter r.core r.qtr).sroot.toNat else ((s.tenant? g.ten).map (·.root)).getD 0
  match walk s.mem root va with
  | .ok l => (match l.loc va with
    | .phys k => some k
    | .peer _ _ => none)
  | .error _ => none

/-- Lines of a pool object whose CFG is known: the header and, with NB in range, the map (R235). -/
def poolSpan (cfg : Nat) : Nat := 1 + (if slice cfg 47 32 ≤ 4096 then ceilDiv (slice cfg 47 32) 512 else 0)

/-- The lines of a pool object in memory. -/
def State.poolMem (s : State) (x : GRef × Group × Cap) : List Nat :=
  if x.2.2.base / 2 ^ 60 ≠ 0 then []
  else match s.memPlace x.1 x.2.1 x.2.2.base with
    | none => []
    | some k => (List.range (poolSpan (creadLe s.mem (k + 16) 8))).filterMap fun i =>
        s.memPlace x.1 x.2.1 ((x.2.2.base + 64 * i) % 2 ^ 57)

/-- The objects of uncovered POOL requests that a store to memory meets. -/
def State.poolsMet (s : State) (k n : Nat) : List (List Nat) :=
  (s.poolsHeld.map s.poolMem).filter fun ls => ls.any fun l => l < k + n && k < l + 64

/-- Their contents become undefined (R237). -/
def State.spoilPools (s : State) (xs : List (List Nat)) : State :=
  xs.flatten.foldl (fun s l => s.writeMem l ((List.range 64).map fun i => Config.undefByte s.ticket (l + i))) s

/-- Perform one buffered store of a core; what it replaces is noted as its group's (R302, R303), and a pool object that it
meets under an uncovered POOL request is spoilt (R237). A PEER store leaves for its target. -/
def State.performPub (s : State) (e : PubEntry) : State :=
  match (match e.loc with | .peer d va => if isPeerKey d then some (d, va) else none | _ => none) with
  | some (d, va) => s.sendPeer (e.toLog d va)
  | none =>
  let met := match e.loc with
    | .phys k => s.poolsMet k e.bytes.length
    | .peer _ _ => []
  (s.writeOwn (s.ownOf e.ref e.serial true) e.loc e.bytes e.tag).spoilPools met

/-! ### CON and DAP reads (R302, R303) -/

/-- Is a replaced byte's write one that the reader does not see: performed after its boundary (CON), or its own and unpublished? -/
def OldByte.unseen (e : OldByte) (gid : Option Gid) (since : Option Nat) : Bool :=
  (match since with
    | some t => t < e.time || e.own.any fun o => some o.gid == gid && o.con
    | none => e.own.any fun o => some o.gid == gid && o.dap)

/-- The byte that stands behind the unseen writes to a place, from the newest on. -/
def behind (gid : Option Gid) (since : Option Nat) (l : Loc) : List OldByte → Byte → Byte
  | [], b => b
  | e :: r, b =>
    if e.loc == l then (if e.unseen gid since then behind gid since l r e.old else b) else behind gid since l r b

/-- The ticket of a group's last boundary, or of its start: now, when the model has not noted one. -/
def State.openOf (s : State) (gid : Gid) : Nat := ((s.opens.find? fun x => x.1 == gid).map (·.2)).getD s.ticket

/-- A CON or a DAP read of a group: a CON read sees memory as it was at its last boundary, both without the group's own writes that no
boundary of the scope has published (R302, R303). -/
def State.readBehind (s : State) (con : Bool) (r : GRef) (l : Loc) (n : Nat) : List Byte :=
  let gid := (s.group? r).map (s.gidOf r)
  let since := if con then some ((gid.map s.openOf).getD s.ticket) else none
  if s.memOld.isEmpty then s.readLoc l n
  else (List.range n).map fun i => behind gid since (l.add i) s.memOld ((s.readLoc (l.add i) 1).headD unlisted)

/-- Note a boundary or the start of a group, and forget the replaced bytes that no reader needs. -/
def State.openGroup (s : State) (gid : Gid) : State :=
  let os := (gid, s.ticket) :: s.opens.filter fun x => !(x.1 == gid)
  let first := os.foldl (fun n x => min n x.2) s.ticket
  { s with opens := os, memOld := s.memOld.filter fun e => first < e.time || e.own.any fun o => o.con || o.dap }

/-- A group has ended: its writes are no group's own any more. -/
def State.closeGroup (s : State) (gid : Gid) : State :=
  { s with opens := s.opens.filter fun x => !(x.1 == gid),
           memOld := s.memOld.map fun e => if e.own.any fun o => o.gid == gid then { e with own := none } else e }

/-! ### Draining (R200, R297) -/

/-- Two buffered stores share a byte. -/
def PubEntry.meets (a b : PubEntry) : Bool := (List.range a.bytes.length).any fun i => (b.covers (a.loc.add i)).isSome

/-- A buffered store with its core and its place in that core's buffer. -/
abbrev Buffered := Nat × Nat × PubEntry

/-- All buffered stores, in the order of their issue. -/
def State.buffered (s : State) : List Buffered :=
  osort (fun a b => a.2.2.serial < b.2.2.serial)
    (s.cores.map fun c => ((s.core c.1).pub.zip (List.range (s.core c.1).pub.length)).map fun e => (c.1, e.2, e.1)).flatten

/-- Must an older buffered store be performed before a younger one that is? In one core, one to the same byte (R200); in another, one to
the same byte that a release of its core may have ordered before the younger (R297, CO-HB). -/
def State.before (s : State) (x y : Buffered) : Bool :=
  y.2.2.meets x.2.2 && (y.1 == x.1 || x.2.2.serial < (s.core x.1).released)

/-- From the youngest on, the stores that a test names with those that must be performed before them: oldest first. -/
def State.drainSet (s : State) (p : Buffered → Bool) : List Buffered → List Buffered → List Buffered
  | [], acc => acc
  | x :: r, acc => s.drainSet p r (if p x || acc.any (s.before x) then x :: acc else acc)

/-- Perform the buffered stores that a test names, with those that must come before them. -/
def State.drainAll (s : State) (p : Buffered → Bool) : State :=
  let all := s.buffered
  if all.any p then
    let out := s.drainSet p all.reverse []
    let s := out.foldl (fun s x => s.performPub x.2.2) s
    { s with cores := s.cores.map fun c =>
        (c.1, if out.any (fun x => x.1 == c.1) then
          { c.2 with pub := ((c.2.pub.zip (List.range c.2.pub.length)).filter fun e => !(out.any fun x => x.1 == c.1 && x.2.1 == e.2)).map (·.1) }
          else c.2) }
  else s

/-- Drain from a core's buffer the stores that a test names. -/
def State.drainPub (s : State) (core : Nat) (p : PubEntry → Bool) : State := s.drainAll fun x => x.1 == core && p x.2.2

/-- A core makes a release that another core can acquire (R293). -/
def State.releases (s : State) (core : Nat) : State := s.modCore core fun k => { k with released := s.ticket }

/-- Does a buffered store meet n bytes from a place on? -/
def PubEntry.meetsAt (e : PubEntry) (l : Loc) (n : Nat) : Bool := (List.range n).any fun i => (e.covers (l.add i)).isSome

/-- The buffered stores to n bytes of memory that a release may have ordered before a write beside the publication buffers come before
it (R297). -/
def State.drainFor (s : State) (l : Loc) (n : Nat) : State :=
  s.drainAll fun x => x.2.2.serial < (s.core x.1).released && x.2.2.meetsAt l n

/-- Write bytes of memory at a place, beside the publication buffers. -/
def State.writeFor (s : State) (own : Option Own) (l : Loc) (bs : List Byte) (tag : Bool) : State :=
  (s.drainFor l bs.length).writeOwn own l bs tag

/-- Such a write of no group's own. -/
def State.writeLoc (s : State) (l : Loc) (bs : List Byte) (tag : Bool) : State := s.writeFor none l bs tag

end Sys2Proof.Machine
end

