-- ==== Sys2Proof/Machine/Barrier.lean ====
section
/-! DEFINITION. The scratchpad with its tags and armed markers, and the barrier unit (R81, R205, R274 to R277). -/

namespace Sys2Proof.Machine

open Sys2Proof

/-- The state with every outstanding operation of every group changed. -/
def State.modPends (s : State) (f : GRef → Pend → Pend) : State :=
  { s with groups := s.groups.map fun p => (p.1, { p.2 with pend := p.2.pend.map (f (grefOf p.1)) }) }

/-- An operation that is complete: its results are at hand. -/
def Pend.finish (p : Pend) (vals : List DWord) : Pend := { p with kind := .ready, vals := vals }

/-- An operation that writes one truth value into all of its destinations. -/
def Pend.finishAll (p : Pend) (v : Bool) : Pend := p.finish (p.dests.map fun _ => BitVec.ofNat 64 (b2n v))

/-- Does an operation wait on a barrier object? -/
def Pend.waitsOn (p : Pend) (core off : Nat) : Bool :=
  match p.kind with
  | .bwait (some (c, o)) _ _ => c == core && o == off
  | _ => false

/-- The parity an operation on an object waits with. -/
def Pend.parity (p : Pend) : Bool :=
  match p.kind with
  | .bwait _ q _ => q
  | _ => false

/-- Does a group wait on an object? -/
def State.hasWaiter (s : State) (core off : Nat) : Bool := s.groups.any fun g => g.2.pend.any fun p => p.waitsOn core off

/-- Complete the BWAITs on an object that a test names. -/
def State.release (s : State) (core off : Nat) (sel : Pend → Bool) (v : Bool) : State :=
  s.modPends fun _ p => if p.waitsOn core off && sel p then p.finishAll v else p

/-- Bytes of a core's scratchpad. -/
def State.spadRead (s : State) (core off n : Nat) : List Byte := cread (s.core core).spad off n

/-- Set scratchpad bytes; their granules' tags are cleared (R81). Armed markers are left to the callers. -/
def Core.spadPut (k : Core) (off : Nat) (bs : List Byte) : Core :=
  { k with spad := cwrite k.spad off bs, stags := untag k.stags off bs.length }

/-- The value with BRK, bit 62, set. -/
def withBrk (o : Nat) : Nat := if bit o 62 then o else o + 2 ^ 62

/-- Is the object at an offset armed? -/
def State.armed (s : State) (core off : Nat) : Bool := (s.core core).armed.contains (off / 16)

/-- The object's 128 bits. -/
def State.objGet (s : State) (core off : Nat) : Nat := ofLe (s.spadRead core off 16)

/-- Write the object's bits by the barrier unit: the marker stays. -/
def State.objPut (s : State) (core off v : Nat) : State := s.modCore core fun k => k.spadPut off (leBytes 16 v)

/-- A write to an armed granule (R277): with waiters the object breaks; the marker is cleared. -/
def State.disarm (s : State) (core g : Nat) : State :=
  if (s.core core).armed.contains g then
    let s := s.modCore core fun k => { k with armed := sdel k.armed g }
    if s.hasWaiter core (16 * g) then
      (s.objPut core (16 * g) (withBrk (s.objGet core (16 * g)))).release core (16 * g) (fun _ => true) false
    else s
  else s

/-- Write scratchpad bytes: tags are cleared, armed objects lose their marker and may break (R81, R275, R277). -/
def State.spadWrite (s : State) (core off : Nat) (bs : List Byte) : State :=
  let s := s.modCore core fun k => k.spadPut off bs
  if (s.core core).armed.isEmpty then s else (granules off bs.length).foldl (fun s g => s.disarm core g) s

/-- Write a granule with a tag (R81, R227). -/
def State.spadGranule (s : State) (core off : Nat) (bs : List Byte) (tag : Bool) : State :=
  let s := s.spadWrite core off bs
  if tag then s.modCore core fun k => { k with stags := sins k.stags (off / 16) } else s

/-- The fields of a barrier object (R274). -/
def objExpa (o : Nat) : Nat := slice o 11 0
/-- PENA. -/
def objPena (o : Nat) : Nat := slice o 23 12
/-- BRK. -/
def objBrk (o : Nat) : Bool := bit o 62
/-- PH. -/
def objPh (o : Nat) : Bool := bit o 63
/-- EXPB. -/
def objExpb (o : Nat) : Nat := slice o 95 64
/-- DELB. -/
def objDelb (o : Nat) : Nat := slice o 127 96

/-- An object from its fields; its must-be-zero bits are kept as they stand. -/
def objMake (old expa pena : Nat) (brk ph : Bool) (expb delb : Nat) : Nat :=
  expa % 4096 + pena % 4096 * 2 ^ 12 + slice old 61 24 * 2 ^ 24 + b2n brk * 2 ^ 62 + b2n ph * 2 ^ 63
    + expb % 2 ^ 32 * 2 ^ 64 + delb % 2 ^ 32 * 2 ^ 96

/-- The completion test of R276: the object afterwards, and whether PH has flipped. -/
def objTest (o : Nat) : Nat × Bool :=
  if objPena o = 0 ∧ objDelb o ≥ objExpb o then
    (objMake o (objExpa o) (objExpa o) (objBrk o) (!objPh o) 0 (objDelb o - objExpb o), true)
  else (o, false)

/-- Write a changed object, with the test of R276 and the release of its waiters. -/
def State.objChange (s : State) (core off o : Nat) : State :=
  let r := objTest o
  let s := s.objPut core off r.1
  if r.2 then s.release core off (fun p => p.parity == objPh o) true else s

/-- Does the unit act on an object: armed and not broken? -/
def State.objLive (s : State) (core off : Nat) : Bool := s.armed core off && !objBrk (s.objGet core off)

/-- BINIT at the unit (R277, R280). -/
def State.barInit (s : State) (core off count : Nat) : State :=
  let s := s.release core off (fun _ => true) false
  let s := s.objPut core off (objMake 0 count count false false 0 0)
  s.modCore core fun k => { k with armed := sins k.armed (off / 16) }

/-- BARV at the unit (R281). -/
def State.barArrive (s : State) (core off : Nat) : State :=
  let o := s.objGet core off
  if s.objLive core off && objPena o != 0 then
    s.objChange core off (objMake o (objExpa o) (objPena o - 1) false (objPh o) (objExpb o) (objDelb o))
  else s

/-- BEXP at the unit (R277, R282). -/
def State.barExpect (s : State) (core off n : Nat) : State :=
  let o := s.objGet core off
  if s.objLive core off then
    (if objExpb o + n ≥ 2 ^ 32 then (s.objPut core off (withBrk o)).release core off (fun _ => true) false
     else s.objChange core off (objMake o (objExpa o) (objPena o) false (objPh o) (objExpb o + n) (objDelb o)))
  else s

/-- A copy credit (R276): lost on an object that is not armed or is broken. -/
def State.barCredit (s : State) (core off n : Nat) : State :=
  let o := s.objGet core off
  if s.objLive core off then
    s.objChange core off (objMake o (objExpa o) (objPena o) false (objPh o) (objExpb o)
      (if objDelb o + n ≥ 2 ^ 32 then 2 ^ 32 - 1 else objDelb o + n))
  else s

/-- The status code of BTRY (R284): 0 COMPLETE, 1 PENDING, 2 BROKEN, 3 UNARMED. -/
def State.barStatus (s : State) (core off : Nat) (q : Bool) : Nat :=
  let o := s.objGet core off
  if objBrk o then 2 else if !s.armed core off then 3 else if objPh o != q then 0 else 1

/-! ### Bytes that an uncovered operation writes (R140, R262) -/

/-- The key of a scratchpad byte. -/
def spadKey (core off : Nat) : Nat := core * 2 ^ 22 + off % 2 ^ 22

/-- Does a list of ranges hold a key? -/
def inRanges (rs : List (Nat × Nat)) (k : Nat) : Bool := rs.any fun r => r.1 ≤ k && k < r.1 + r.2

/-- The outstanding or uncovered operations of all groups that write scratchpad bytes, or a pool object. -/
def State.owning (s : State) : List Pend :=
  (s.groups.map fun g => g.2.pend.filter fun p => !p.owns.isEmpty || p.poolCap.isSome).flatten

/-- A group's or a copy's read of scratchpad bytes: those that an uncovered operation writes are undefined (R140,
R262). -/
def State.spadLoad (s : State) (core off n : Nat) : List Byte :=
  let own := s.owning
  let bs := s.spadRead core off n
  if own.isEmpty then bs
  else (bs.zip (List.range n)).map fun x =>
    if own.any fun p => inRanges p.owns (spadKey core (off + x.2)) then Config.undefByte s.ticket (spadKey core (off + x.2))
    else x.1

/-- Note that a write has met bytes that an incomplete operation also writes. -/
def Pend.soil (k n : Nat) (p : Pend) : Pend :=
  if !p.done && p.owns.any fun r => r.1 < k + n && k < r.1 + r.2 then { p with dirty := p.dirty ++ [(k, n)] } else p

/-- Note what a write of scratchpad bytes replaces: an engine operation without FOPD may still read it (R261). -/
def State.noteOld (s : State) (by_ : Option Gid) (core off : Nat) (bs : List Byte) : State :=
  let old := s.spadRead core off bs.length
  let ch := ((old.zip bs).zip (List.range bs.length)).filter fun x => x.1.1 != x.1.2
  { s with spadOld := ch.map (fun x => ⟨s.ticket + 1, spadKey core (off + x.2), x.1.1, by_⟩) ++ s.spadOld }

/-- The device as an engine operation of a group sees its scratchpads. Each byte that the group has written since its FOPD may show what
it held before, and each byte that another agent has written since the last acquire before the FOPD, when the write had become
visible to the group (R261, R262). -/
def State.fopView (s : State) (gid : Option Gid) (since far : Nat) : State :=
  let es := (s.spadOld.filter fun e => e.time > (if e.by_.isSome && e.by_ == gid then since else far)).zip (List.range s.spadOld.length)
  es.foldl (fun s e =>
    if Config.choice s.ticket (e.2 * 2 ^ 32 + e.1.key) % 2 = 0 then s
    else s.modCore (e.1.key / 2 ^ 22) fun k => { k with spad := cset k.spad (e.1.key % 2 ^ 22) e.1.old }) s

/-- A core's scratchpad has been cleared for another tenant: nothing of what it held may show (R140, R201). -/
def State.forgetSpad (s : State) (core : Nat) : State := { s with spadOld := s.spadOld.filter fun e => e.key / 2 ^ 22 != core }

/-- A write of scratchpad bytes beside the operation `me`, whose own write it may be: of the bytes that another uncovered operation has
written the result is undefined; those that an incomplete one writes become undefined at its completion (R140, R262). -/
def State.spadTake (s : State) (me : Option (GRef × Nat)) (core off : Nat) (bs : List Byte) : State :=
  let mine (r : GRef) (p : Pend) : Bool := me.any fun m => m.1 == r && m.2 == p.id
  let own := (s.groups.map fun g => g.2.pend.filter fun p => !p.owns.isEmpty && !mine (grefOf g.1) p).flatten
  if own.isEmpty then s.spadWrite core off bs
  else
    let bs' := (bs.zip (List.range bs.length)).map fun x =>
      if own.any fun p => p.done && inRanges p.owns (spadKey core (off + x.2)) then
        Config.undefByte s.ticket (spadKey core (off + x.2))
      else x.1
    (s.modPends fun r p => if mine r p then p else p.soil (spadKey core off) bs.length).spadWrite core off bs'

/-- A group's or a copy's write of scratchpad bytes. -/
def State.spadStore (s : State) (core off : Nat) (bs : List Byte) (by_ : Option Gid := none) : State :=
  (s.noteOld by_ core off bs).spadTake none core off bs

end Sys2Proof.Machine
end

