-- ==== Sys2Proof/Machine/Record.lean ====
section
/-! DEFINITION. The group record of a Locket image, as REG KIND 1 accesses and THAW see it (R207, R388, R389). -/

namespace Sys2Proof.Machine

open Sys2Proof

/-- The state code of GST. A Loupe group that waits for a tile-queue entry is saved as waiting, with no wait of its
own (assumption 6). -/
def GState.code : GState → Nat
  | .ready => 1
  | .waiting _ _ => 2
  | .batchWait => 2
  | .acqWait => 3
  | .held _ => 4
  | .fetchHeld _ => 4
  | .trapped => 5
  | .spilled => 6
  | .draining => 7

/-- The state that a code of GST restores; a waiting group's mask stands in WAITS. -/
def GState.ofCode (waitf : Option (BitVec 12)) (lpass : Bool) : Nat → GState
  | 2 => match waitf with
    | some m => .waiting m true
    | none => if lpass then .batchWait else .waiting 0 false
  | 3 => .acqWait
  | 4 => .fetchHeld .lock
  | 5 => .trapped
  | 6 => .spilled
  | 7 => .draining
  | _ => .ready

/-- One entry of WAITS: kind, flag, scope and the issue-time operand. The places of channel, owner, parity, ST and
generation in the operand are the model's (assumption 7). -/
structure WaitWord where
  kind  : Nat
  flag  : Nat
  scope : Nat
  word  : Nat
deriving DecidableEq, Repr

/-- The register that a wait writes, in three or six bits above its operand (assumption 7). -/
def Pend.waitReg (p : Pend) : Nat :=
  match p.dests with
  | .pred _ n :: _ => n
  | .scalar n :: _ => n
  | _ => 0

/-- The WAITS entry of an outstanding operation; `team` gives the rectangle's origin. -/
def Pend.waitWord (tm : Option Team) (p : Pend) : Option WaitWord :=
  let x0 := (tm.map (·.x0)).getD 0
  let y0 := (tm.map (·.y0)).getD 0
  match p.kind with
  | .bwait (some (c, off)) q _ =>
    some ⟨2, p.flag, 0, 4 * 2 ^ 60 + p.waitReg * 2 ^ 48 + (c / 16 - y0) % 16 * 2 ^ 26 + (c % 16 - x0) % 16 * 2 ^ 22 + off + b2n q⟩
  | .bwait none _ gen => some ⟨2, p.flag, 0, p.waitReg * 2 ^ 48 + gen % 2 ^ 48⟩
  | .bsent c off q =>
    some ⟨2, p.flag, 0, 4 * 2 ^ 60 + p.waitReg * 2 ^ 48 + (c / 16 - y0) % 16 * 2 ^ 26 + (c % 16 - x0) % 16 * 2 ^ 22 + off + b2n q⟩
  | .btry c off q st =>
    some ⟨3, p.flag, 0, 4 * 2 ^ 60 + p.waitReg * 2 ^ 48 + (c / 16 - y0) % 16 * 2 ^ 26 + (c % 16 - x0) % 16 * 2 ^ 22 + off + b2n q + 2 * b2n st⟩
  | .tokwt t v => some ⟨4, p.flag, 0, p.waitReg * 2 ^ 48 + t * 2 ^ 32 + v.toNat⟩
  | .cpwt c ch v =>
    some ⟨5, p.flag, 0, p.waitReg * 2 ^ 52 + (if v.toNat < 2 ^ 40 then v.toNat else 2 ^ 40 - 1) + ch * 2 ^ 40 + (c % 16 - x0) % 16 * 2 ^ 44
      + (c / 16 - y0) % 16 * 2 ^ 48⟩
  | .phase sc => some ⟨6, p.flag, sc.toNat, 0⟩
  | _ => none

/-- The WAITS entries of a group, in issue order, at most eight (R285). -/
def Group.waits (tm : Option Team) (g : Group) : List WaitWord :=
  (g.pend.filterMap (Pend.waitWord tm) ++
    (match g.st with
     | .waiting m true => [⟨1, 0, 0, m.toNat⟩]
     | _ => [])).take 8

/-- A little-endian doubleword made of bytes. -/
def packBytes (bs : List Nat) : Nat := bs.foldr (fun b n => b % 256 + 256 * n) 0

/-- Byte l of LAGE. -/
def Latch.code (l : Latch) : Nat :=
  match l.age with
  | none => 128
  | some a => a % 4 + 4 * b2n l.wide

/-- The latch of a byte of LAGE, with the entries it already has. -/
def Latch.ofCode (l : Latch) (b : Nat) : Latch :=
  { l with age := if bit b 7 then none else some (b % 4), wide := bit b 2 }

/-- The doublewords of a fault record (R361). -/
def Record.dwords (r : Record) : List Nat :=
  [r.seq.toNat + r.len.toNat * 2 ^ 46 + r.sub % 256 * 2 ^ 48 + r.cause % 256 * 2 ^ 56, r.pc.toNat, r.rpc.toNat,
   r.mask.toNat, r.addr.toNat, r.info.toNat, r.who.toNat, 0]

/-- The record that doublewords hold. -/
def Record.ofDwords (d : Nat → Nat) : Record :=
  { cause := slice (d 0) 63 56, sub := slice (d 0) 55 48, len := BitVec.ofNat 2 (slice (d 0) 47 46),
    seq := BitVec.ofNat 32 (d 0), pc := BitVec.ofNat 64 (d 1), rpc := BitVec.ofNat 64 (d 2),
    mask := BitVec.ofNat 64 (d 3), addr := BitVec.ofNat 64 (d 4), info := BitVec.ofNat 64 (d 5),
    who := BitVec.ofNat 64 (d 6) }

/-- The code of a predicate in CST. -/
def Tri.code : Tri → Nat
  | .f => 0
  | .t => 1
  | .u => 2

/-- The predicate of a code. -/
def Tri.ofCode : Nat → Tri
  | 1 => .t
  | 2 => .u
  | _ => .f

/-- CST of a thread (R389). -/
def Thread.cst (t : Thread) : Nat :=
  t.depth % 1024 + b2n t.live * 2 ^ 11 + t.setb.toNat * 2 ^ 24 + t.seta.toNat * 2 ^ 28 + t.cpos % 16 * 2 ^ 32
    + (t.preds.take 7).foldr (fun p n => p.code + 4 * n) 0 * 2 ^ 36

/-- The thread with the fields of a CST. -/
def Thread.setCst (t : Thread) (v : Nat) : Thread :=
  { t with depth := v % 1024, live := bit v 11, setb := BitVec.ofNat 4 (slice v 27 24),
           seta := BitVec.ofNat 4 (slice v 31 28), cpos := slice v 35 32,
           preds := (List.range 7).map fun i => Tri.ofCode (v / 2 ^ (36 + 2 * i) % 4) }

/-- The current allotment in words, doubled in a Loupe pass (R142). -/
def Group.words (g : Group) : Nat := g.allot * g.regWords
/-- Bytes of a group's register-stack block (R390). -/
def Group.blockBytes (g : Group) : Nat := 256 * g.words + (if g.lpass then 64 * g.words else 0)

/-- The offset of a group's register-stack block: the blocks of the team follow one another by GIDX
(assumption 8). -/
def State.stackOff (s : State) (r : GRef) (g : Group) : Nat :=
  ((s.coreGroups r.core).filter fun x => x.2.team == g.team && x.2.gidx < g.gidx).foldl
    (fun n x => n + x.2.blockBytes) 0x840000

/-- The access that FREEZE has cancelled: its PC and mask (HELD). A held fetch is one too: of the leader's instruction, for the issuing
set (R363, R368); and the access for which a group waits that a remote timeout has stopped (R366, assumption 100). -/
def Group.heldWord (g : Group) : Nat × Nat :=
  if !g.frozen then (0, 0)
  else match g.st with
  | .held id => match g.pend.find? fun p => p.id == id with
    | some p => (p.pc.toNat, p.mask.toNat)
    | none => (0, 0)
  | .fetchHeld _ => match leaderOf g g.liveLanes with
    | some l => ((g.thread l).pc.toNat, (maskOf g.issuingSet).toNat)
    | none => (0, 0)
  | .trapped => match g.pend.find? fun p => !p.done && p.why == some .peer with
    | some p => (p.pc.toNat, p.mask.toNat)
    | none => (0, 0)
  | _ => (0, 0)

/-- The doubleword of a lane in the latch part (R389). In a Loupe group a 32-bit capture has its two ends there (assumption 99). -/
def Latch.word (lpass : Bool) (l : Latch) (lane : Nat) : Nat :=
  let v := (mgetD l.vals lane 0).toNat
  if lpass && !l.wide then v % 2 ^ 32 + ((mget l.his lane).elim v BitVec.toNat) % 2 ^ 32 * 2 ^ 32 else v

/-- The latch with that doubleword written. After THAW an interval-mode thread's capture is the full range (assumption 99). -/
def Latch.setWord (image lpass point : Bool) (l : Latch) (lane v : Nat) : Latch :=
  let l := { l with lanes := l.lanes ||| (1#64 <<< lane) }
  let hid := if image && !point then ⟨3, true, l.wide⟩ else mgetD l.hids lane ⟨0, false, l.wide⟩
  if !lpass then { l with vals := mset l.vals lane (BitVec.ofNat 64 v) }
  else if l.wide then
    { l with vals := mset l.vals lane (BitVec.ofNat 64 v), his := mset l.his lane (BitVec.ofNat 64 v), hids := mset l.hids lane hid }
  else { l with vals := mset l.vals lane (BitVec.ofNat 64 (v % 2 ^ 32)), his := mset l.his lane (BitVec.ofNat 64 (v / 2 ^ 32)),
                hids := mset l.hids lane hid }

/-- Doubleword i of a group's record, 0 to 575 (R388, R389). -/
def State.recordWord (s : State) (r : GRef) (g : Group) (i : Nat) : Nat :=
  if i < 128 then
    if i = 0 then
      g.gidx % 32 + g.role.toNat * 2 ^ 5 + b2n g.lpass * 2 ^ 7 + b2n g.acqf * 2 ^ 8 + b2n g.strict * 2 ^ 9
        + b2n g.univ * 2 ^ 10 + b2n g.forced * 2 ^ 11 + g.st.code * 2 ^ 60
    else if i = 1 then g.pro % 4096 + g.full % 4096 * 2 ^ 12 + g.words % 4096 * 2 ^ 32
    else if i = 2 then packBytes (g.flags.take 8)
    else if i = 3 then packBytes ((g.flags.drop 8).take 4)
    else if i = 4 then packBytes (g.latches.map Latch.code)
    else if i = 5 then s.stackOff r g
    else if i = 6 then g.heldWord.1
    else if i = 7 then g.heldWord.2
    else if i < 24 then
      match (g.waits (s.team r g))[(i - 8) / 2]? with
      | none => 0
      | some w => if i % 2 = 0 then w.kind * 2 ^ 60 + w.flag * 2 ^ 56 + w.scope * 2 ^ 52 else w.word % 2 ^ 64
    else if i = 24 then g.phase % 2 ^ 64
    else if i < 32 then 0
    else if i < 40 then (match g.crec with | some x => (x.dwords.getD (i - 32) 0) | none => 0)
    else if i < 88 then (g.scal.getD (i - 40) 0).toNat
    else if i = 88 then g.ctag.toNat
    else 0
  else if i < 384 then
    let t := g.thread ((i - 128) / 4)
    match i % 4 with
    | 0 => t.pc.toNat
    | 1 => t.cst
    | 2 => t.wb % 2 ^ 32 + t.rb % 2 ^ 32 * 2 ^ 32
    | _ => t.entry % 4096 + b2n t.point * 2 ^ 12 + b2n t.lv * 2 ^ 13 + t.elem % 2 ^ 32 * 2 ^ 32
  else (g.latches.getD ((i - 384) / 64) Latch.empty).word g.lpass (i % 64)

/-- The group with doubleword i of its record written: by THAW from an image (`image`), by a system group (`sup`) or
by a group of the team. The fields that the device derives from the group's place and waits (GST's state, GALLOT,
STKOFF, HELD, WAITS) keep their values, STRICT and UNIF_VIOL are the supervisor's, and only THAW sets a capability's
tag (R80, assumption 9). -/
def Group.setRecordWord (sup image : Bool) (g : Group) (i v : Nat) : Group :=
  if i < 128 then
    if i = 0 then (if sup || image then { g with strict := bit v 9, univ := bit v 10 } else g)
    else if i = 2 then
      { g with flags := (List.range 8).map (fun k => v / 2 ^ (8 * k) % 64) ++ g.flags.drop 8 }
    else if i = 3 then
      { g with flags := g.flags.take 8 ++ (List.range 4).map (fun k => v / 2 ^ (8 * k) % 64) }
    else if i = 4 then
      { g with latches := (List.range 3).map fun k =>
          (g.latches.getD k Latch.empty).ofCode (v / 2 ^ (8 * k) % 256) }
    else if i = 24 then { g with phase := v }
    else if i < 32 then g
    else if i < 40 then
      match g.crec with
      | none => g
      | some x => { g with crec := some (Record.ofDwords fun k => if k = i - 32 then v else x.dwords.getD k 0) }
    else if i < 88 then
      { g with scal := lput 0 g.scal (i - 40) (BitVec.ofNat 64 v),
               ctag := if image then g.ctag else g.ctag &&& ~~~(1#24 <<< ((i - 40) / 2)) }
    else if i = 88 then { g with ctag := if image then BitVec.ofNat 24 v else g.ctag &&& BitVec.ofNat 24 v }
    else g
  else if i < 384 then
    g.modThread ((i - 128) / 4) fun t =>
      match i % 4 with
      | 0 => { t with pc := BitVec.ofNat 64 v }
      | 1 => t.setCst v
      | 2 => { t with wb := v % 2 ^ 32, rb := v / 2 ^ 32 % 2 ^ 32 }
      | _ => { t with entry := v % 4096, point := bit v 12, lv := bit v 13, elem := v / 2 ^ 32 % 2 ^ 32 }
  else
    let l := g.latches.getD ((i - 384) / 64) Latch.empty
    { g with latches := lput Latch.empty g.latches ((i - 384) / 64) (l.setWord image g.lpass (g.thread (i % 64)).point (i % 64) v) }

/-- Word w of a group's record, 0 to 1151. -/
def State.recordWord32 (s : State) (r : GRef) (g : Group) (w : Nat) : Nat :=
  s.recordWord r g (w / 2) / 2 ^ (32 * (w % 2)) % 2 ^ 32

/-- The group with word w of its record written. -/
def State.setRecordWord32 (s : State) (sup : Bool) (r : GRef) (g : Group) (w v : Nat) : Group :=
  let old := s.recordWord r g (w / 2)
  g.setRecordWord sup false (w / 2) (if w % 2 = 0 then old / 2 ^ 32 * 2 ^ 32 + v % 2 ^ 32 else old % 2 ^ 32 + v % 2 ^ 32 * 2 ^ 32)

end Sys2Proof.Machine
end

