-- ==== Sys2Proof/Machine/Paths.lean ====
section
/-! DEFINITION. The paths of R198: decoding an address, reading and writing what it names (R198 to R210, R358,
R359). -/

namespace Sys2Proof.Machine

open Sys2Proof

/-- Who makes an access: the group, whether it is a system group, its team, its tenant's translation, and its
device's place in the partition. -/
structure Origin where
  r    : GRef
  sys  : Bool
  team : Option Team
  slot : Nat
  who  : Who
  ten  : Nat
  ndev : Nat
  didx : Nat
deriving DecidableEq, Repr

/-- The origin of a group's accesses (R355: a system group translates through SROOT). -/
def State.origin (s : State) (r : GRef) (g : Group) : Origin :=
  let sys := r.slot == 63
  let q := s.quarter r.core r.qtr
  let part := (s.part? ((if sys then (s.core r.core).part else some g.part).getD 0))
  { r := r, sys := sys, team := if sys then none else s.team r g, slot := g.team,
    who := if sys then ⟨0, true, q.sroot.toNat, r.core, none⟩
           else ⟨g.ten, false, ((s.tenant? g.ten).map (·.root)).getD 0, r.core, some g.team⟩,
    ten := if sys then slice q.serv.toNat 63 48 else g.ten,
    ndev := (part.map (·.ndev)).getD 1, didx := (part.map (·.didx)).getD 0 }

/-- What an address names. -/
inductive Target where
  | gen (va : Nat)
  | con (va : Nat)
  | dap (va : Nat)
  /-- SPD, and DSP of the core that it reaches. -/
  | spad (core off : Nat) (dsp : Bool)
  | spz (tile byte : Nat)
  /-- KIND 0: a logical word of a lane; KIND 1: a word of the group's record. -/
  | regStack (r : GRef) (lane word : Nat)
  | regRecord (r : GRef) (word : Nat)
  | peer (dev va : Nat)
  | sup (va : Nat)
  | ten (va : Nat)
  | window (core part off : Nat)
deriving DecidableEq, Repr

/-- The path bits of an address. -/
def pathOf (a : Nat) : Nat := slice a 63 60

/-- Sizes of the parts of the core-state window (R387, R393). -/
def windowBytes : Nat → Nat
  | 0 => 4194304
  | 1 => 4194304
  | 2 => 8192
  | 3 => 2048
  | 4 => 2048
  | 5 => 16384
  | 6 => 16384
  | _ => 65536

/-- SPZCFG's fields (R202). -/
def spzEn (c : DWord) : Bool := c.getLsbD 0
/-- TBASE. -/
def spzBase (c : DWord) : Nat := slice c.toNat 21 8
/-- NTM1. -/
def spzNtm1 (c : DWord) : Nat := slice c.toNat 53 44

/-- The tile-offset-table entry of a tile (R203). A table that runs past the end of the scratchpad goes on at its start
(assumption 88). -/
def State.spzEntry (s : State) (core : Nat) (cfg : DWord) (t : Nat) : Nat :=
  creadLe (s.core core).spad ((256 * spzBase cfg + 8 * t) % Config.spadBytes) 8

/-- REG targets (R207). -/
def State.regTarget (s : State) (o : Origin) (a size : Nat) : Option Target :=
  let r : GRef := ⟨16 * slice a 55 52 + slice a 59 56, slice a 51 50, slice a 49 44⟩
  let lane := slice a 43 38
  let w := slice a 23 2
  let n := (size + 3) / 4
  if slice a 36 24 ≠ 0 ∨ slice a 1 0 ≠ 0 ∨ size < 4 then none
  else match s.group? r with
  | none => none
  | some g =>
    let own := match s.group? o.r with
      | some m => r.core == o.r.core && r.slot != 63 && g.team == m.team && g.handle == m.handle && g.part == m.part
      | none => false
    if !o.sys && !own then none
    else if bit a 37 then (if lane = 0 ∧ w + n ≤ 1152 then some (.regRecord r w) else none)
    else
      let t := g.thread lane
      if t.rb ≤ w ∧ w + n ≤ t.rb + g.words then some (.regStack r lane w) else none

/-- What a SYS address names (R358, R393). -/
def State.sysTarget (s : State) (o : Origin) (a size : Nat) : Option Target :=
  if !o.sys then none
  else match slice a 59 57 with
  | 0 => some (.sup (slice a 56 0))
  | 1 => some (.ten (slice a 56 0))
  | 2 =>
    let core := 16 * slice a 47 44 + slice a 51 48
    let part := slice a 43 40
    let frozen (t : Team) : Bool := match s.tenant? t.ten with
      | some x => x.frozen
      | none => false
    if slice a 56 52 ≠ 0 ∨ part > 7 ∨ slice a 39 0 + size > windowBytes part then none
    else if (s.core core).teams.any fun t => !frozen t.2 then none
    else some (.window core part (slice a 39 0))
  | _ => none

/-- What an address names for an access of some bytes; `none` is the address-path fault (R198, R199). -/
def State.target (s : State) (o : Origin) (a size : Nat) : Option Target :=
  match pathOf a with
  | 0 => if slice a 59 57 = 0 then some (.gen (slice a 56 0)) else none
  | 1 => if slice a 59 57 = 0 then some (.con (slice a 56 0)) else none
  | 2 => if slice a 59 22 = 0 then some (.spad o.r.core (slice a 21 0) false) else none
  | 3 => match o.team with
    | none => none
    | some t =>
      let tile := slice a 21 12
      let e := s.spzEntry o.r.core t.spzcfg tile
      if slice a 59 22 ≠ 0 ∨ !spzEn t.spzcfg ∨ tile > spzNtm1 t.spzcfg
        ∨ (bit e 40 ∧ 64 * slice e 63 48 + slice e 12 0 > Config.spadBytes) then none
      else some (.spz tile (slice a 11 0))
  | 4 => match o.team with
    | none => none
    | some t =>
      let dx := slice a 25 22
      let dy := slice a 29 26
      if slice a 59 30 ≠ 0 ∨ dx ≥ t.w ∨ dy ≥ t.h then none
      else some (.spad (16 * (t.y0 + dy) + t.x0 + dx) (slice a 21 0) true)
  | 5 => s.regTarget o a size
  | 6 => if slice a 59 57 = 0 then some (.dap (slice a 56 0)) else none
  | 7 =>
    let dev := slice a 59 52
    if dev ≥ o.ndev ∨ dev = o.didx then none else some (.peer dev (slice a 51 0))
  | 15 => s.sysTarget o a size
  | _ => none

/-- Does the path admit a store? -/
def Target.storable : Target → Bool
  | .con _ => false
  | .dap _ => false
  | .spz _ _ => false
  | _ => true

/-- Does the path admit ATOM and RED? -/
def Target.atomic : Target → Bool
  | .gen _ => true
  | .spad _ _ _ => true
  | .peer _ _ => true
  | _ => false

/-- The address-path test of an access of a kind (R198, R199), with the host-process region's limits for a tenant
bound to a PASID (R416). -/
def State.path (s : State) (o : Origin) (acc : Access) (a size : Nat) : Option Target :=
  match s.target o a size with
  | none => none
  | some t =>
    let bound := !o.sys && ((s.tenant? o.ten).bind (·.pasid)).isSome
    let ok := match acc with
      | .store => t.storable
      | .atomic => t.atomic
      | _ => true
    let region := match t with
      | .dap va => bound && inHostRegion va
      | .peer _ va => bound && inHostRegion va
      | _ => false
    if ok && !region then some t else none

/-! ### SPZ tiles (R204) -/

/-- One logical byte of a valid compressed tile. -/
def State.spzByte (s : State) (core entry i : Nat) : Byte :=
  let base := 64 * slice entry 63 48
  let mask (j : Nat) : Bool := (cget (s.core core).spad (base + j / 8)).getLsbD (j % 8)
  let w := i / 8
  if mask w then cget (s.core core).spad (base + 64 + 8 * ((List.range w).filter mask).length + i % 8) else 0

/-- Does a logical byte of a tile rest on scratchpad bytes that an uncovered operation writes: its table entry, its mask, its data
word (R140, R262)? -/
def State.spzOwned (s : State) (core : Nat) (cfg : DWord) (tile entry i : Nat) : Bool :=
  let hit (off n : Nat) : Bool := s.owning.any fun p => p.owns.any fun r =>
    r.1 < spadKey core off + n && spadKey core off < r.1 + r.2
  let base := 64 * slice entry 63 48
  hit ((256 * spzBase cfg + 8 * tile) % Config.spadBytes) 8
    || (bit entry 40 && (hit base 64 ||
      hit (base + 64 + 8 * ((List.range (i / 8)).filter fun j => (cget (s.core core).spad (base + j / 8)).getLsbD (j % 8)).length) 8))

/-- The key of a logical byte of a core's SPZ view among the free bytes. -/
def spzKey (core tile i : Nat) : Nat := 2 ^ 32 + core * 2 ^ 22 + tile * 4096 + i

/-- Logical bytes of a tile: zeros when its entry is not valid; those that an uncovered operation is writing are undefined (R140, R205,
R262). -/
def State.spzRead (s : State) (core : Nat) (cfg : DWord) (tile byte n : Nat) : List Byte :=
  let e := s.spzEntry core cfg tile
  let one (i : Nat) : Byte := if bit e 40 then s.spzByte core e i else 0
  if s.owning.isEmpty then (List.range n).map fun i => one (byte + i)
  else (List.range n).map fun i =>
    if s.spzOwned core cfg tile e (byte + i) then Config.undefByte s.ticket (spzKey core tile (byte + i)) else one (byte + i)

/-- The compressed form of a 4 KiB tile. -/
def spzPack (bs : List Byte) : List Byte :=
  let word (i : Nat) : List Byte := (bs.drop (8 * i)).take 8
  let live := (List.range 512).filter fun i => (word i).any (· != 0)
  leBytes 64 (live.foldl (fun n i => n + 2 ^ i) 0) ++ (live.map word).flatten

/-- An engine's write of one whole tile (R204): `none` when CLEN exceeds 64 × CAPU. -/
def State.spzWrite (s : State) (core : Nat) (cfg : DWord) (tile : Nat) (bs : List Byte) : Option State :=
  let e := s.spzEntry core cfg tile
  let c := spzPack bs
  if c.length > 64 * slice e 47 41 then none
  else
    let s := s.spadStore core (64 * slice e 63 48 % Config.spadBytes) c
    some (s.spadStore core ((256 * spzBase cfg + 8 * tile) % Config.spadBytes)
      (leBytes 8 (slice e 63 41 * 2 ^ 41 + 2 ^ 40 + slice e 39 13 * 2 ^ 13 + c.length)))

/-! ### The side log's view of later accesses (R305, R364) -/

/-- Does an access of n bytes at an address overlap an unreplayed entry of the core (R305, R364)? -/
def State.overlapsLog (s : State) (core ten a n : Nat) : Bool :=
  (s.core core).log.any fun e => e.ten == ten && e.addr.toNat < a + n && a < e.addr.toNat + e.bytes

/-! ### Reading -/

/-- What a read gives. -/
inductive Got where
  | bytes (bs : List Byte) (tag : Bool)
  /-- a translation fault (R362). -/
  | fault (sub : Nat)
  | wait (why : HoldWhy)
deriving DecidableEq, Repr

/-- A translated read of a group: GEN, CON, DAP. -/
def State.readVa (s : State) (o : Origin) (acc : Access) (va n : Nat) : State × Got :=
  match s.translate o.who acc va with
  | (s, .fault c) => (s, .fault c)
  | (s, .wait w) => (s, .wait w)
  | (s, .remote _) => (s, .wait .lock)
  | (s, .ok l) =>
    match acc with
    | .con => (s, .bytes (s.readBehind true o.r l n) false)
    | .fetch => (s, .bytes (s.readBehind true o.r l n) false)
    | .dap => (s, .bytes (s.readBehind false o.r l n) false)
    | _ => (s, .bytes (s.readBuffered o.r.core l n) (n == 16 && s.tagBuffered o.r.core l))

/-- The translation of the tenant window of a system group (R358). -/
def State.tenantWho (s : State) (o : Origin) : Who :=
  ⟨o.ten, false, (s.quarter o.r.core o.r.qtr).troot.toNat, o.r.core, none⟩

/-- A tenant-window access checks only P, RMT and CMP (R358), and it waits on move locks and promotions. -/
def State.tenantLeaf (s : State) (o : Origin) (va : Nat) (wr : Bool) : State × Tr :=
  let w := s.tenantWho o
  match s.lookup w va with
  | .error c => (s, .fault c)
  | .ok l =>
    let page := slice va 56 16
    if bit l.e 56 then s.meetRemote o.ten page (slice l.e 51 44)
    else if s.locked o.ten page && !bit l.e 55 then (s, .wait .lock)
    else if bit l.e 57 then (s.requestMove o.ten page .decompressPromote, .wait .lock)
    else
      let s := s.tlbFill w va l
      (if wr then s.markWrite w va l.e (l.loc va) else s, .ok (l.loc va))

/-- A tenant-window access has met a translation fault (R359): SFAULT is set, unless it already holds one. -/
def State.setSfault (s : State) (r : GRef) (sub va : Nat) : State :=
  s.modQuarter r.core r.qtr fun q =>
    if q.sfault.getLsbD 63 then q
    else { q with sfault := BitVec.ofNat 64 (2 ^ 63 + sub % 8 * 2 ^ 60 + va % 2 ^ 57) }

/-- Words of a group's stack or record through REG. -/
def State.regRead (s : State) (t : Target) (n : Nat) : List Byte :=
  match t with
  | .regStack r lane w => match s.group? r with
    | some g => ((List.range (n / 4)).map fun i =>
        leBytes 4 (if g.frozen then g.stored s.ticket lane (w + i) else g.word s.ticket lane (w + i)).toNat).flatten
    | none => List.replicate n 0
  | .regRecord r w => match s.group? r with
    | some g => ((List.range (n / 4)).map fun i => leBytes 4 (s.recordWord32 r g (w + i))).flatten
    | none => List.replicate n 0
  | _ => List.replicate n 0

/-- Read n bytes of what an address names; the core-state window is read by its own function. -/
def State.readTarget (s : State) (o : Origin) (acc : Access) (a : Nat) (t : Target) (n : Nat) : State × Got :=
  match t with
  | .gen va =>
    if !o.sys && s.overlapsLog o.r.core o.ten a n then (s, .wait .log)
    else s.readVa o (if acc == .con then .con else .load) va n
  | .con va => if !o.sys && s.overlapsLog o.r.core o.ten va n then (s, .wait .log) else s.readVa o .con va n
  | .dap va => if !o.sys && s.overlapsLog o.r.core o.ten va n then (s, .wait .log) else s.readVa o .dap va n
  | .spad c off _ => (s, .bytes (s.spadRead c off n) (n == 16 && (s.core c).stags.contains (off / 16)))
  | .spz tile byte => (s, .bytes (s.spzRead o.r.core ((o.team.map (·.spzcfg)).getD 0) tile byte n) false)
  | .regStack _ _ _ => (s, .bytes (s.regRead t n) false)
  | .regRecord _ _ => (s, .bytes (s.regRead t n) false)
  | .peer dev va =>
    if s.overlapsLog o.r.core o.ten a n then (s, .wait .log)
    else (s.peerOut dev (BitVec.ofNat 64 va),
          .bytes (s.readBuffered o.r.core (.peer (peerKey o.ten dev) va) n) false)
  | .sup va => s.readVa o .load va n
  | .ten va => match s.tenantLeaf o va false with
    | (s, .ok l) => (s, .bytes (s.readLoc l n) false)
    | (s, .fault c) => (s.setSfault o.r c va, .bytes (List.replicate n 0) false)
    | (s, .wait w) => (s, .wait w)
    | (s, .remote _) => (s, .wait .lock)
  | .window _ _ _ => (s, .bytes (List.replicate n 0) false)

end Sys2Proof.Machine
end

