-- ==== Sys2Proof/Machine/Traps.lean ====
section
/-! DEFINITION. Fault records and their ring, taking a trap, holding an access, double faults, and the hand-over of
barrel turns (R134 to R136, R355 to R363). -/

namespace Sys2Proof.Machine

open Sys2Proof

/-! ### Ready groups and turns (R134, R135) -/

/-- May a resident group issue? -/
def Group.canIssue (g : Group) : Bool := g.st == .ready && !g.frozen

/-- The ready pending groups of a quarter: slot and the cycle of becoming ready. -/
def State.readyPending (s : State) (core qtr : Nat) : List (Nat × Nat) :=
  let act := (s.quarter core qtr).active
  ((s.coreGroups core).filter fun x => x.1.qtr == qtr && x.2.canIssue && !act.contains (some x.1.slot)).map
    fun x => (x.1.slot, x.2.readyAt)

/-- The earliest ready pending group, lower slot first among equals (R135). -/
def earliest : List (Nat × Nat) → Option Nat
  | [] => none
  | (sl, at_) :: r => match earliest r with
    | none => some sl
    | some sl' => match r.find? fun x => x.1 == sl' with
      | some (_, at') => if at_ < at' || (at_ == at' && sl < sl') then some sl else some sl'
      | none => some sl

/-- Take the groups that may not issue out of the active set, and let ready pending groups take the free turns. -/
def fillTurn (core qtr : Nat) (s : State) (t : Nat) : State :=
  let q := s.quarter core qtr
  if q.sysTurn == some t then s
  else match q.active.getD t none with
    | some _ => s
    | none => match earliest (s.readyPending core qtr) with
      | none => s
      | some sl => s.modQuarter core qtr fun q =>
        { q with active := lput none q.active t (some sl), owned := lput 0 q.owned t 0, gap := lput false q.gap t true }

/-- The turns of a quarter after a change: groups that no longer may issue leave, ready groups enter (R134, R135). -/
def State.fillTurns (s : State) (core qtr : Nat) : State :=
  let stays (o : Option Nat) : Option Nat := match o with
    | none => none
    | some sl => match s.group? ⟨core, qtr, sl⟩ with
      | some g => if g.canIssue then some sl else none
      | none => none
  let s := s.modQuarter core qtr fun q => { q with active := q.active.map stays }
  (List.range 8).foldl (fillTurn core qtr) s

/-- A group becomes ready (R135: ordered by the cycle). -/
def State.makeReady (s : State) (r : GRef) : State :=
  s.modGroup r fun g => { g with st := .ready, readyAt := s.cycle }

/-- A swap (R135, R152): the group goes to the pending set as ready, and the earliest group that was ready there takes its turn. -/
def State.handOver (s : State) (r : GRef) : State :=
  let q := s.quarter r.core r.qtr
  match q.active.findIdx? (· == some r.slot) with
  | none => s
  | some t =>
    let next := earliest (s.readyPending r.core r.qtr)
    (s.makeReady r).modQuarter r.core r.qtr fun q =>
      { q with active := lput none q.active t next, owned := lput 0 q.owned t 0, gap := lput false q.gap t true }

/-! ### Records (R357, R360, R361) -/

/-- WHO of a group: the layout of SERV. -/
def whoOf (ten : Nat) (r : GRef) : DWord :=
  BitVec.ofNat 64 (ten % 65536 * 2 ^ 48 + r.core % 256 * 2 ^ 32 + r.qtr % 4 * 2 ^ 30 + r.slot % 64 * 2 ^ 24)
/-- WHO of a record that names no group. -/
def whoNone (ten : Nat) : DWord := BitVec.ofNat 64 (ten % 65536 * 2 ^ 48 + 1)
/-- The tenant a WHO names. -/
def whoTen (w : DWord) : Nat := slice w.toNat 63 48
/-- Does a WHO name no group? -/
def whoNames (w : DWord) : Bool := !w.getLsbD 0
/-- The group a WHO names. -/
def whoRef (w : DWord) : GRef := ⟨slice w.toNat 39 32, slice w.toNat 31 30, slice w.toNat 29 24⟩

/-- Halt a core as unrecoverable, with its notice (R359, R415). -/
def State.doubleFault (s : State) (core qtr cause : Nat) (pc addr : DWord) : State :=
  if (s.core core).halted then s
  else
    let q := s.quarter core qtr
    let served := q.ring.head?
    let first := match served with
      | some x => if q.busy then x.cause else 255
      | none => 255
    let ten := if q.busy then whoTen q.serv else 0
    { (s.modCore core fun k => { k with halted := true, inService := false }) with
      notices := s.notices ++ [{
        ncw := BitVec.ofNat 64 (2 ^ 56 + first % 256 * 2 ^ 48 + cause % 256 * 2 ^ 40 + core % 256 * 2 ^ 32 + qtr % 4 * 2 ^ 30),
        npc := pc, naddr := addr, nten := BitVec.ofNat 64 (ten + (if q.busy then 0 else 65536)), core := core }] }

/-- What `supWrite` answers when the write waits for a page. -/
def supWaits : Nat := 255

/-- Write bytes through the supervisor's translation of a quarter: the state, or the sub-cause of a fault. -/
def State.supWrite (s : State) (core qtr va : Nat) (bs : List Byte) : Except Nat State :=
  let w : Who := ⟨0, true, (s.quarter core qtr).sroot.toNat, core, none⟩
  match s.translate w .store va with
  | (s, .ok l) => .ok (s.writeLoc l bs false)
  | (_, .fault c) => .error c
  | (_, .wait _) => .error supWaits
  | (_, .remote _) => .error 3

/-- Write 16-byte pieces through the supervisor's translation. -/
def State.supWrites (s : State) (core qtr va : Nat) : List (List Byte) → Except Nat State
  | [] => .ok s
  | p :: ps => match s.supWrite core qtr va p with
    | .error c => .error c
    | .ok s => s.supWrites core qtr (va + p.length) ps

/-- The 64 bytes of a record in 16-byte pieces. -/
def Record.pieces (r : Record) : List (List Byte) :=
  let d := r.dwords
  (List.range 4).map fun i => leBytes 8 (d.getD (2 * i) 0) ++ leBytes 8 (d.getD (2 * i + 1) 0)

/-- May a waiting record be written: its tenant is not frozen (R370)? -/
def State.recordFree (s : State) (r : Record) : Bool :=
  match s.tenant? (whoTen r.who) with
  | some t => !(t.frozen || t.freezing) || !whoNames r.who
  | none => true

/-- Write the oldest waiting record that may be written at the tail of the ring, if there is room; a fault met while
the core writes it is a double fault (R359, R360), and while the ring's page moves the record waits (R218). -/
def State.writeRecord (s : State) (core qtr : Nat) : State :=
  let q := s.quarter core qtr
  if q.ring.length ≥ Config.ringRecords || (s.core core).halted then s
  else match q.waitRec.find? s.recordFree with
    | none => s
    | some r0 =>
      let r := { r0 with seq := q.seq }
      let at_ := slice q.fqb.toNat 56 0 + 64 * q.tail
      let before := s
      let s := s.modQuarter core qtr fun q =>
        { q with waitRec := q.waitRec.erase r0, ring := q.ring ++ [r], tail := (q.tail + 1) % Config.ringRecords,
                 seq := q.seq + 1 }
      match s.supWrites core qtr at_ r.pieces with
      | .ok s => s
      | .error e =>
        if e = supWaits then (before.translate ⟨0, true, q.sroot.toNat, core, none⟩ .store at_).1
        else s.doubleFault core qtr 0x10 0 (BitVec.ofNat 64 at_)

/-- Report an event: its record goes to a quarter's ring, or waits in the core (R360). -/
def State.report (s : State) (core qtr : Nat) (r : Record) : State :=
  (s.modQuarter core qtr fun q => { q with waitRec := q.waitRec ++ [r] }).writeRecord core qtr

/-- A record of a group. -/
def groupRecord (ten : Nat) (r : GRef) (cause sub : Nat) (len : BitVec 2) (pc rpc : DWord) (mask : LaneMask)
    (addr info : DWord) : Record :=
  { cause := cause, sub := sub, len := len, seq := 0, pc := pc, rpc := rpc, mask := mask, addr := addr, info := info,
    who := whoOf ten r }

/-- Stop a group as trapped, with its record (R136). A trap of a system group is a double fault (R359). -/
def State.trapGroup (s : State) (r : GRef) (g : Group) (cause sub : Nat) (len : BitVec 2) (pc rpc : DWord)
    (mask : LaneMask) (addr info : DWord) : State :=
  if r.slot = 63 then s.doubleFault r.core r.qtr cause pc addr
  else
    let s := s.modGroup r fun g => { g with st := .trapped }
    let s := s.modQuarter r.core r.qtr fun q =>
      match q.active.findIdx? (· == some r.slot) with
      | none => q
      | some t =>
        let q := { q with active := lput none q.active t none }
        if q.sysTurn.isNone then { q with sysTurn := some t } else q
    (s.report r.core r.qtr (groupRecord g.ten r cause sub len pc rpc mask addr info)).fillTurns r.core r.qtr

/-- Hold a group by an outstanding operation (R134, R363); `rec`: the translation fault is recorded. -/
def State.holdGroup (s : State) (r : GRef) (st : GState) : State :=
  (s.modGroup r fun g => { g with st := st }).fillTurns r.core r.qtr

/-! ### Serving (R136, R355, R357) -/

/-- The registers that describe a record: SERV, FREC and TROOT. -/
def State.serveRegs (s : State) (q : Quarter) (r : Record) : Quarter :=
  { q with serv := r.who, frec := BitVec.ofNat 64 (15 * 2 ^ 60 + slice q.fqb.toNat 59 0 + 64 * q.head),
           troot := BitVec.ofNat 64 (((s.tenant? (whoTen r.who)).map (·.root)).getD 0) }

/-- The system group at the start of a record (R355): its scalar registers keep their values. -/
def systemStart (old : Option Group) (svec : DWord) : Group :=
  let g := old.getD { Group.start with pro := 32, full := 32, allot := 32 }
  { g with st := .ready, flags := List.replicate 12 0, pend := [],
           threads := List.replicate 64 { Thread.start with pc := svec }, latches := List.replicate 3 Latch.empty }

/-- Start the service of the record at the ring head (R355). The system group takes the turn that a trap has given it;
for another record it takes the lowest free turn, or turn 0, whose group goes to the pending set as ready
(assumption 10). -/
def State.startService (s : State) (core qtr : Nat) : State :=
  let q := s.quarter core qtr
  match q.ring.head? with
  | none => s
  | some r =>
    if q.busy || (s.core core).halted then s
    else
      let ref : GRef := ⟨core, qtr, 63⟩
      let turn := match q.sysTurn with
        | some t => t
        | none => (q.active.findIdx? (· == none)).getD 0
      let out := match q.sysTurn with
        | some _ => none
        | none => q.active.getD turn none
      let s := match out with
        | some sl => s.makeReady ⟨core, qtr, sl⟩
        | none => s
      let s := s.setGroup ref { systemStart (s.group? ref) q.svec with part := ((s.core core).part).getD 0, covered := s.ticket }
      let s := s.openGroup ⟨65536, core, qtr, 0, 0⟩
      s.modQuarter core qtr fun q =>
        { s.serveRegs q r with busy := true, serving := if whoNames r.who then some (whoRef r.who).slot else none,
                               sysTurn := some turn, active := lput none q.active turn none }

end Sys2Proof.Machine
end

