-- ==== Sys2Proof/Machine/Engine.lean ====
section
/-! DEFINITION. Accesses that an engine makes for a group: ranges of bytes on the paths that it may use, whole or
not at all (R140, R290, R294, R381, R382). -/

namespace Sys2Proof.Machine

open Sys2Proof

/-- What an engine's access gives: bytes, a translation fault at an address, or a wait. -/
inductive EGot where
  | bytes (bs : List Byte)
  | fault (sub addr : Nat)
  | wait (why : HoldWhy)
  /-- an address that selects no path the engine may use. -/
  | path (addr : Nat)
deriving DecidableEq, Repr

/-- Cut a range of addresses at 16-byte boundaries: pieces of address and length. -/
def pieces (fuel a n : Nat) : List (Nat × Nat) :=
  match fuel with
  | 0 => []
  | k + 1 =>
    if n = 0 then []
    else
      let m := if n < 16 - a % 16 then n else 16 - a % 16
      (a, m) :: pieces k (a + m) (n - m)

/-- The pieces of a whole range. -/
def rangePieces (a n : Nat) : List (Nat × Nat) := pieces (n / 16 + 2) a n

/-- Read one piece. -/
def State.enginePiece (s : State) (o : Origin) (a n : Nat) : State × EGot :=
  match s.path o .load a n with
  | none => (s, .path a)
  | some t => match s.readTarget o .load a t n with
    | (s, .bytes bs _) => (s, .bytes bs)
    | (s, .fault c) => (s, .fault c a)
    | (s, .wait w) => (s, .wait w)

/-- Read pieces one after another. -/
def State.enginePieces (s : State) (o : Origin) : List (Nat × Nat) → State × EGot
  | [] => (s, .bytes [])
  | (a, n) :: r => match s.enginePiece o a n with
    | (s, .bytes bs) => match s.enginePieces o r with
      | (s, .bytes rest) => (s, .bytes (bs ++ rest))
      | x => x
    | x => x

/-- Cut a range of addresses at the multiples of a unit: pieces of address and length. -/
def spans (unit fuel a n : Nat) : List (Nat × Nat) :=
  match fuel with
  | 0 => []
  | k + 1 =>
    if n = 0 then []
    else
      let m := min n (unit - a % unit)
      (a, m) :: spans unit k (a + m) (n - m)

/-- The pieces of a range on SPD or DSP; on DSP the next scratchpad is the next core's (R198). -/
def spadPieces (a n : Nat) : List (Nat × Nat) := spans Config.spadBytes (n / Config.spadBytes + 2) a n

/-- Read pieces on SPD or DSP, each scratchpad by `load core offset n`. -/
def State.spadReads (s : State) (o : Origin) (load : Nat → Nat → Nat → List Byte) : List (Nat × Nat) → EGot
  | [] => .bytes []
  | (a, n) :: r => match s.path o .load a 1 with
    | some (.spad c off _) => (match s.spadReads o load r with
      | .bytes rest => .bytes (load c off n ++ rest)
      | x => x)
    | _ => .path a

/-- Does an address lie on SPD or DSP? -/
def onSpad (a : Nat) : Bool := pathOf a == 2 || pathOf a == 4

/-- An engine's read of n bytes. -/
def State.engineRead (s : State) (o : Origin) (a n : Nat) : State × EGot :=
  if onSpad a then (s, s.spadReads o s.spadRead (spadPieces a n)) else s.enginePieces o (rangePieces a n)

/-- The same, of which scratchpad bytes that an uncovered operation writes are undefined (R140). -/
def State.engineLoad (s : State) (o : Origin) (a n : Nat) : State × EGot :=
  if onSpad a then (s, s.spadReads o s.spadLoad (spadPieces a n)) else s.engineRead o a n

/-- Where the pieces of an engine's write go, each with its bytes; nothing is written yet. -/
def State.enginePlaces (s : State) (o : Origin) (bs : List Byte) :
    List (Nat × Nat) → State × Except EGot (List (Target × Option Loc × List Byte))
  | [] => (s, .ok [])
  | (a, n) :: r =>
    match s.path o .store a n with
    | none => (s, .error (.path a))
    | some t =>
      let tr : State × Tr := match t with
        | .gen va => s.translate o.who .store va
        | .peer d va => (s, .ok (.peer (peerKey o.ten d) va))
        | _ => (s, .ok (.phys 0))
      match tr with
      | (s, .ok l) => match s.enginePlaces o (bs.drop n) r with
        | (s, .ok rest) => (s, .ok ((t, some l, bs.take n) :: rest))
        | x => x
      | (s, .fault c) => (s, .error (.fault c a))
      | (s, .wait w) => (s, .error (.wait w))
      | (s, .remote _) => (s, .error (.wait .lock))

/-- Perform one piece of an engine's write: it bypasses the publication buffer, whose stores to the same bytes drain
first (R200, R297). On a scratchpad it meets what other operations own than the one that it is of, `me` (R140). -/
def State.enginePut (o : Origin) (me : Option (GRef × Nat)) (s : State) (x : Target × Option Loc × List Byte) : State :=
  match x with
  | (.spad c off _, _, bs) => s.spadTake me c off bs
  | (_, some l, bs) =>
    let s := s.drainPub o.r.core fun e => e.meetsAt l bs.length
    s.writeFor (s.ownOf o.r s.ticket false) l bs false
  | (_, none, _) => s

/-- An engine's write of bytes: all of it, or none when some access faults or waits (R382). -/
def State.engineWrite (s : State) (o : Origin) (a : Nat) (bs : List Byte) (me : Option (GRef × Nat) := none) : State × Option EGot :=
  let ps := if onSpad a then spadPieces a bs.length else rangePieces a bs.length
  match s.enginePlaces o bs ps with
  | (s, .error e) => (s, some e)
  | (s, .ok xs) => (xs.foldl (State.enginePut o me) s, none)

/-- The scratchpad bytes of a range that an operation is to write, as `Pend.owns` has them (R262). -/
def State.ownsAt (s : State) (o : Origin) (a n : Nat) : List (Nat × Nat) :=
  if onSpad a then (spadPieces a n).filterMap fun p => match s.path o .store p.1 1 with
    | some (.spad k off _) => some (spadKey k off, p.2)
    | _ => none
  else []

/-- The origin of an engine's accesses for a group that may have left. -/
def State.engineOrigin (s : State) (r : GRef) (ten team : Nat) : Origin :=
  let part := (s.core r.core).part.getD 0
  { r := r, sys := r.slot == 63, team := mget (s.core r.core).teams team, slot := team,
    who := if r.slot = 63 then ⟨0, true, (s.quarter r.core r.qtr).sroot.toNat, r.core, none⟩
           else ⟨ten, false, ((s.tenant? ten).map (·.root)).getD 0, r.core, none⟩,
    ten := ten, ndev := ((s.part? part).map (·.ndev)).getD 1, didx := ((s.part? part).map (·.didx)).getD 0 }

/-- The record of an engine's translation fault (R362, R381): unit 1 channel, 2 matrix, 3 Strand session, 4 LSUM,
5 LFILL. -/
def engineRecord (ten : Nat) (r : GRef) (sub : Nat) (len : BitVec 2) (pc : DWord) (addr unit_ num : Nat) : Record :=
  groupRecord ten r 0x12 sub len pc 0 0 (BitVec.ofNat 64 addr) (BitVec.ofNat 64 (unit_ * 256 + num))

/-- Report an engine's fault: of a system group it is a double fault (R359). -/
def State.engineFault (s : State) (ten : Nat) (r : GRef) (sub : Nat) (len : BitVec 2) (pc : DWord)
    (addr unit_ num : Nat) : State :=
  if r.slot = 63 then s.doubleFault r.core r.qtr 0x12 pc (BitVec.ofNat 64 addr)
  else s.report r.core r.qtr { engineRecord ten r sub len pc addr unit_ num with id := s.ticket }

end Sys2Proof.Machine
end

