-- ==== Sys2Proof/Machine/Tiles.lean ====
section
/-! DEFINITION. The tile queue of a Loupe grid and the end of a thread's pass (R311 to R316, R331, R392). -/

namespace Sys2Proof.Machine

open Sys2Proof

/-- Doubleword k of a grid's launch record (R92). -/
def Grid.word (g : Grid) (k : Nat) : Nat := (g.lrec.getD k 0).toNat
/-- LDIM: a 2D domain. -/
def Grid.ldim (g : Grid) : Bool := bit (g.word 6) 0
/-- LDEPTH. -/
def Grid.ldepth (g : Grid) : Nat := slice (g.word 6) 15 12
/-- First tile width and height. -/
def Grid.tileW (g : Grid) : Nat := 2 ^ slice (g.word 6) 23 20
/-- First tile height. -/
def Grid.tileH (g : Grid) : Nat := 2 ^ slice (g.word 6) 27 24
/-- DOMX and DOMY. -/
def Grid.domX (g : Grid) : Nat := slice (g.word 6) 47 32
/-- DOMY. -/
def Grid.domY (g : Grid) : Nat := if g.ldim then slice (g.word 6) 63 48 else 1

/-- First tiles per row, and in all (R311). -/
def Grid.tilesX (g : Grid) : Nat := ceilDiv g.domX g.tileW
/-- First tiles in all. -/
def Grid.tileCount (g : Grid) : Nat := g.tilesX * ceilDiv g.domY g.tileH

/-- The rectangle of first tile n, clipped at the domain's edge. -/
def Grid.firstTile (g : Grid) (n : Nat) : Rect :=
  let x := n % g.tilesX * g.tileW
  let y := n / g.tilesX * g.tileH
  ⟨x, min (x + g.tileW) g.domX - 1, y, min (y + g.tileH) g.domY - 1⟩

/-- Width, height and number of elements of a rectangle. -/
def Rect.w (r : Rect) : Nat := r.x1 + 1 - r.x0
/-- Height. -/
def Rect.h (r : Rect) : Nat := r.y1 + 1 - r.y0
/-- Number of elements. -/
def Rect.count (r : Rect) : Nat := r.w * r.h
/-- Element k in row-major order. -/
def Rect.elem (r : Rect) (k : Nat) : Rect :=
  ⟨r.x0 + k % r.w, r.x0 + k % r.w, r.y0 + k / r.w, r.y0 + k / r.w⟩

/-- The lowest entry number that is free. -/
def LoupeGrid.freeId (l : LoupeGrid) : Nat :=
  ((List.range Config.tileEntries).find? fun i => !(l.tiles.any fun t => t.id == i)).getD 0
/-- Free entries. -/
def LoupeGrid.free (l : LoupeGrid) : Nat := Config.tileEntries - l.tiles.length

/-- Put a tile at the tail of the queue under a free number. -/
def LoupeGrid.push (l : LoupeGrid) (r : Rect) (depth : Nat) (point : Bool) : LoupeGrid :=
  if r.x1 < r.x0 || r.y1 < r.y0 then l
  else { l with tiles := l.tiles ++ [⟨l.freeId, r, depth, point, false, 0, 0⟩] }

/-- Count with saturation at 0xffff (R316). -/
def sat16 (n : Nat) : Nat := if n < 65535 then n + 1 else n

/-- The children of a tile, in their order (R315): a child with no elements has an empty extent. -/
def Rect.children (r : Rect) (two : Bool) : List Rect :=
  let mx := if r.w ≥ 2 then r.x0 + ceilDiv r.w 2 else r.x1 + 1
  let my := if two && r.h ≥ 2 then r.y0 + ceilDiv r.h 2 else r.y1 + 1
  let lo := [⟨r.x0, mx - 1, r.y0, my - 1⟩] ++ (if mx ≤ r.x1 then [⟨mx, r.x1, r.y0, my - 1⟩] else [])
  let hi := if my ≤ r.y1 then [⟨r.x0, mx - 1, my, r.y1⟩] ++ (if mx ≤ r.x1 then [⟨mx, r.x1, my, r.y1⟩] else []) else []
  lo ++ hi

/-- An interval tile that has become undecided: it is split, or queued as a point entry (R315). -/
def Grid.undecided (g : Grid) (id : Nat) : Grid :=
  match g.loupe.tiles.find? fun t => t.id == id with
  | none => g
  | some t =>
    let rest := { g.loupe with tiles := g.loupe.tiles.filter fun x => x.id != id }
    if t.depth < g.ldepth && t.rect.count ≥ 64 && g.loupe.free ≥ (if g.ldim then 3 else 1) then
      let l := (t.rect.children g.ldim).foldl (fun l r => l.push r (t.depth + 1) false) rest
      { g with loupe := { l with split := sat16 l.split } }
    else
      { g with loupe := { rest with tiles := rest.tiles ++ [⟨id, t.rect, t.depth, true, false, 0, 0⟩],
                                    points := sat16 rest.points } }

/-- A thread that took the tile, or one of its elements, has ended decided (R315). -/
def Grid.decided (g : Grid) (id : Nat) : Grid :=
  match g.loupe.tiles.find? fun t => t.id == id with
  | none => g
  | some t =>
    if t.point then
      let t' := { t with open_ := t.open_ - 1 }
      let keep := t'.next < t.rect.count || t'.open_ != 0
      let ts := g.loupe.tiles.map fun x => if x.id == id then t' else x
      { g with loupe := { g.loupe with tiles := ts.filter (fun x => x.id != id || keep) } }
    else
      { g with loupe := { g.loupe with tiles := g.loupe.tiles.filter (fun x => x.id != id),
                                       decided := sat16 g.loupe.decided } }

/-- Addresses of the rows that a held LFILL writes: n rows of b bytes from offset o (R331). -/
def HeldFill.rows (f : HeldFill) (r : Rect) : List (Nat × Nat) :=
  let e := 2 ^ f.cap.esz
  (List.range r.h).map fun j => (f.cap.base + (r.y0 + j) * 64 * f.cap.pitch + r.x0 * e, r.w * e)

/-- The bytes of a row: the low bits of the value in every element. -/
def HeldFill.rowBytes (f : HeldFill) (n : Nat) : List Byte :=
  let e := leBytes (2 ^ f.cap.esz) f.val.toNat
  (List.replicate (n / 2 ^ f.cap.esz) e).flatten

/-- Write rows one after another, each whole; stop at the first that faults or waits. -/
def State.fillRows (s : State) (o : Origin) (f : HeldFill) : List (Nat × Nat) → State × Option EGot
  | [] => (s, none)
  | (a, n) :: r => match s.engineWrite o a (f.rowBytes n) with
    | (s, some e) => (s, some e)
    | (s, none) => s.fillRows o f r

/-- Perform the held LFILLs of a thread that has ended decided, in program order, and then close its tile or element
(R315). A fault is reported and the rest waits for its ERET; a fill whose bytes are on no path is passed over. -/
def State.performFills (s : State) (r : GRef) (lane : Nat) : Nat → State
  | 0 => s
  | k + 1 => match s.group? r with
    | none => s
    | some g =>
      let t := g.thread lane
      if !t.lv then s
      else match t.fills with
        | [] => (s.modGrid g.part g.handle fun x => x.decided t.entry).modGroup r fun g =>
            g.modThread lane fun t => { t with lv := false }
        | f :: fs =>
          let go (s : State) (fs : List HeldFill) : State :=
            s.modGroup r fun g => g.modThread lane fun t => { t with fills := fs }
          if f.told then s
          else match s.fillRows (s.engineOrigin r g.ten g.team) f (f.rows t.rect) with
          | (s, none) => (go s fs).performFills r lane k
          | (s, some (.path _)) => (go s fs).performFills r lane k
          | (s, some (.fault c a)) => (go s ({ f with told := true } :: fs)).engineFault g.ten r c f.len f.pc a 5 lane
          | (s, some _) => s

/-- The group's last live thread may have ended: it enters Draining (R150). -/
def State.drainIfDone (s : State) (r : GRef) : State :=
  match s.group? r with
  | none => s
  | some g => if g.liveLanes.isEmpty then (s.setGroup r { g with st := .draining }).fillTurns r.core r.qtr else s

/-- Threads that execute EXIT (R150, R315): in a Loupe grid their tiles are decided. -/
def State.exitThreads (s : State) (r : GRef) (lanes : List Nat) : State :=
  let s := s.modGroup r fun g => g.modThreads lanes fun _ t => { t with live := false }
  let s := lanes.foldl (fun s l => s.performFills r l 5) s
  s.drainIfDone r

/-- Threads whose tiles become undecided (R315, R322): their held LFILLs are discarded and their pass ends. -/
def State.undecide (s : State) (r : GRef) (lanes : List Nat) : State :=
  let one (s : State) (l : Nat) : State := match s.group? r with
    | none => s
    | some g =>
      let t := g.thread l
      if !t.lv || t.point then s
      else (s.modGrid g.part g.handle fun x => x.undecided t.entry).modGroup r fun g =>
        g.modThread l fun t => { t with live := false, lv := false, fills := [] }
  if lanes.isEmpty then s else (lanes.foldl one s).drainIfDone r

/-- LQCNT (R316). -/
def Grid.lqcnt (g : Grid) : Nat :=
  g.loupe.tiles.length % 65536 + g.loupe.points * 2 ^ 16 + g.loupe.split * 2 ^ 32 + g.loupe.decided * 2 ^ 48

end Sys2Proof.Machine
end

