-- ==== Sys2Proof/Machine/Operands.lean ====
section
/-! DEFINITION. Operand forms: which kinds a field admits, how a source is read at a width and how a destination is
written, in an ordinary grid and in a Loupe grid (R7, R117 to R120, R162, R163, R223, R317, R318, R320). -/

namespace Sys2Proof

/-- The number of a register operand. -/
def Opnd.num : Opnd → Nat
  | .v n => n.val
  | .s n => n.val
  | .l n => n.val
  | _ => 0

end Sys2Proof

namespace Sys2Proof.Machine

open Sys2Proof

/-! ### Kinds of operand -/

/-- A vector register. -/
def isV : Opnd → Bool
  | .v _ => true
  | _ => false
/-- A scalar register. -/
def isS : Opnd → Bool
  | .s _ => true
  | _ => false
/-- An even vector register. -/
def isV2 : Opnd → Bool
  | .v n => n.val % 2 == 0
  | _ => false
/-- A vector register whose number is a multiple of 4. -/
def isV4 : Opnd → Bool
  | .v n => n.val % 4 == 0
  | _ => false
/-- An even scalar register: a capability's name (R118). -/
def isS2 : Opnd → Bool
  | .s n => n.val % 2 == 0
  | _ => false
/-- A group-uniform source that reads nothing per thread: scalar, `zero` or literal (R163). -/
def isUni : Opnd → Bool
  | .s _ => true
  | .zero => true
  | .lit => true
  | _ => false
/-- Any source. -/
def isAny : Opnd → Bool
  | .rsv _ => false
  | _ => true
/-- A source of an integer or conversion instruction at width w: a vector pair must be even (R162). -/
def isSrc (w : Nat) (o : Opnd) : Bool :=
  match o with
  | .v n => w == 32 || n.val % 2 == 0
  | o => isAny o
/-- A vector or scalar destination at width w (R163). -/
def isDst (w : Nat) (o : Opnd) : Bool :=
  match o with
  | .v n => w == 32 || n.val % 2 == 0
  | .s _ => true
  | _ => false
/-- A predicate's number in an operand field (R120). -/
def isP : Opnd → Bool
  | .v n => n.val < 8
  | _ => false
/-- A field that is coded 0 where the instruction's form has no operand. -/
def isNone : Opnd → Bool
  | .v n => n.val == 0
  | _ => false
/-- A scalar or `zero`. -/
def isSZ (o : Opnd) : Bool := isS o || o == .zero
/-- A scalar or a literal. -/
def isSL (o : Opnd) : Bool := isS o || o == .lit
/-- Is a destination field's code one of 56 to 63 (R117)? -/
def notDst : Opnd → Bool
  | .v _ => false
  | .s _ => false
  | _ => true

/-- The test of one field (R117): used as a destination or not, and the kinds it admits; `none` for a field that the
instruction does not use. -/
structure Field where
  dst : Bool
  ok  : Opnd → Bool

/-- A latch is in range while it has been captured within the group's previous two instructions (R19). -/
def Latch.inRange (l : Latch) : Bool :=
  match l.age with
  | some a => a < 2
  | none => false

/-- The SUB of the illegal-operand trap that a field raises (R117, R362): its index, or 4 for a latch. -/
def fieldFault (g : Group) (lit : Bool) (idx : Nat) (fd : Option Field) (o : Opnd) : Option Nat :=
  match fd with
  | none => none
  | some k =>
    if (match o with | .rsv _ => true | _ => false) || (o == .lit && !lit) || (k.dst && notDst o) || !k.ok o then some idx
    else match o with
      | .l n => if (g.latches.getD n.val Latch.empty).inRange then none else some 4
      | _ => none

/-! ### Intervals (R317, R318) -/

/-- What a register holds in a Loupe grid: the two ends as bit patterns, the kind (0 S, 1 U, 2 F, 3 X; from 4 on a
pair whose halves disagree, with the hidden bits of both; 255 a source that has no KIND), NP and WIDE. Elsewhere a value is a point. -/
structure Iv where
  lo   : Nat
  hi   : Nat
  kind : Nat
  np   : Bool
  wide : Bool
deriving DecidableEq, Repr

/-- A point of a kind. -/
def Iv.pt (kind v : Nat) : Iv := ⟨v, v, kind, false, false⟩
/-- Is a value a point? -/
def Iv.isPoint (i : Iv) : Bool := i.lo == i.hi && !i.np

/-- The place of a w-bit pattern in the order of a kind; in F −0 lies below +0 (R318). -/
def ordKey (kind w v : Nat) : Int :=
  match kind with
  | 0 => sgn w v
  | 2 => if v ≥ 2 ^ (w - 1) then - ((v - 2 ^ (w - 1) : Nat) : Int) - 1 else (v : Int)
  | _ => (v : Int)

/-- Full of a kind at a width (R318). -/
def Iv.full (kind w : Nat) : Iv :=
  match kind with
  | 0 => ⟨2 ^ (w - 1), 2 ^ (w - 1) - 1, 0, false, w == 64⟩
  | 1 => ⟨0, 2 ^ w - 1, 1, false, w == 64⟩
  | 2 => ⟨0xff800000, 0x7f800000, 2, true, false⟩
  | _ => ⟨0, 2 ^ w - 1, 3, true, w == 64⟩

/-- A value read as a kind at a width (R318). -/
def Iv.as (kind w : Nat) (i : Iv) : Iv :=
  let kind := if kind < 4 then kind else 0
  let fits := i.wide == (w == 64)
  if i.isPoint then { i with kind := kind }
  else if i.kind == kind && fits && ordKey kind w i.lo ≤ ordKey kind w i.hi then i
  else if kind == 1 && i.kind == 0 && fits && ordKey 0 w i.lo ≤ ordKey 0 w i.hi && !bit i.lo (w - 1) && !i.np then
    { i with kind := 1 }
  else if kind == 0 && i.kind == 1 && fits && i.lo ≤ i.hi && !bit i.hi (w - 1) && !i.np then { i with kind := 0 }
  else Iv.full kind w

/-- The hull of two values of one kind. -/
def Iv.hull (w : Nat) (a b : Iv) : Iv :=
  { lo := if ordKey a.kind w a.lo ≤ ordKey a.kind w b.lo then a.lo else b.lo,
    hi := if ordKey a.kind w a.hi ≥ ordKey a.kind w b.hi then a.hi else b.hi,
    kind := a.kind, np := a.np || b.np, wide := w == 64 }

/-- The two words and hidden bits of one register of a Loupe grid. -/
def Group.regIv (tk : Nat) (g : Group) (lane n : Nat) : Iv :=
  let w := g.wordOf lane n
  let h := (g.thread lane).hidden w
  ⟨(g.word tk lane w).toNat, (g.word tk lane (w + 1)).toNat, h.kind.toNat, h.np, h.wide⟩

/-- A pair of registers as one 64-bit value. -/
def Iv.pair (a b : Iv) : Iv :=
  { lo := a.lo + b.lo * 2 ^ 32, hi := a.hi + b.hi * 2 ^ 32,
    kind := if a.kind == b.kind && a.wide == b.wide then a.kind
      else 4 + a.kind + 4 * b2n a.wide + 8 * (b.kind + 4 * b2n b.wide), np := a.np || b.np, wide := a.wide && b.wide }

/-- A latch's entry of a lane at a width (R138, R140, R162). -/
def Group.latchIv (tk : Nat) (g : Group) (n w lane : Nat) : Iv :=
  let l := g.latches.getD n Latch.empty
  if inMask l.lanes lane then
    let lo := (mgetD l.vals lane 0).toNat
    match (if g.lpass then mget l.his lane else none) with
    | none => Iv.pt 0 (lo % 2 ^ w)
    | some hi =>
      let h := mgetD l.hids lane ⟨0, false, false⟩
      ⟨lo % 2 ^ w, hi.toNat % 2 ^ w, h.kind.toNat, h.np, h.wide⟩
  else Iv.pt 0 ((Config.undefDWord tk lane (64 + n)).toNat % 2 ^ w)

/-- The kind of a source that has none: a scalar, literal, `zero` or `lane` (R317). -/
def noKind : Nat := 255

/-- A source of a lane at width w, 32 or 64 (R162). -/
def Group.readIv (tk : Nat) (g : Group) (lit : Option DWord) (w lane : Nat) (o : Opnd) : Iv :=
  match o with
  | .v n =>
    if g.lpass then
      (if w = 64 then (g.regIv tk lane n.val).pair (g.regIv tk lane (n.val + 1)) else g.regIv tk lane n.val)
    else
      let lo := (g.word tk lane (g.wordOf lane n.val)).toNat
      Iv.pt 0 (if w = 64 then lo + (g.word tk lane (g.wordOf lane n.val + 1)).toNat * 2 ^ 32 else lo)
  | .s n => Iv.pt noKind ((g.scalar tk n.val).toNat % 2 ^ w)
  | .l n => g.latchIv tk n.val w lane
  | .zero => Iv.pt noKind 0
  | .lane => Iv.pt noKind lane
  | .lit => Iv.pt noKind ((lit.getD 0).toNat % 2 ^ w)
  | .rsv _ => Iv.pt 0 0

/-- A source of a lane as plain bits. -/
def Group.read (tk : Nat) (g : Group) (lit : Option DWord) (w lane : Nat) (o : Opnd) : Nat :=
  (g.readIv tk lit w lane o).lo

/-- Write one register of a lane with its upper word and hidden bits. -/
def Group.setReg (tk : Nat) (g : Group) (lane n lo hi : Nat) (h : Hidden) : Group :=
  let w := g.wordOf lane n
  let g := g.setWord tk lane w (BitVec.ofNat 32 lo)
  if g.lpass then (g.setWord tk lane (w + 1) (BitVec.ofNat 32 hi)).setHidden lane w h else g

/-- The hidden bits of half `half` of a value: a point has NP and WIDE clear (R317). -/
def Iv.hidden (half : Nat) (i : Iv) : Hidden :=
  if 4 ≤ i.kind ∧ i.kind < 68 ∧ !i.isPoint then
    let c := (i.kind - 4) / 8 ^ half % 8
    ⟨BitVec.ofNat 2 c, i.np, bit c 2⟩
  else ⟨if i.kind < 4 then BitVec.ofNat 2 i.kind else 0, i.np, i.wide && !i.isPoint⟩

/-- Write a value of width w into a vector register or pair of a lane (R163, R317). -/
def Group.writeIv (tk : Nat) (g : Group) (lane n w : Nat) (i : Iv) : Group :=
  if w = 64 then
    (g.setReg tk lane n (i.lo % 2 ^ 32) (i.hi % 2 ^ 32) (i.hidden 0)).setReg tk lane (n + 1) (i.lo / 2 ^ 32) (i.hi / 2 ^ 32)
      (i.hidden 1)
  else g.setReg tk lane n i.lo i.hi (i.hidden 0)

/-- Half `half` of a 64-bit value as one register holds it. -/
def Iv.part (half : Nat) (i : Iv) : Iv :=
  let h := i.hidden half
  ⟨i.lo / 2 ^ (32 * half) % 2 ^ 32, i.hi / 2 ^ (32 * half) % 2 ^ 32, h.kind.toNat, h.np, h.wide⟩

/-- One register receives the hull of what it holds and a value. -/
def Group.hullReg (tk : Nat) (g : Group) (lane n : Nat) (i : Iv) : Group :=
  g.writeIv tk lane n 32 (Iv.hull 32 i ((g.regIv tk lane n).as i.kind 32))

/-- Write under a guard: T writes the value, U the hull of the old and the new one (R320). A pair that is no 64-bit interval is two
registers, each with its own hull. -/
def Group.writeTri (tk : Nat) (g : Group) (gd : Tri) (lane n w : Nat) (i : Iv) : Group :=
  match gd with
  | .t => g.writeIv tk lane n w i
  | .f => g
  | .u =>
    if w = 64 ∧ !i.isPoint ∧ !(i.wide && i.kind < 4) then
      (g.hullReg tk lane n (i.part 0)).hullReg tk lane (n + 1) (i.part 1)
    else
    let old := (g.readIv tk none w lane (.v ⟨n % 32, Nat.mod_lt _ (by decide)⟩)).as i.kind w
    g.writeIv tk lane n w (Iv.hull w i old)

/-- Write a predicate under a guard: under U the predicate becomes U when old and new differ (R320). -/
def Group.writePredTri (tk : Nat) (g : Group) (gd : Tri) (lane n : Nat) (v : Tri) : Group :=
  match gd with
  | .t => g.setPred tk lane n v
  | .f => g
  | .u => if n = 0 ∨ g.pred tk lane n = v then g else g.setPred tk lane n .u

end Sys2Proof.Machine
end

