-- ==== Sys2Proof/Machine/Groups.lean ====
section
/-! DEFINITION. The life of a group: register-file words, ACQ service, the team barrier, and retirement of groups,
teams and clusters (R21, R31, R41 to R44, R47, R142, R154). -/

namespace Sys2Proof.Machine

open Sys2Proof

/-- A thread past an instruction of some bytes. -/
def Thread.past (n : DWord) (t : Thread) : Thread :=
  { t with pc := t.pc + n, cpos := t.cpos + 1, left := t.left.map (· - 1) }

/-- Register-file words that a tenant group takes in its quarter (R31). -/
def Group.holds (g : Group) : Nat := g.words
/-- Free words of a quarter (R31). -/
def State.freeWords (s : State) (core qtr : Nat) : Nat :=
  Config.quarterWords - ((s.coreGroups core).filter fun x => x.1.qtr == qtr).foldl (fun n x => n + x.2.holds) 0
/-- Short(g) of R154. -/
def Group.short (g : Group) : Nat := (g.full - g.pro) * g.regWords

/-- The ACQ-waiting groups of a quarter, oldest first (R42). -/
def State.acqWaiting (s : State) (core qtr : Nat) : List (GRef × Group) :=
  osort (fun a b => a.2.age < b.2.age)
    ((s.coreGroups core).filter fun x => x.1.qtr == qtr && x.2.st == .acqWait && !x.2.frozen)

/-- Satisfy a waiting group when it fits: it goes on past its ACQ, an extended word of 12 bytes. -/
def serveOne (s : State) (x : GRef × Group) : State :=
  if x.2.short ≤ s.freeWords x.1.core x.1.qtr then
    (s.modGroup x.1 fun g =>
      { (g.modThreads g.issuingSet fun _ t => t.past 12) with allot := g.full, acqf := true }).makeReady x.1
  else s

/-- Freed words serve the ACQ-waiting groups, oldest first; one that does not fit is passed over (R42). -/
def State.serveAcq (s : State) (core qtr : Nat) : State :=
  ((s.acqWaiting core qtr).foldl serveOne s).fillTurns core qtr

/-- Has every live group of a team arrived (R21)? -/
def Team.complete (t : Team) : Bool :=
  (List.range t.ngrp).all (fun i => t.arrived.contains i || t.gone.contains i) && t.gone.length < t.ngrp

/-- Does an operation wait on the team barrier for a generation before one? -/
def Pend.teamWait (p : Pend) (gen : Nat) : Bool :=
  match p.kind with
  | .bwait none _ k => k < gen
  | _ => false

/-- Complete the generation of a team barrier when every live group has arrived, and release its waiters (R21,
R283). -/
def State.teamTest (s : State) (core slot : Nat) : State :=
  match mget (s.core core).teams slot with
  | none => s
  | some t =>
    if t.complete then
      let s := s.modTeam core slot fun t => { t with gen := t.gen + 1, arrived := [] }
      { s with groups := s.groups.map fun x =>
          if x.1 / 256 == core && x.1 % 64 != 63 && x.2.team == slot then
            (x.1, { x.2 with pend := x.2.pend.map fun p => if p.teamWait (t.gen + 1) then p.finishAll true else p })
          else x }
    else s

/-- A group arrives at its team's barrier (R281). A system group is of no team (R21, R30). -/
def State.teamArrive (s : State) (r : GRef) : State :=
  if r.slot = 63 then s
  else match s.group? r with
  | none => s
  | some g => match s.team r g with
    | none => s
    | some t =>
      let s := s.modGroup r fun g => { g with bgen := some t.gen }
      (s.modTeam r.core g.team fun t => { t with arrived := sins t.arrived g.gidx }).teamTest r.core g.team

/-- A team's place becomes free when its last group has retired, or when it is released (R44, R47, R215). With the core's last team
its SAVING returns to 0 (R395). -/
def Core.dropTeam (k : Core) (slot : Nat) : Core :=
  let before := k.teams.map (·.1)
  let rest := mdel k.teams slot
  ({ k with teams := rest, saving := if rest.isEmpty then 0 else k.saving }).reslice before

/-- A team of a cluster has retired: the cluster retires with its last team (R44). -/
def Grid.teamGone (x : Grid) (map : Nat) : Grid :=
  let cs := x.clusters.map fun c => if c.idx == map then { c with left := c.left - 1 } else c
  let done := cs.filter fun c => c.idx == map && c.left == 0 && c.st == .admitted
  { x with clusters := cs.map (fun c => if c.idx == map && c.left == 0 && c.st == .admitted then { c with st := .retired } else c),
           retired := x.retired + done.length }

/-- Retire a group (R41): its buffered stores drain, its slot and words are freed, it counts as arrived; its team and
its cluster may retire with it. -/
def State.retireGroup (s : State) (r : GRef) : State :=
  match s.group? r with
  | none => s
  | some g =>
    let s := ((s.drainPub r.core fun e => e.ref == r).closeGroup (s.gidOf r g)).delGroup r
    let s := (s.modTeam r.core g.team fun t => { t with gone := sins t.gone g.gidx }).teamTest r.core g.team
    let s := match mget (s.core r.core).teams g.team with
      | none => s
      | some t =>
        if t.gone.length = t.ngrp then
          (s.modCore r.core fun k => k.dropTeam g.team).modGrid g.part g.handle fun x => x.teamGone t.map
        else s
    s.serveAcq r.core r.qtr

/-- A Draining group whose flags are all 0 retires; in a Loupe grid it takes a batch instead (R41, R314). -/
def State.retireIfDrained (s : State) (r : GRef) : State :=
  match s.group? r with
  | none => s
  | some g => if g.st == .draining && g.flags.all (· == 0) && !g.lpass && !g.frozen then s.retireGroup r else s

end Sys2Proof.Machine
end

