-- ==== Sys2Proof/Machine/Flags.lean ====
section
/-! DEFINITION. Completion flags and outstanding long-latency operations: issue, cover, completion and waiting
(R22, R123, R139, R140, R153). The S4 has no arithmetic flags: a comparison writes a predicate. -/

namespace Sys2Proof.Machine

open Sys2Proof

/-- The counter of a flag. -/
def Group.flag (g : Group) (n : Nat) : Nat := g.flags.getD n 0
/-- Is every flag of a mask clear (R22)? -/
def Group.clear (g : Group) (mask : BitVec 12) : Bool :=
  (List.range 12).all fun n => !mask.getLsbD n || g.flag n == 0

/-- The flag that a long-latency instruction selects: SETA, or SETB by FS, of the leader's clause context (R123,
R141). -/
def selectFlag (t : Thread) (fs : Bool) : Nat := (if fs then t.setb else t.seta).toNat

/-- An operation as it is issued. -/
def Pend.new (flag : Nat) (pc : DWord) (len : BitVec 2) (mask : LaneMask) (kind : PendKind) (dests : List Reg)
    (vals : List DWord) : Pend :=
  { id := 0, flag := flag, pc := pc, len := len, mask := mask, kind := kind, born := kind, issued := 0, dests := dests, vals := vals, ivs := [],
    clash := [], capTag := none, done := false, owns := [], dirty := [], since := 0 }

/-- Add an outstanding operation: its flag is incremented (R123). A destination that an older uncovered operation
also writes stays one of both. -/
def Group.addPend (g : Group) (p : Pend) : Group :=
  { g with flags := lput 0 g.flags p.flag (g.flag p.flag + 1), pend := g.pend ++ [{ p with id := g.nextId }],
           nextId := g.nextId + 1 }

/-- Cover the operations of the flags of a mask (R140): an acquire, when it covers one (R293). -/
def Group.cover (tk : Nat) (g : Group) (mask : BitVec 12) : Group :=
  { g with covered := tk, pend := g.pend.filter fun p => !(p.done && mask.getLsbD p.flag) }

/-- One value of an operation reaches its register, or, where an instruction has written the register since, one of
both values (R140). -/
def Group.land (tk : Nat) (p : Pend) (g : Group) (x : Reg × DWord) : Group :=
  let either {α : Type} (lane n : Nat) (old new : α) : α :=
    if p.clash.contains x.1 then eitherOf tk lane n old new else new
  match x.1 with
  | .word lane w =>
    let new := x.2.setWidth 32
    g.modThread lane fun t => { t with stack := mset t.stack w (either lane w ((mget t.stack w).getD new) new) }
  | .scalar n =>
    { g with scal := lput 0 g.scal n (either 64 n (g.scal.getD n 0) x.2), ctag := g.ctag &&& ~~~(1#24 <<< (n / 2)) }
  | .pred lane n =>
    if n = 0 then g
    else g.modThread lane fun t =>
      { t with preds := lput .f t.preds (n - 1) (either lane n (t.preds.getD (n - 1) .f) (if x.2 == 0 then .f else .t)) }

/-- The tag of a pair that an operation has written as a capability (R80): clear where an instruction has written a
half since the issue, so that the pair may hold a mixture (R79, assumption 86). -/
def Group.landTag (g : Group) (p : Pend) : Group :=
  match p.capTag with
  | some (n, true) =>
    if p.clash.contains (.scalar (2 * n)) || p.clash.contains (.scalar (2 * n + 1)) then g
    else { g with ctag := g.ctag ||| (1#24 <<< n) }
  | _ => g

/-- The raw words of a Loupe value: lower and upper word of each register. -/
def IvDest.words (d : IvDest) (lo hi : Nat) : List (Nat × Nat) :=
  if d.size = 64 then [(d.w, lo % 2 ^ 32), (d.w + 1, hi % 2 ^ 32), (d.w + 2, lo / 2 ^ 32), (d.w + 3, hi / 2 ^ 32)]
  else [(d.w, lo % 2 ^ 32), (d.w + 1, hi % 2 ^ 32)]

/-- A Loupe register receives its value: the hull with the old one where the guard was U (R320). -/
def Group.landIv (tk : Nat) (g : Group) (d : IvDest) : Group :=
  let t := g.thread d.lane
  let raw (w : Nat) : Nat := (g.stored tk d.lane w).toNat
  let one (w : Nat) : Iv := let h := t.hidden w; ⟨raw w, raw (w + 1), h.kind.toNat, h.np, h.wide⟩
  let new : Iv := ⟨d.lo.toNat, d.hi.toNat, d.hid.kind.toNat, d.hid.np, d.hid.wide⟩
  let old := (if d.size = 64 then (one d.w).pair (one (d.w + 2)) else one d.w).as new.kind d.size
  let i := if d.hull then Iv.hull d.size new old else new
  let h : Hidden := ⟨BitVec.ofNat 2 i.kind, i.np, i.wide && d.size == 64 && !i.isPoint⟩
  g.modThread d.lane fun t =>
    { t with stack := (d.words i.lo i.hi).foldl (fun m x => mset m x.1 (BitVec.ofNat 32 x.2)) t.stack,
             hid := if d.size = 64 then mset (mset t.hid d.w h) (d.w + 2) h else mset t.hid d.w h }

/-! ### Pool objects in scratchpads (R237) -/

/-- The lines of a pool object in a scratchpad, by core and offset (R235). -/
def State.poolSpad (s : State) (x : GRef × Group × Cap) : List (Nat × Nat) :=
  let at_ (a : Nat) : Option (Nat × Nat) := match s.path (s.origin x.1 x.2.1) .atomic (a % 2 ^ 64) 1 with
    | some (.spad k off _) => some (k, off)
    | _ => none
  match at_ x.2.2.base with
  | none => []
  | some p => (List.range (poolSpan (ofLe (s.spadRead p.1 (p.2 + 16) 8)))).filterMap fun i => at_ (x.2.2.base + 64 * i)

/-- A group's own store to scratchpad bytes, of a capability with its tag (R81), which a granule has only when all of its bytes are the
capability's (R83): the objects of uncovered POOL requests that it
meets become undefined (R237), and no tag of theirs is left. -/
def State.spadPutStore (s : State) (by_ : Option Gid) (core off : Nat) (bs : List Byte) (tag : Bool) : State :=
  let met := (s.poolsHeld.map s.poolSpad).filter fun ls => ls.any fun l => l.1 == core && l.2 < off + bs.length && off < l.2 + 64
  met.flatten.foldl
    (fun s l => s.spadWrite l.1 l.2 ((List.range 64).map fun i => Config.undefByte s.ticket (spadKey l.1 (l.2 + i))))
    (let clean := !(s.owning.any fun p => p.done && p.owns.any fun r => r.1 < spadKey core off + bs.length && spadKey core off < r.1 + r.2)
     let s := s.spadStore core off bs by_
     if tag && clean then s.modCore core fun k => { k with stags := sins k.stags (off / 16) } else s)

/-- The bytes that another write has met become undefined. -/
def State.spoil (s : State) (p : Pend) : State :=
  let hit (k : Nat) : Bool := inRanges p.owns k
  p.dirty.foldl (fun s r => (List.range r.2).foldl (fun s i =>
    if hit (r.1 + i) then
      s.modCore ((r.1 + i) / 2 ^ 22) fun k => k.spadPut ((r.1 + i) % 2 ^ 22) [Config.undefByte s.ticket (r.1 + i)]
    else s) s) s

/-- A waiting group whose named flags are clear becomes ready; a WAITF covers (R134, R153). -/
def State.wake (s : State) (r : GRef) : State :=
  match s.group? r with
  | none => s
  | some g => match g.st with
    | .waiting mask wf =>
      if g.clear mask then
        ((s.setGroup r (if wf then g.cover s.ticket mask else g)).makeReady r).fillTurns r.core r.qtr
      else s
    | _ => s

/-- An operation completes: its registers are written and its flag is decremented, never below 0 (R123, R139); a
waiting group may become ready, a Draining one may retire. -/
def State.complete (s : State) (r : GRef) (id : Nat) : State :=
  match s.group? r with
  | none => s
  | some g => match g.pend.find? fun p => p.id == id with
    | none => s
    | some p =>
      if p.done then s
      else
        let g := if p.ivs.isEmpty then (p.dests.zip p.vals).foldl (Group.land s.ticket p) g else p.ivs.foldl (Group.landIv s.ticket) g
        let g := g.landTag p
        let g := { g with flags := lput 0 g.flags p.flag (g.flag p.flag - 1),
                          pend := g.pend.map fun x => if x.id == id then { x with done := true } else x }
        (((s.setGroup r g).spoil p).wake r).retireIfDrained r

/-- Change one outstanding operation of a group. -/
def State.modPend (s : State) (r : GRef) (id : Nat) (f : Pend → Pend) : State :=
  s.modGroup r fun g => { g with pend := g.pend.map fun p => if p.id == id then f p else p }

/-- The waits that count toward R285 until they complete: BWAIT, BTRY and TOKWT. -/
def Pend.isBar (p : Pend) : Bool :=
  !p.done && (match p.born with
    | .bwait _ _ _ => true
    | .bsent _ _ _ => true
    | .btry _ _ _ _ => true
    | .tokwt _ _ => true
    | _ => false)

/-- All the waits of R285. -/
def Pend.isWait (p : Pend) : Bool :=
  p.isBar || (!p.done && (match p.born with
    | .cpwt _ _ _ => true
    | .phase _ => true
    | _ => false))

end Sys2Proof.Machine
end

