-- ==== Sys2Proof/Machine/Issue.lean ====
section
/-! DEFINITION. Issuing an instruction: the issuing set, the order of checks of R129, suppression, the latches, and
what becomes of the issuing set's PCs (R19, R29, R123, R124, R129, R132, R136, R138, R141, R320, R328). -/

namespace Sys2Proof.Machine

open Sys2Proof

/-- What an instruction's meaning sees: the issuing group's place, the group as it issues, the issuing set, the base
word's address, LEN, whether the group is a system group, and the ticket of the free values. -/
structure Ctx where
  r   : GRef
  g   : Group
  set : List Nat
  pc  : DWord
  len : BitVec 2
  sys : Bool
  tk  : Nat
deriving DecidableEq, Repr

/-- What an instruction's own part ends in, once the shared checks have passed. -/
inductive Res where
  /-- its effect is made; the issuing set goes on to the next word. -/
  | next (s : State)
  /-- its effect is made, and it has set the PCs itself. -/
  | went (s : State)
  /-- it does not issue: the turn stays empty. -/
  | stall (s : State)
  /-- it raises a trap: cause, SUB, threads, ADDR, INFO. -/
  | trap (cause sub : Nat) (mask : LaneMask) (addr info : DWord)

/-- The bytes of the words of a LEN (R115). -/
def lenSize (len : BitVec 2) : Nat := if len = 0 then 4 else if len = 3 then 20 else 12

/-- The address after the instruction's words. -/
def Ctx.after (c : Ctx) : DWord := c.pc + BitVec.ofNat 64 (lenSize c.len)

/-- The slot that owns the current barrel turn of a quarter: the system group's turn, or a member of the active set
(R132, R136). -/
def Quarter.owner (q : Quarter) (turn : Nat) : Option Nat :=
  if q.sysTurn == some turn then some 63 else q.active.getD turn none

/-- The place whose turn it is. -/
def State.turnRef (s : State) : Option GRef :=
  ((s.quarter s.turn.core s.turn.qtr).owner (s.cycle % 8)).map fun sl => ⟨s.turn.core, s.turn.qtr, sl⟩

/-- The issue that the current turn makes, when its group is ready. -/
def State.ctx (s : State) : Option Ctx :=
  match s.turnRef with
  | none => none
  | some r => match s.group? r with
    | none => none
    | some g =>
      if !g.canIssue || (s.core r.core).halted then none
      else match g.issuingSet with
        | [] => none
        | l :: ls => some { r := r, g := g, set := l :: ls, pc := (g.thread l).pc, len := s.ilen, sys := r.slot == 63,
                            tk := s.ticket }

/-- The leader's thread. -/
def Ctx.lead (c : Ctx) : Thread := c.g.thread (c.set.headD 0)

/-- A guard's value in a thread: U stays U (R20, R320). -/
def Ctx.guard (c : Ctx) (gd : Guard) (lane : Nat) : Tri :=
  match c.g.pred c.tk lane gd.pred.val with
  | .u => .u
  | .t => if gd.neg then .f else .t
  | .f => if gd.neg then .t else .f

/-- The threads of the issuing set whose guard is T. -/
def Ctx.on (c : Ctx) (gd : Guard) : List Nat := c.set.filter fun l => c.guard gd l == .t
/-- The threads whose guard is U: none outside a Loupe grid. -/
def Ctx.maybe (c : Ctx) (gd : Guard) : List Nat := c.set.filter fun l => c.guard gd l == .u
/-- The threads whose guard is T or U. -/
def Ctx.notOff (c : Ctx) (gd : Guard) : List Nat := c.set.filter fun l => c.guard gd l != .f

/-- Does any thread of the issuing set run in interval mode (R313, R322)? -/
def Ctx.interval (c : Ctx) : Bool := c.g.lpass && c.set.any fun l => !(c.g.thread l).point

/-- May the leader's instruction be the last of its clause (R124)? After a THAW from an image the clause's length is not
known, and it may (assumption 12). -/
def Ctx.atEnd (c : Ctx) : Bool := c.lead.left == some 1 || c.lead.left.isNone

/-- How an instruction uses its fields and which of the shared rules hold for it. -/
structure Rules where
  /-- a control transfer: last in its clause (R124). -/
  ctl  : Bool
  /-- privileged (R356). -/
  priv : Bool
  /-- long-latency: it selects a flag (R123). -/
  long : Bool
  d : Option Field
  a : Option Field
  b : Option Field
  c : Option Field
  /-- the width at which A is read, for the hold (R19, R222). -/
  aw   : Nat
  /-- the guard never suppresses it (SEL, BRU). -/
  always : Bool
  /-- in interval mode it makes the tiles of its threads undecided (R328). -/
  und  : Bool

/-- A destination field. -/
def dstF (ok : Opnd → Bool) : Option Field := some ⟨true, ok⟩
/-- A source field. -/
def srcF (ok : Opnd → Bool) : Option Field := some ⟨false, ok⟩

/-- The rules of a short-latency instruction that is no transfer and not privileged. -/
def Rules.plain (d a b c : Option Field) (aw : Nat) : Rules :=
  { ctl := false, priv := false, long := false, d := d, a := a, b := b, c := c, aw := aw, always := false, und := false }

/-- The illegal-operand trap's SUB: fields in the order D, A, B, C (R129, check 3). -/
def Rules.operandFault (ru : Rules) (g : Group) (f : Form) : Option Nat :=
  let lit := f.lit.isSome
  firstSome (fun (x : Nat × Option Field × Opnd) => fieldFault g lit x.1 x.2.1 x.2.2)
    [(0, ru.d, f.d), (1, ru.a, f.a), (2, ru.b, f.b), (3, ru.c, f.c)]

/-- Move some threads that are still live to the next word. -/
def Ctx.advanceLanes (c : Ctx) (lanes : List Nat) (g : Group) : Group :=
  g.modThreads (lanes.filter fun l => (g.thread l).live) fun _ t => t.past (BitVec.ofNat 64 (lenSize c.len))

/-- Move the threads of the issuing set that are still live to the next word. -/
def Ctx.advance (c : Ctx) (g : Group) : Group := c.advanceLanes c.set g

/-- A latch after one more instruction of the group (R138). -/
def Latch.older (l : Latch) : Latch :=
  match l.age with
  | none => l
  | some a => if a + 1 < 2 then { l with age := some (a + 1) } else { l with age := none }

/-- The latches after an instruction: all grow older, and the one that its hold names captures A (R19, R138). -/
def Ctx.latched (c : Ctx) (hold : BitVec 2) (a : Opnd) (lit : Option DWord) (aw : Nat) (g : Group) : Group :=
  let g := { g with latches := g.latches.map Latch.older }
  if hold = 0 then g
  else
    let vals := c.set.map fun l => (l, c.g.readIv c.tk lit aw l a)
    let iv := c.g.lpass && (match a with | .v _ => true | .l _ => true | _ => false)
    let new : Latch := {
      age := some 0, wide := aw == 64, lanes := maskOf c.set,
      vals := vals.map fun x => (x.1, BitVec.ofNat 64 x.2.lo),
      his := if iv then vals.map fun x => (x.1, BitVec.ofNat 64 x.2.hi) else [],
      hids := if iv then vals.map fun x => (x.1, ⟨BitVec.ofNat 2 (if x.2.kind < 4 then x.2.kind else 3), x.2.np,
        x.2.wide && x.2.kind < 4⟩) else [] }
    { g with latches := lput Latch.empty g.latches (hold.toNat - 1) new }

/-- What the state becomes when the instruction's own part has ended: advance and latches, the turn kept empty, or a
trap with no change but the record (R129). A trap of TRAP resumes at the next word; the others at the instruction. -/
def Ctx.settle (c : Ctx) (s : State) (latch : Group → Group) : Res → State
  | .next s' => s'.modGroup c.r fun g => c.advance (latch g)
  | .went s' => s'.modGroup c.r latch
  | .stall s' => s'
  | .trap cause sub mask addr info => s.trapGroup c.r c.g cause sub c.len c.pc c.pc mask addr info

/-- The mask of the issuing set. -/
def Ctx.mask (c : Ctx) : LaneMask := maskOf c.set

/-- A trap of the whole issuing set. -/
def Ctx.trapAll (c : Ctx) (cause sub : Nat) : Res := .trap cause sub c.mask 0 0

/-- The shared course of an instruction with the layout of R116: checks 1 to 4 of R129, suppression, and then its own
part `body`. -/
def Rules.run (ru : Rules) (f : Form) (c : Ctx) (body : Ctx → State → Res) (s : State) : Res :=
  if ru.ctl && !c.atEnd then c.trapAll 0x01 0
  else if ru.priv && !c.sys then c.trapAll 0x03 0
  else match ru.operandFault c.g f with
    | some sub => c.trapAll 0x02 sub
    | none =>
      if !ru.always && (c.notOff f.guard).isEmpty then .next s
      else if ru.long && selectFlag c.lead f.fs = 15 then c.trapAll 0x01 0
      else if ru.long && c.g.flag (selectFlag c.lead f.fs) ≥ 63 then .stall s
      else if ru.und && c.interval then .next (s.undecide c.r (c.notOff f.guard))
      else body c s

/-- Issue an instruction with the layout of R116. Without an issuing group there is nothing to do: no step reaches
that. -/
def State.issueForm (s : State) (ru : Rules) (f : Form) (body : Ctx → State → Res) :
    Host.Outcome State Fault Refusal :=
  match s.ctx with
  | none => .fault .noIssuingGroup
  | some c => .next (c.settle s (c.latched f.hold f.a f.lit ru.aw) (ru.run f c body s))

/-- Issue an instruction without that layout (R125): control transfers and NOP; `hold` and `a` for JMP. -/
def State.issueCtl (s : State) (ctl : Bool) (hold : BitVec 2) (a : Opnd) (body : Ctx → State → Res) :
    Host.Outcome State Fault Refusal :=
  match s.ctx with
  | none => .fault .noIssuingGroup
  | some c => .next (c.settle s (c.latched hold a none 64)
      (if ctl && !c.atEnd then c.trapAll 0x01 0 else body c s))

/-- The first failure of R430: each failing thread with its cause and SUB, address and INFO, in ascending lane
order; the record is the lowest thread's, and it names the threads with the same cause and SUB. -/
def firstFailure (fs : List (Nat × Nat × Nat × DWord × DWord)) : Option Res :=
  match fs with
  | [] => none
  | (_, cause, sub, addr, info) :: _ =>
    some (.trap cause sub (maskOf ((fs.filter fun x => x.2.1 == cause && x.2.2.1 == sub).map (·.1))) addr info)

/-- Put a changed group back, and make tiles undecided. -/
def Ctx.done (c : Ctx) (s : State) (x : Group × List Nat) : Res := .next ((s.setGroup c.r x.1).undecide c.r x.2)

/-- A lane instruction over its participating set (R156): with a guard of U anywhere in the issuing set the tiles of the
threads at T or U become undecided (R320). -/
def Ctx.lanes (c : Ctx) (gd : Guard) (s : State) (k : List Nat → Res) : Res :=
  if (c.maybe gd).isEmpty then k (c.on gd) else c.done s (c.g, c.notOff gd)

/-- Add a long-latency operation of an instruction: its flag counts it (R123). -/
def Ctx.start (c : Ctx) (f : Form) (s : State) (kind : PendKind) (dests : List Reg) (vals : List DWord) : State :=
  s.modGroup c.r fun g => g.addPend
    { Pend.new (selectFlag c.lead f.fs) c.pc c.len (maskOf (c.on f.guard)) kind dests vals with issued := c.tk }

/-- The predicate D in each thread whose guard holds. -/
def Ctx.predDests (c : Ctx) (f : Form) (n : Nat) : List Reg := (c.on f.guard).map fun l => Reg.pred l n

/-- A trap of the threads whose guard holds. -/
def Ctx.trapOn (c : Ctx) (f : Form) (cause sub : Nat) (addr info : Nat) : Res :=
  .trap cause sub (maskOf (c.on f.guard)) (BitVec.ofNat 64 addr) (BitVec.ofNat 64 info)

/-- Would one more wait exceed R285's limits: four of BWAIT, BTRY and TOKWT (`bar`), eight of all? -/
def Ctx.waitsFull (c : Ctx) (bar : Bool) : Bool :=
  (bar && (c.g.pend.filter Pend.isBar).length ≥ 4) || (c.g.pend.filter Pend.isWait).length ≥ 8

/-- The rules of an instruction that executes once for the issuing set and that makes interval tiles undecided
(R328). -/
def Rules.once (long : Bool) (d a b c : Option Field) (aw : Nat) : Rules :=
  { Rules.plain d a b c aw with long := long, und := true }

/-! ### Register results (R163, R320, R321) -/

/-- A result of one thread: a value, a truth value, or an undecided tile. -/
inductive LRes where
  | val (i : Iv)
  | tri (t : Tri)
  | und
deriving DecidableEq, Repr

/-- An operation from source values to a result: on points, and on intervals in a Loupe grid. `kind` is the KIND of
the points it writes (R317). -/
structure Alu where
  dw   : Nat
  kind : List Iv → Nat
  pt   : List Nat → Nat
  iv   : List Iv → LRes

/-- An operation whose result is a predicate. -/
structure AluP where
  pt : List Nat → Bool
  iv : List Iv → LRes

/-- The result of one thread: points go the ordinary way (R321, rule 1). -/
def Alu.at (x : Alu) (vs : List Iv) : LRes :=
  if vs.all Iv.isPoint then .val (Iv.pt (x.kind vs) (x.pt (vs.map (·.lo)) % 2 ^ x.dw)) else x.iv vs

/-- The result of one thread of a predicate operation. -/
def AluP.at (x : AluP) (vs : List Iv) : LRes :=
  if vs.all Iv.isPoint then .tri (if x.pt (vs.map (·.lo)) then .t else .f) else x.iv vs

/-- Source values of a lane: operands with their widths. -/
def Ctx.sources (c : Ctx) (lit : Option DWord) (srcs : List (Opnd × Nat)) (lane : Nat) : List Iv :=
  srcs.map fun x => c.g.readIv c.tk lit x.2 lane x.1

/-- Write one thread's result into a vector register or pair. -/
def Ctx.putLane (c : Ctx) (gd : Guard) (n w : Nat) (st : Group × List Nat) (x : Nat × LRes) : Group × List Nat :=
  match x.2 with
  | .val i => (st.1.writeTri c.tk (c.guard gd x.1) x.1 n w i, st.2)
  | .tri v => (st.1.writePredTri c.tk (c.guard gd x.1) x.1 n v, st.2)
  | .und => (st.1, st.2 ++ [x.1])

/-- Per-thread results into the destination field, for the threads whose guard is not F. -/
def Ctx.putLanes (c : Ctx) (gd : Guard) (n w : Nat) (xs : List (Nat × LRes)) : Group × List Nat :=
  xs.foldl (c.putLane gd n w) (c.g, [])

/-- A result made once into a scalar register (R163), zero-extended from its width. In a Loupe grid, with no thread at
T nothing is written and the threads at U become undecided (R320). -/
def Ctx.putScalar (c : Ctx) (gd : Guard) (n : Nat) (v : Nat) : Group × List Nat :=
  if (c.on gd).isEmpty then (c.g, c.maybe gd) else (c.g.setScalar c.tk n (BitVec.ofNat 64 v), [])

/-- Run an operation on its sources into D (R163). -/
def Ctx.alu (c : Ctx) (f : Form) (srcs : List (Opnd × Nat)) (x : Alu) : Group × List Nat :=
  if isS f.d then
    c.putScalar f.guard f.d.num (x.pt ((c.sources f.lit srcs 0).map (·.lo)) % 2 ^ x.dw)
  else c.putLanes f.guard f.d.num x.dw ((c.notOff f.guard).map fun l => (l, x.at (c.sources f.lit srcs l)))

/-- Run an operation on its sources into the predicate D (R120, R163). -/
def Ctx.aluP (c : Ctx) (f : Form) (srcs : List (Opnd × Nat)) (x : AluP) : Group × List Nat :=
  c.putLanes f.guard f.d.num 32 ((c.notOff f.guard).map fun l => (l, x.at (c.sources f.lit srcs l)))

end Sys2Proof.Machine
end

