-- ==== Sys2Proof/Machine/Integer.lean ====
section
/-! DEFINITION. The integer and address instructions, on points and on the intervals of a Loupe pass (R162 to R176,
R323). -/

namespace Sys2Proof

/-- UNS, MOD[3] (R121). -/
def Form.uns (f : Form) : Bool := f.mod.getLsbD 3
/-- SAT, MOD[2]. -/
def Form.sat (f : Form) : Bool := f.mod.getLsbD 2
/-- The width W (R9, R162): MOD[5:4], or 64 with a scalar destination and 32 otherwise. -/
def Form.width (f : Form) : Nat :=
  match f.mod.toNat / 16 with
  | 1 => 32
  | 2 => 64
  | _ => match f.d with
    | .s _ => 64
    | _ => 32

end Sys2Proof

namespace Sys2Proof.Machine

open Sys2Proof

/-! ### Values (R167 to R175) -/

/-- In(x) of R167. -/
def inOf (uns : Bool) (w x : Nat) : Int := if uns then ((x % 2 ^ w : Nat) : Int) else sgn w x

/-- The ends of a type's range. -/
def typeMin (uns : Bool) (w : Nat) : Int := if uns then 0 else - ((2 ^ (w - 1) : Nat) : Int)
/-- The upper end. -/
def typeMax (uns : Bool) (w : Nat) : Int := if uns then ((2 ^ w : Nat) : Int) - 1 else ((2 ^ (w - 1) : Nat) : Int) - 1

/-- Lim(v) of R167. -/
def limTo (uns sat : Bool) (w : Nat) (v : Int) : Nat :=
  if sat then pat w (clamp v (typeMin uns w) (typeMax uns w)) else pat w v

/-- DIV (R169). -/
def divOf (uns sat : Bool) (w a b : Nat) : Nat :=
  if b % 2 ^ w = 0 then 2 ^ w - 1
  else limTo false (sat && !uns) w (Int.tdiv (inOf uns w a) (inOf uns w b))

/-- REM (R169). -/
def remOf (uns : Bool) (w a b : Nat) : Nat :=
  if b % 2 ^ w = 0 then a % 2 ^ w else pat w (Int.tmod (inOf uns w a) (inOf uns w b))

/-- The number of one bits below bit w. -/
def popcount : Nat → Nat → Nat
  | 0, _ => 0
  | w + 1, x => x % 2 + popcount w (x / 2)

/-- The w low bits in reverse order (R170). -/
def bitrev : Nat → Nat → Nat
  | 0, _ => 0
  | w + 1, x => x % 2 * 2 ^ w + bitrev w (x / 2)

/-- SAR (R171). -/
def sarOf (w x n : Nat) : Nat := pat w (sgn w x / (2 ^ min n (w - 1) : Nat))

/-- ROT (R171). -/
def rotOf (w x n : Nat) : Nat :=
  let k := n % w
  (x * 2 ^ k + x % 2 ^ w / 2 ^ (w - k)) % 2 ^ w

/-- The place and length of a bit field (R172). -/
def fieldOf (w p l : Nat) : Nat × Nat :=
  let p := min p w
  (p, min l (w - p))

/-- BFX (R172). -/
def bfxOf (uns : Bool) (w a p l : Nat) : Nat :=
  let x := fieldOf w p l
  if x.2 = 0 then 0
  else
    let f := a / 2 ^ x.1 % 2 ^ x.2
    if uns then f else pat w (sgn x.2 f)

/-- BFI (R172). -/
def bfiOf (w d a p l : Nat) : Nat :=
  let x := fieldOf w p l
  d % 2 ^ x.1 + a % 2 ^ x.2 * 2 ^ x.1 + d / 2 ^ (x.1 + x.2) * 2 ^ (x.1 + x.2)

/-- A COND on a comparison (R121): eq, ne, lt, le, gt, ge. -/
def condOf (c : Nat) (a b : Int) : Bool :=
  match c with
  | 0 => a == b
  | 1 => a != b
  | 2 => a < b
  | 3 => a ≤ b
  | 4 => a > b
  | _ => a ≥ b

/-- Bx of LEA at width w (R175): a vector or lane operand is a 32-bit word that is extended. -/
def leaIndex (uns : Bool) (o : Opnd) (w x : Nat) : Int :=
  match o with
  | .v _ => inOf uns 32 x
  | .lane => inOf uns 32 x
  | _ => inOf uns w x

/-- The width at which LEA reads B. -/
def leaWidth (o : Opnd) (w : Nat) : Nat :=
  match o with
  | .v _ => 32
  | .lane => 32
  | _ => w

/-! ### Intervals (R323) -/

/-- KIND of a type. -/
def kindOf (uns : Bool) : Nat := if uns then 1 else 0

/-- The ends of a value read as S or U. -/
def Iv.ends (uns : Bool) (w : Nat) (i : Iv) : Int × Int :=
  let j := i.as (kindOf uns) w
  (inOf uns w j.lo, inOf uns w j.hi)

/-- An interval of S or U from its ends. -/
def ivOf (uns : Bool) (w : Nat) (lo hi : Int) : LRes := .val ⟨pat w lo, pat w hi, kindOf uns, false, w == 64⟩

/-- Full of S or U. -/
def ivFull (uns : Bool) (w : Nat) : LRes := .val (Iv.full (kindOf uns) w)

/-- Fit of R323. -/
def ivFit (uns sat : Bool) (w : Nat) (lo hi : Int) : LRes :=
  let mn := typeMin uns w
  let mx := typeMax uns w
  if mn ≤ lo ∧ lo ≤ mx ∧ mn ≤ hi ∧ hi ≤ mx then ivOf uns w lo hi
  else if sat then ivOf uns w (clamp lo mn mx) (clamp hi mn mx)
  else ivFull uns w

/-- The least and the greatest of some integers. -/
def hullOf (xs : List Int) : Int × Int :=
  match xs with
  | [] => (0, 0)
  | x :: r => (r.foldl min x, r.foldl max x)

/-- Corners of R323. -/
def corners (op : Int → Int → Int) (a b : Int × Int) : Int × Int :=
  hullOf [op a.1 b.1, op a.1 b.2, op a.2 b.1, op a.2 b.2]

/-- Is the type of AND, OR, XOR, NOT and SHL unsigned: is every operand with a KIND of KIND U (R323)? -/
def allU (vs : List Iv) : Bool :=
  let ks := vs.filter fun i => i.kind != noKind
  !ks.isEmpty && ks.all fun i => i.kind == 1

/-- The n-th operand. -/
def nth (vs : List Iv) (n : Nat) : Iv := vs.getD n (Iv.pt noKind 0)

/-- The n-th point. -/
def at_ (vs : List Nat) (n : Nat) : Nat := vs.getD n 0

/-- CMP over intervals (R323): over every pair, over none, or else. -/
def ivCmp (c : Nat) (a b : Int × Int) : Tri :=
  let always := match c with
    | 0 => a.1 == a.2 && b.1 == b.2 && a.1 == b.1
    | 1 => a.2 < b.1 || b.2 < a.1
    | 2 => a.2 < b.1
    | 3 => a.2 ≤ b.1
    | 4 => a.1 > b.2
    | _ => a.1 ≥ b.2
  let never := match c with
    | 0 => a.2 < b.1 || b.2 < a.1
    | 1 => a.1 == a.2 && b.1 == b.2 && a.1 == b.1
    | 2 => a.1 ≥ b.2
    | 3 => a.1 > b.2
    | 4 => a.2 ≤ b.1
    | _ => a.2 < b.1
  if always then .t else if never then .f else .u

/-! ### Operations -/

/-- ADD and SUB. -/
def aluAdd (f : Form) (neg : Bool) : Alu :=
  let w := f.width
  { dw := w, kind := fun _ => kindOf f.uns,
    pt := fun v => limTo f.uns f.sat w
      (if neg then inOf f.uns w (at_ v 0) - inOf f.uns w (at_ v 1) else inOf f.uns w (at_ v 0) + inOf f.uns w (at_ v 1)),
    iv := fun v =>
      let a := (nth v 0).ends f.uns w
      let b := (nth v 1).ends f.uns w
      if neg then ivFit f.uns f.sat w (a.1 - b.2) (a.2 - b.1) else ivFit f.uns f.sat w (a.1 + b.1) (a.2 + b.2) }

/-- The ends of a result, as an operand of the type. -/
def LRes.ends (uns : Bool) (w : Nat) : LRes → Int × Int
  | .val i => i.ends uns w
  | _ => (0, 0)

/-- MUL; with three operands MAD, whose product is fitted before c is added as ADD adds (R323). -/
def aluMul (f : Form) : Alu :=
  let w := f.width
  { dw := w, kind := fun _ => kindOf f.uns,
    pt := fun v => limTo f.uns f.sat w
      (inOf f.uns w (at_ v 0) * inOf f.uns w (at_ v 1) + inOf f.uns w (at_ v 2)),
    iv := fun v =>
      let p := corners (· * ·) ((nth v 0).ends f.uns w) ((nth v 1).ends f.uns w)
      let m := (ivFit f.uns f.sat w p.1 p.2).ends f.uns w
      let c := (nth v 2).ends f.uns w
      ivFit f.uns f.sat w (m.1 + c.1) (m.2 + c.2) }

/-- MULH. -/
def aluMulh (f : Form) : Alu :=
  let w := f.width
  let hi (x y : Int) : Int := x * y / (2 ^ w : Nat)
  { dw := w, kind := fun _ => kindOf f.uns,
    pt := fun v => pat w (hi (inOf f.uns w (at_ v 0)) (inOf f.uns w (at_ v 1))),
    iv := fun v =>
      let p := corners hi ((nth v 0).ends f.uns w) ((nth v 1).ends f.uns w)
      ivOf f.uns w p.1 p.2 }

/-- DIV. -/
def aluDiv (f : Form) : Alu :=
  let w := f.width
  { dw := w, kind := fun _ => kindOf f.uns,
    pt := fun v => divOf f.uns f.sat w (at_ v 0) (at_ v 1),
    iv := fun v =>
      let b := (nth v 1).ends f.uns w
      if b.1 ≤ 0 ∧ 0 ≤ b.2 then ivFull f.uns w
      else
        let p := corners Int.tdiv ((nth v 0).ends f.uns w) b
        ivFit f.uns f.sat w p.1 p.2 }

/-- REM. -/
def aluRem (f : Form) : Alu :=
  let w := f.width
  { dw := w, kind := fun _ => kindOf f.uns,
    pt := fun v => remOf f.uns w (at_ v 0) (at_ v 1),
    iv := fun v =>
      let a := (nth v 0).ends f.uns w
      let b := (nth v 1).ends f.uns w
      if b.1 ≤ 0 ∧ 0 ≤ b.2 then ivFull f.uns w
      else
        let m : Int := max b.1.natAbs b.2.natAbs
        if a.1 ≥ 0 then ivOf f.uns w 0 (min a.2 (m - 1))
        else if a.2 ≤ 0 then ivOf f.uns w (max a.1 (1 - m)) 0
        else ivOf f.uns w (max a.1 (1 - m)) (min a.2 (m - 1)) }

/-- NEG. -/
def aluNeg (f : Form) : Alu :=
  let w := f.width
  { dw := w, kind := fun _ => 0,
    pt := fun v => limTo false f.sat w (- sgn w (at_ v 0)),
    iv := fun v =>
      let a := (nth v 0).ends false w
      ivFit false f.sat w (- a.2) (- a.1) }

/-- ABS. -/
def aluAbs (f : Form) : Alu :=
  let w := f.width
  { dw := w, kind := fun _ => 0,
    pt := fun v => limTo false f.sat w (sgn w (at_ v 0)).natAbs,
    iv := fun v =>
      let a := (nth v 0).ends false w
      if a.1 ≥ 0 then ivOf false w a.1 a.2
      else if a.2 ≤ 0 then ivFit false f.sat w (- a.2) (- a.1)
      else ivFit false f.sat w 0 (max (- a.1) a.2) }

/-- MIN and MAX. -/
def aluMin (f : Form) (larger : Bool) : Alu :=
  let w := f.width
  let pick (x y : Int) : Int := if larger then max x y else min x y
  { dw := w, kind := fun _ => kindOf f.uns,
    pt := fun v => pat w (pick (inOf f.uns w (at_ v 0)) (inOf f.uns w (at_ v 1))),
    iv := fun v =>
      let a := (nth v 0).ends f.uns w
      let b := (nth v 1).ends f.uns w
      ivOf f.uns w (pick a.1 b.1) (pick a.2 b.2) }

/-- AND, OR and XOR. -/
def aluBits (f : Form) (op : Nat → Nat → Nat) (iv : Int × Int → Int × Int → Int → Int × Int) : Alu :=
  let w := f.width
  { dw := w, kind := fun v => kindOf (allU v),
    pt := fun v => op (at_ v 0) (at_ v 1),
    iv := fun v =>
      let u := allU v
      let a := (nth v 0).ends u w
      let b := (nth v 1).ends u w
      if a.1 < 0 ∨ b.1 < 0 then ivFull u w
      else
        let r := iv a b (2 ^ bitLen (max a.2 b.2).toNat - 1 : Nat)
        ivOf u w r.1 r.2 }

/-- NOT. -/
def aluNot (f : Form) : Alu :=
  let w := f.width
  { dw := w, kind := fun v => kindOf (allU v),
    pt := fun v => 2 ^ w - 1 - at_ v 0 % 2 ^ w,
    iv := fun v =>
      let i := (nth v 0).as (kindOf (allU v)) w
      .val ⟨2 ^ w - 1 - i.hi % 2 ^ w, 2 ^ w - 1 - i.lo % 2 ^ w, kindOf (allU v), false, w == 64⟩ }

/-- SHL. -/
def aluShl (f : Form) : Alu :=
  let w := f.width
  { dw := w, kind := fun v => kindOf (allU (v.take 1)),
    pt := fun v => if at_ v 1 ≥ w then 0 else at_ v 0 * 2 ^ at_ v 1,
    iv := fun v =>
      let u := allU (v.take 1)
      let a := (nth v 0).ends u w
      let c := (nth v 1).ends true 32
      let p := (2 ^ min c.1.toNat w : Nat)
      let q := (2 ^ min c.2.toNat (w - 1) : Nat)
      let h := hullOf [a.1 * p, a.1 * q, a.2 * p, a.2 * q]
      if h.1 < typeMin u w ∨ h.2 > typeMax u w then ivFull u w
      else if c.2 ≥ w then ivOf u w (min h.1 0) (max h.2 0)
      else ivOf u w h.1 h.2 }

/-- SHR. -/
def aluShr (f : Form) : Alu :=
  let w := f.width
  let sh (x n : Nat) : Nat := if n ≥ w then 0 else x % 2 ^ w / 2 ^ n
  { dw := w, kind := fun _ => 1,
    pt := fun v => sh (at_ v 0) (at_ v 1),
    iv := fun v =>
      let a := (nth v 0).ends true w
      let c := (nth v 1).ends true 32
      ivOf true w (sh a.1.toNat c.2.toNat) (sh a.2.toNat c.1.toNat) }

/-- SAR. -/
def aluSar (f : Form) : Alu :=
  let w := f.width
  { dw := w, kind := fun _ => 0,
    pt := fun v => sarOf w (at_ v 0) (at_ v 1),
    iv := fun v =>
      let p := corners (fun x c => x / (2 ^ min c.toNat (w - 1) : Nat)) ((nth v 0).ends false w) ((nth v 1).ends true 32)
      ivOf false w p.1 p.2 }

/-- An instruction that gives Full on a non-point: ROT, BREV, BFX, BFI. -/
def aluFull (f : Form) (uns : Bool) (pt : List Nat → Nat) : Alu :=
  { dw := f.width, kind := fun _ => kindOf uns, pt := pt, iv := fun _ => ivFull uns f.width }

/-- POPC. -/
def aluPopc (f : Form) : Alu :=
  let w := f.width
  { dw := w, kind := fun _ => 1, pt := fun v => popcount w (at_ v 0),
    iv := fun v => ivOf true w 0 (bitLen ((nth v 0).ends true w).2.toNat) }

/-- CLZ. -/
def aluClz (f : Form) : Alu :=
  let w := f.width
  { dw := w, kind := fun _ => 1, pt := fun v => w - bitLen (at_ v 0 % 2 ^ w),
    iv := fun v =>
      let a := (nth v 0).ends true w
      ivOf true w (w - bitLen a.2.toNat : Nat) (w - bitLen a.1.toNat : Nat) }

/-- MOV: points take KIND S, intervals are copied as held (R318). -/
def aluMov (f : Form) : Alu :=
  { dw := f.width, kind := fun _ => 0, pt := fun v => at_ v 0, iv := fun v => .val (nth v 0) }

/-- LEA (R175, R323). -/
def aluLea (f : Form) : Alu :=
  let w := f.width
  let k := (2 ^ (f.imm.toNat % 8) : Nat)
  { dw := w, kind := fun _ => kindOf f.uns,
    pt := fun v => pat w (inOf f.uns w (at_ v 0) + leaIndex f.uns f.b w (at_ v 1) * k),
    iv := fun v =>
      let a := (nth v 0).ends f.uns w
      let b := (nth v 1).ends f.uns (leaWidth f.b w)
      ivFit f.uns false w (a.1 + b.1 * k) (a.2 + b.2 * k) }

/-- CMP (R173). -/
def aluCmp (f : Form) : AluP :=
  let w := f.width
  let c := f.mod.toNat % 8
  { pt := fun v => condOf c (inOf f.uns w (at_ v 0)) (inOf f.uns w (at_ v 1)),
    iv := fun v => .tri (ivCmp c ((nth v 0).ends f.uns w) ((nth v 1).ends f.uns w)) }

/-! ### Issue -/

/-- A source field of the integer family: with a scalar destination it must be group-uniform (R163). -/
def intSrc (f : Form) (w : Nat) (o : Opnd) : Bool := if isS f.d then isUni o else isSrc w o

/-- The rules of an integer instruction; `n` counts its sources, `cw` and `bw` are the widths of C and B. -/
def intRules (f : Form) (n bw cw : Nat) : Rules :=
  Rules.plain (dstF (isDst f.width)) (srcF (intSrc f f.width)) (if n > 1 then srcF (intSrc f bw) else none)
    (if n > 2 then srcF (intSrc f cw) else none) f.width

/-- Issue an integer instruction over its sources with their widths. -/
def State.issueInt (s : State) (f : Form) (ru : Rules) (srcs : List (Opnd × Nat)) (x : Alu) :
    Host.Outcome State Fault Refusal :=
  s.issueForm ru f fun c s => c.done s (c.alu f srcs x)

/-- Two sources at width W. -/
def State.int2 (s : State) (f : Form) (x : Alu) : Host.Outcome State Fault Refusal :=
  s.issueInt f (intRules f 2 f.width f.width) [(f.a, f.width), (f.b, f.width)] x

/-- One source. -/
def State.int1 (s : State) (f : Form) (x : Alu) : Host.Outcome State Fault Refusal :=
  s.issueInt f (intRules f 1 f.width f.width) [(f.a, f.width)] x

/-- A source and a count, read from bits [31:0] of B (R171); a vector B is a pair at W = 64 like any source: LEA's B
is the one exception (R162). -/
def State.intShift (s : State) (f : Form) (x : Alu) : Host.Outcome State Fault Refusal :=
  s.issueInt f (intRules f 2 f.width f.width) [(f.a, f.width), (f.b, 32)] x

/-- MAD: the addend is C, or D in the base form (R166). -/
def State.issueMad (s : State) (f : Form) : Host.Outcome State Fault Refusal :=
  if f.ext then
    s.issueInt f (intRules f 3 f.width f.width) [(f.a, f.width), (f.b, f.width), (f.c, f.width)] (aluMul f)
  else s.issueInt f (intRules f 2 f.width f.width) [(f.a, f.width), (f.b, f.width), (f.d, f.width)] (aluMul f)

/-- CMP: D is a predicate (R120). -/
def State.issueCmp (s : State) (f : Form) : Host.Outcome State Fault Refusal :=
  s.issueForm (Rules.plain (dstF isP) (srcF (isSrc f.width)) (srcF (isSrc f.width)) none f.width) f fun c s =>
    c.done s (c.aluP f [(f.a, f.width), (f.b, f.width)] (aluCmp f))

/-- The value of SEL in a lane by its guard: A, B, or in a Loupe pass the hull of both in A's KIND (R174, R323). -/
def selValue (w : Nat) (gd : Tri) (a b : Iv) : Iv :=
  let pick := match gd with
    | .t => a
    | .f => b
    | .u => Iv.hull w (a.as a.kind w) (b.as (a.as a.kind w).kind w)
  if pick.isPoint then Iv.pt 0 pick.lo else pick

/-- SEL (R174): every thread of the issuing set writes; a scalar takes the lowest thread's guard. -/
def State.issueSel (s : State) (f : Form) : Host.Outcome State Fault Refusal :=
  let w := f.width
  let ru := { intRules f 2 w w with always := true }
  s.issueForm ru f fun c s =>
    let val (l : Nat) : Iv := selValue w (c.guard f.guard l) (c.g.readIv c.tk f.lit w l f.a) (c.g.readIv c.tk f.lit w l f.b)
    if isS f.d then
      let v := val (c.set.headD 0)
      if (c.on f.guard).isEmpty && !(c.maybe f.guard).isEmpty then c.done s (c.g, c.maybe f.guard)
      else if v.isPoint then .next (s.setGroup c.r (c.g.setScalar c.tk f.d.num (BitVec.ofNat 64 v.lo)))
      else c.done s (c.g, c.notOff f.guard)
    else .next (s.setGroup c.r (c.set.foldl (fun g l => g.writeIv c.tk l f.d.num w (val l)) c.g))

/-- The carry of a lane as 0, 1 or the interval between. -/
def triEnds : Tri → Int × Int
  | .f => (0, 0)
  | .t => (1, 1)
  | .u => (0, 1)

/-- ADDC in one lane (R168, R323): the sum and the carry out. -/
def addcOf (w : Nat) (cin : Tri) (a b : Iv) : Iv × Tri :=
  let m : Int := (2 ^ w : Nat)
  let x := a.ends true w
  let y := b.ends true w
  let c := triEnds cin
  let lo := x.1 + y.1 + c.1
  let hi := x.2 + y.2 + c.2
  let mk (l h : Int) : Iv := if l = h then Iv.pt 1 l.toNat else ⟨l.toNat, h.toNat, 1, false, w == 64⟩
  if hi < m then (mk lo hi, .f)
  else if lo ≥ m then (mk (lo - m) (hi - m), .t)
  else (Iv.full 1 w, .u)

/-- ADDC (R168). -/
def State.issueAddc (s : State) (f : Form) : Host.Outcome State Fault Refusal :=
  let w := f.width
  let ru := Rules.plain (dstF (isDst w)) (srcF (intSrc f w)) (srcF (intSrc f w)) (srcF isP) w
  let p := f.c.num
  s.issueForm ru f fun c s =>
    let val (l : Nat) : Iv × Tri :=
      addcOf w (c.g.pred c.tk l p) (c.g.readIv c.tk f.lit w l f.a) (c.g.readIv c.tk f.lit w l f.b)
    let put (g : Group) (x : Nat × Tri) : Group := g.writePredTri c.tk (c.guard f.guard x.1) x.1 p x.2
    if isS f.d then
      match c.on f.guard with
      | [] => c.done s (c.g, c.maybe f.guard)
      | l :: _ =>
        let v := val l
        if v.1.isPoint then
          .next (s.setGroup c.r (((c.notOff f.guard).map fun l => (l, v.2)).foldl put
            (c.g.setScalar c.tk f.d.num (BitVec.ofNat 64 v.1.lo))))
        else c.done s (c.g, c.notOff f.guard)
    else
      .next (s.setGroup c.r ((c.notOff f.guard).foldl
        (fun g l => put (g.writeTri c.tk (c.guard f.guard l) l f.d.num w (val l).1) (l, (val l).2)) c.g))

/-- The address of element (row, column) of a capability (R176). -/
def idxOf (k : Cap) (row col : Nat) : Nat := (k.base + row * 64 * k.pitch + col * 2 ^ k.esz) % 2 ^ 64

/-- The check of IDX (R176). -/
def idxCheck (k : Cap) (row col : Nat) : Nat := k.check 0 (row + 1) (2 ^ k.esz) (col * 2 ^ k.esz)

/-- IDX (R176, R323). -/
def State.issueIdx (s : State) (f : Form) : Host.Outcome State Fault Refusal :=
  let ru := Rules.plain (dstF (isDst 64)) (srcF isS2) (srcF (intSrc f 64)) (srcF (intSrc f 64)) 64
  let chk := f.imm.getLsbD 0
  s.issueForm ru f fun c s =>
    let n := f.a.num / 2
    let k := c.g.cap c.tk n
    let src (l : Nat) : Iv × Iv := (c.g.readIv c.tk f.lit 32 l f.b, c.g.readIv c.tk f.lit 32 l f.c)
    let ls := c.notOff f.guard
    let sharp (l : Nat) : Bool := c.guard f.guard l == .t && (src l).1.isPoint && (src l).2.isPoint
    let bad := (ls.filter sharp).filterMap fun l =>
      let e := idxCheck k (src l).1.lo (src l).2.lo
      if chk && e != 0 then some (l, 0x0b, e, (0 : DWord), BitVec.ofNat 64 n) else none
    match firstFailure bad with
    | some r => r
    | none =>
      if isS f.d then c.done s (c.putScalar f.guard f.d.num (idxOf k (src 0).1.lo (src 0).2.lo))
      else
        let val (l : Nat) : LRes :=
          let b := (src l).1.ends true 32
          let e := (src l).2.ends true 32
          let at_ (r q : Int) : Nat := k.base + r.toNat * 64 * k.pitch + q.toNat * 2 ^ k.esz
          if chk && !sharp l && idxCheck k b.2.toNat e.2.toNat != 0 then .und
          else if (src l).1.isPoint && (src l).2.isPoint then .val (Iv.pt 1 (idxOf k b.1.toNat e.1.toNat))
          else if at_ b.2 e.2 < 2 ^ 64 then .val ⟨at_ b.1 e.1, at_ b.2 e.2, 1, false, true⟩
          else .val (Iv.full 1 64)
        c.done s (c.putLanes f.guard f.d.num 64 (ls.map fun l => (l, val l)))

/-! ### Meanings -/

/-- ADD (R167). -/
def execAdd (f : Form) (s : State) : Host.Outcome State Fault Refusal := s.int2 f (aluAdd f false)
/-- ADD in its wider forms (R167). -/
def execAddExtended (f : Form) (s : State) : Host.Outcome State Fault Refusal := s.int2 f (aluAdd f false)
/-- SUB (R167). -/
def execSub (f : Form) (s : State) : Host.Outcome State Fault Refusal := s.int2 f (aluAdd f true)
/-- SUB in its wider forms (R167). -/
def execSubExtended (f : Form) (s : State) : Host.Outcome State Fault Refusal := s.int2 f (aluAdd f true)
/-- MUL (R167). -/
def execMul (f : Form) (s : State) : Host.Outcome State Fault Refusal := s.int2 f (aluMul f)
/-- MUL in its wider forms (R167). -/
def execMulExtended (f : Form) (s : State) : Host.Outcome State Fault Refusal := s.int2 f (aluMul f)
/-- MAD (R167). -/
def execMad (f : Form) (s : State) : Host.Outcome State Fault Refusal := s.issueMad f
/-- MAD in its wider forms (R167). -/
def execMadExtended (f : Form) (s : State) : Host.Outcome State Fault Refusal := s.issueMad f

/-- AND at width W (R170, R323). -/
def aluAnd (f : Form) : Alu := aluBits f (· &&& ·) fun a b _ => (0, min a.2 b.2)
/-- OR. -/
def aluOr (f : Form) : Alu := aluBits f (· ||| ·) fun a b t => (max a.1 b.1, t)
/-- XOR. -/
def aluXor (f : Form) : Alu := aluBits f (· ^^^ ·) fun _ _ t => (0, t)

/-- AND (R170). -/
def execAnd (f : Form) (s : State) : Host.Outcome State Fault Refusal := s.int2 f (aluAnd f)
/-- AND in its wider forms (R170). -/
def execAndExtended (f : Form) (s : State) : Host.Outcome State Fault Refusal := s.int2 f (aluAnd f)
/-- OR (R170). -/
def execOr (f : Form) (s : State) : Host.Outcome State Fault Refusal := s.int2 f (aluOr f)
/-- OR in its wider forms (R170). -/
def execOrExtended (f : Form) (s : State) : Host.Outcome State Fault Refusal := s.int2 f (aluOr f)
/-- XOR (R170). -/
def execXor (f : Form) (s : State) : Host.Outcome State Fault Refusal := s.int2 f (aluXor f)
/-- XOR in its wider forms (R170). -/
def execXorExtended (f : Form) (s : State) : Host.Outcome State Fault Refusal := s.int2 f (aluXor f)
/-- SHL (R171). -/
def execShl (f : Form) (s : State) : Host.Outcome State Fault Refusal := s.intShift f (aluShl f)
/-- SHL in its wider forms (R171). -/
def execShlExtended (f : Form) (s : State) : Host.Outcome State Fault Refusal := s.intShift f (aluShl f)
/-- SHR (R171). -/
def execShr (f : Form) (s : State) : Host.Outcome State Fault Refusal := s.intShift f (aluShr f)
/-- SHR in its wider forms (R171). -/
def execShrExtended (f : Form) (s : State) : Host.Outcome State Fault Refusal := s.intShift f (aluShr f)
/-- SAR (R171). -/
def execSar (f : Form) (s : State) : Host.Outcome State Fault Refusal := s.intShift f (aluSar f)
/-- SAR in its wider forms (R171). -/
def execSarExtended (f : Form) (s : State) : Host.Outcome State Fault Refusal := s.intShift f (aluSar f)
/-- MIN (R167). -/
def execMin (f : Form) (s : State) : Host.Outcome State Fault Refusal := s.int2 f (aluMin f false)
/-- MIN in its wider forms (R167). -/
def execMinExtended (f : Form) (s : State) : Host.Outcome State Fault Refusal := s.int2 f (aluMin f false)
/-- MAX (R167). -/
def execMax (f : Form) (s : State) : Host.Outcome State Fault Refusal := s.int2 f (aluMin f true)
/-- MAX in its wider forms (R167). -/
def execMaxExtended (f : Form) (s : State) : Host.Outcome State Fault Refusal := s.int2 f (aluMin f true)
/-- CMP (R173). -/
def execCmp (f : Form) (s : State) : Host.Outcome State Fault Refusal := s.issueCmp f
/-- CMP in its wider forms (R173). -/
def execCmpExtended (f : Form) (s : State) : Host.Outcome State Fault Refusal := s.issueCmp f
/-- SEL (R174). -/
def execSel (f : Form) (s : State) : Host.Outcome State Fault Refusal := s.issueSel f
/-- SEL in its wider forms (R174). -/
def execSelExtended (f : Form) (s : State) : Host.Outcome State Fault Refusal := s.issueSel f
/-- MOV (R174). -/
def execMov (f : Form) (s : State) : Host.Outcome State Fault Refusal := s.int1 f (aluMov f)
/-- MOV in its wider forms (R174). -/
def execMovExtended (f : Form) (s : State) : Host.Outcome State Fault Refusal := s.int1 f (aluMov f)
/-- LEA with B's own width (R175). -/
def State.issueLea (s : State) (f : Form) : Host.Outcome State Fault Refusal :=
  s.issueInt f (intRules f 2 (leaWidth f.b f.width) f.width) [(f.a, f.width), (f.b, leaWidth f.b f.width)] (aluLea f)
/-- LEA (R175). -/
def execLea (f : Form) (s : State) : Host.Outcome State Fault Refusal := s.issueLea f
/-- LEA in its wider forms (R175). -/
def execLeaExtended (f : Form) (s : State) : Host.Outcome State Fault Refusal := s.issueLea f
/-- ADDC (R168). -/
def execAddc (f : Form) (s : State) : Host.Outcome State Fault Refusal := s.issueAddc f
/-- MULH (R167). -/
def execMulh (f : Form) (s : State) : Host.Outcome State Fault Refusal := s.int2 f (aluMulh f)
/-- DIV (R169). -/
def execDiv (f : Form) (s : State) : Host.Outcome State Fault Refusal := s.int2 f (aluDiv f)
/-- REM (R169). -/
def execRem (f : Form) (s : State) : Host.Outcome State Fault Refusal := s.int2 f (aluRem f)
/-- NEG (R167). -/
def execNeg (f : Form) (s : State) : Host.Outcome State Fault Refusal := s.int1 f (aluNeg f)
/-- ABS (R167). -/
def execAbs (f : Form) (s : State) : Host.Outcome State Fault Refusal := s.int1 f (aluAbs f)
/-- NOT (R170). -/
def execNot (f : Form) (s : State) : Host.Outcome State Fault Refusal := s.int1 f (aluNot f)
/-- ROT (R171). -/
def execRot (f : Form) (s : State) : Host.Outcome State Fault Refusal :=
  s.intShift f (aluFull f false fun v => rotOf f.width (at_ v 0) (at_ v 1))
/-- POPC (R170). -/
def execPopc (f : Form) (s : State) : Host.Outcome State Fault Refusal := s.int1 f (aluPopc f)
/-- CLZ (R170). -/
def execClz (f : Form) (s : State) : Host.Outcome State Fault Refusal := s.int1 f (aluClz f)
/-- BREV (R170). -/
def execBrev (f : Form) (s : State) : Host.Outcome State Fault Refusal :=
  s.int1 f (aluFull f false fun v => bitrev f.width (at_ v 0))
/-- BFX (R172). -/
def execBfx (f : Form) (s : State) : Host.Outcome State Fault Refusal :=
  s.issueInt f (intRules f 3 f.width f.width) [(f.a, f.width), (f.b, 32), (f.c, 32)]
    (aluFull f f.uns fun v => bfxOf f.uns f.width (at_ v 0) (at_ v 1) (at_ v 2))
/-- BFI (R172): D is read as well. -/
def execBfi (f : Form) (s : State) : Host.Outcome State Fault Refusal :=
  s.issueInt f (intRules f 3 f.width f.width) [(f.a, f.width), (f.b, 32), (f.c, 32), (f.d, f.width)]
    (aluFull f false fun v => bfiOf f.width (at_ v 3) (at_ v 0) (at_ v 1) (at_ v 2))
/-- IDX (R176). -/
def execIdx (f : Form) (s : State) : Host.Outcome State Fault Refusal := s.issueIdx f

end Sys2Proof.Machine
end

