-- ==== Sys2Proof/Machine/NumFmt.lean ====
section
/-! DEFINITION. Exact numbers, their rounding, and the formats of the vector instructions and the matrix engine (R48
to R61, R63 to R66, R70, R180, R183). -/

namespace Sys2Proof.Machine

open Sys2Proof

/-! ### Exact values -/

/-- A floating value: a NaN, an infinity, or (−1)^neg × m × 2^e. -/
inductive Flo where
  | nan
  | inf (neg : Bool)
  | fin (neg : Bool) (m : Nat) (e : Int)
deriving DecidableEq, Repr

/-- A floating format: exponent and mantissa widths, bias, and its special codes: 0 those of IEEE 754, 1 a NaN only
(FE4M3), 2 none (R54 to R56). -/
structure FFmt where
  eb   : Nat
  mb   : Nat
  bias : Nat
  spec : Nat
deriving DecidableEq, Repr

/-- binary32. -/
def fp32 : FFmt := ⟨8, 23, 127, 0⟩
/-- binary16. -/
def fp16 : FFmt := ⟨5, 10, 15, 0⟩
/-- BF16. -/
def bf16 : FFmt := ⟨8, 7, 127, 0⟩
/-- binary64. -/
def fp64 : FFmt := ⟨11, 52, 1023, 0⟩
/-- FE8M10, in its 19 bits. -/
def fe8m10 : FFmt := ⟨8, 10, 127, 0⟩
/-- FE2M1. -/
def fe2m1 : FFmt := ⟨2, 1, 1, 2⟩
/-- FE2M3. -/
def fe2m3 : FFmt := ⟨2, 3, 1, 2⟩
/-- FE3M2. -/
def fe3m2 : FFmt := ⟨3, 2, 3, 2⟩
/-- FE4M3. -/
def fe4m3 : FFmt := ⟨4, 3, 7, 1⟩
/-- FE5M2. -/
def fe5m2 : FFmt := ⟨5, 2, 15, 0⟩

/-- Width of a format's code. -/
def FFmt.width (F : FFmt) : Nat := F.eb + F.mb + 1
/-- The code of +∞ in an IEEE format. -/
def FFmt.infCode (F : FFmt) : Nat := (2 ^ F.eb - 1) * 2 ^ F.mb
/-- The code of the largest finite value. -/
def FFmt.maxCode (F : FFmt) : Nat :=
  match F.spec with
  | 0 => F.infCode - 1
  | 1 => 2 ^ (F.eb + F.mb) - 2
  | _ => 2 ^ (F.eb + F.mb) - 1
/-- The canonical NaN (R50, R55): quiet for IEEE formats, all ones below the sign for FE4M3; a format with neither NaN nor
infinity writes +0 (R70). -/
def FFmt.nanCode (F : FFmt) : Nat :=
  match F.spec with
  | 0 => F.infCode + 2 ^ (F.mb - 1)
  | 1 => 2 ^ (F.eb + F.mb) - 1
  | _ => 0

/-- The value of a code (R54 to R56). -/
def FFmt.unpack (F : FFmt) (x : Nat) : Flo :=
  let neg := bit x (F.width - 1)
  let e := x / 2 ^ F.mb % 2 ^ F.eb
  let m := x % 2 ^ F.mb
  if F.spec = 0 ∧ e = 2 ^ F.eb - 1 then (if m = 0 then .inf neg else .nan)
  else if F.spec = 1 ∧ e = 2 ^ F.eb - 1 ∧ m = 2 ^ F.mb - 1 then .nan
  else if e = 0 then .fin neg m (1 - (F.bias : Int) - F.mb)
  else .fin neg (2 ^ F.mb + m) ((e : Int) - F.bias - F.mb)

/-- Does a rounding mode (R49: 0 nearest even, 1 toward zero, 2 toward +∞, 3 toward −∞) round a magnitude up, whose
quotient is q, remainder r of the divisor d? -/
def roundsUp (rnd : Nat) (neg : Bool) (q r d : Nat) : Bool :=
  match rnd with
  | 0 => 2 * r > d || (2 * r == d && q % 2 == 1)
  | 1 => false
  | 2 => r != 0 && !neg
  | _ => r != 0 && neg

/-- m / 2^k rounded to a whole number; k may be negative. -/
def roundShift (rnd : Nat) (neg : Bool) (m : Nat) (k : Int) : Nat :=
  if k ≤ 0 then m * 2 ^ (-k).toNat
  else
    let d := 2 ^ k.toNat
    m / d + b2n (roundsUp rnd neg (m / d) (m % d) d)

/-- The magnitude code of m × 2^e rounded into a format, m > 0, without regard to overflow. -/
def FFmt.magCode (F : FFmt) (rnd : Nat) (neg : Bool) (m : Nat) (e : Int) : Nat :=
  let top := (bitLen m : Int) - 1 + e
  let emin := 1 - (F.bias : Int)
  let u := (if top < emin then emin else top) - F.mb
  (u - (emin - F.mb)).toNat * 2 ^ F.mb + roundShift rnd neg m (u - e)

/-- The code of a value in a format (R70): `sat` limits a finite overflow to the largest finite value, and FE4M3's
infinities as well. Without it an overflow follows IEEE 754 for the rounding mode. -/
def FFmt.pack (F : FFmt) (rnd : Nat) (sat : Bool) (x : Flo) : Nat :=
  let sg (neg : Bool) : Nat := if neg then 2 ^ (F.width - 1) else 0
  match x with
  | .nan => F.nanCode
  | .inf neg => (match F.spec with
    | 0 => sg neg + F.infCode
    | 1 => if sat then sg neg + F.maxCode else F.nanCode
    | _ => sg neg + F.maxCode)
  | .fin neg m e =>
    if m = 0 then sg neg
    else
      let c := F.magCode rnd neg m e
      if c ≤ F.maxCode then sg neg + c
      else if sat || F.spec == 2 then sg neg + F.maxCode
      else if F.spec = 1 then F.nanCode
      else if rnd = 0 || (rnd == 2 && !neg) || (rnd == 3 && neg) then sg neg + F.infCode
      else sg neg + F.maxCode

/-- Does rounding a value into a format overflow its finite range? -/
def FFmt.overflows (F : FFmt) (rnd : Nat) : Flo → Bool
  | .fin neg m e => m != 0 && F.maxCode < F.magCode rnd neg m e
  | _ => false

/-- The code of a value where the rule itself says what an overflow gives, whatever the rounding mode: ±∞, or the largest
finite value when SAT = 1 (R68, R192, R194, R268). -/
def FFmt.packInf (F : FFmt) (rnd : Nat) (sat : Bool) (x : Flo) : Nat :=
  if F.overflows rnd x && !sat then
    (match x with | .fin neg _ _ => F.pack rnd sat (.inf neg) | _ => 0)
  else F.pack rnd sat x

/-- Is a code a subnormal value? -/
def FFmt.subnormal (F : FFmt) (x : Nat) : Bool := x / 2 ^ F.mb % 2 ^ F.eb == 0 && x % 2 ^ F.mb != 0

/-- A code flushed (R50): a subnormal becomes zero of its sign. -/
def FFmt.flush (F : FFmt) (ftz : Bool) (x : Nat) : Nat :=
  if ftz && F.subnormal x then x / 2 ^ (F.width - 1) % 2 * 2 ^ (F.width - 1) else x

/-- An operand's value under FTZ. -/
def FFmt.read (F : FFmt) (ftz : Bool) (x : Nat) : Flo := F.unpack (F.flush ftz (x % 2 ^ F.width))

/-- A result's code under FTZ. -/
def FFmt.write (F : FFmt) (rnd : Nat) (sat ftz : Bool) (x : Flo) : Nat := F.flush ftz (F.pack rnd sat x)

/-! ### Exact arithmetic (R180) -/

/-- The sign turned. -/
def Flo.neg : Flo → Flo
  | .nan => .nan
  | .inf s => .inf (!s)
  | .fin s m e => .fin (!s) m e

/-- Is the value a NaN? -/
def Flo.isNan : Flo → Bool
  | .nan => true
  | _ => false

/-- m × 2^e with its sign as an integer at the exponent x ≤ e. -/
def atExp (s : Bool) (m : Nat) (e x : Int) : Int :=
  let v : Int := m * (2 ^ (e - x).toNat : Nat)
  if s then -v else v

/-- The exact value of an integer scaled by 2^e; zero takes the given sign. -/
def Flo.ofInt (zneg : Bool) (v e : Int) : Flo := .fin (if v = 0 then zneg else v < 0) v.natAbs e

/-- Exact sum. A sum of two zeros of one sign keeps it; another exact zero is −0 in mode 3 and +0 otherwise. -/
def Flo.add (rnd : Nat) (x y : Flo) : Flo :=
  match x, y with
  | .nan, _ => .nan
  | _, .nan => .nan
  | .inf s, .inf t => if s == t then .inf s else .nan
  | .inf s, _ => .inf s
  | _, .inf t => .inf t
  | .fin s m e, .fin t n g =>
    let b := min e g
    let z := if m = 0 ∧ n = 0 ∧ s = t then s else rnd == 3
    Flo.ofInt z (atExp s m e b + atExp t n g b) b

/-- Exact product. -/
def Flo.mul (x y : Flo) : Flo :=
  match x, y with
  | .nan, _ => .nan
  | _, .nan => .nan
  | .inf s, .inf t => .inf (s != t)
  | .inf s, .fin t n _ => if n = 0 then .nan else .inf (s != t)
  | .fin s m _, .inf t => if m = 0 then .nan else .inf (s != t)
  | .fin s m e, .fin t n g => .fin (s != t) (m * n) (e + g)

/-- The order of two values; `none` when unordered. Zeros are equal. -/
def Flo.cmp (x y : Flo) : Option Int :=
  match x, y with
  | .nan, _ => none
  | _, .nan => none
  | .inf s, .inf t => some (if s == t then 0 else if s then -1 else 1)
  | .inf s, _ => some (if s then -1 else 1)
  | _, .inf t => some (if t then 1 else -1)
  | .fin s m e, .fin t n g =>
    let b := min e g
    some (atExp s m e b - atExp t n g b)

/-- A value as an integer, rounded; `none` for a NaN or an infinity. -/
def Flo.toInt (rnd : Nat) : Flo → Option Int
  | .fin s m e =>
    let q := roundShift rnd s m (-e)
    some (if s then -(q : Int) else q)
  | _ => none

/-- A value as an integer limited to [lo, hi]: infinities clamp, a NaN gives 0 (R70). -/
def Flo.toRange (rnd : Nat) (lo hi : Int) (x : Flo) : Int :=
  match x with
  | .nan => 0
  | .inf s => if s then lo else hi
  | .fin _ _ _ => clamp ((x.toInt rnd).getD 0) lo hi

/-! ### Roots, powers and logarithms (R183)

An inexact result is given as a number with a half of its last place added: enough places are kept that every
rounding boundary lies on one of them. -/

/-- A positive value that lies strictly between m and m + 1 units of 2^e, or is m units exactly. -/
def between (neg : Bool) (m : Nat) (e : Int) (exact : Bool) : Flo :=
  if exact then .fin neg m e else .fin neg (2 * m + 1) (e - 1)

/-- Integer square root, by fixing one bit at a time. -/
def isqrtFrom : Nat → Nat → Nat → Nat
  | 0, _, r => r
  | k + 1, n, r => isqrtFrom k n (let t := r + 2 ^ k; if t * t ≤ n then t else r)

/-- The largest number whose square is at most n. -/
def isqrt (n : Nat) : Nat := isqrtFrom (bitLen n / 2 + 1) n 0

/-- 1 / x. -/
def Flo.recip : Flo → Flo
  | .nan => .nan
  | .inf s => .fin s 0 0
  | .fin s m e =>
    if m = 0 then .inf s
    else
      let k := bitLen m + 64
      between s (2 ^ k / m) (-e - k) (2 ^ k % m == 0)

/-- √x of a positive m × 2^e. -/
def rootOf (m : Nat) (e : Int) : Flo :=
  let k := 64 + (e % 2).toNat
  let n := m * 2 ^ (2 * 64 + (e % 2).toNat)
  let r := isqrt n
  between false r ((e - (e % 2)) / 2 - (k - (e % 2).toNat : Nat)) (r * r == n)

/-- √x. -/
def Flo.sqrt : Flo → Flo
  | .nan => .nan
  | .inf s => if s then .nan else .inf false
  | .fin s m e => if m = 0 then .fin s 0 0 else if s then .nan else rootOf m e

/-- 1 / √x: the root of the reciprocal, with the reciprocal's remainder kept. -/
def Flo.rsqrt : Flo → Flo
  | .nan => .nan
  | .inf s => if s then .nan else .fin false 0 0
  | .fin s m e =>
    if m = 0 then .inf s
    else if s then .nan
    else
      -- x = m × 2^e; with an even exponent, 1/√x = 2^(−e/2) × √(1/m)
      let m' := if e % 2 = 0 then m else 2 * m
      let e' := if e % 2 = 0 then e else e - 1
      let k := bitLen m' + 64
      let n := 2 ^ (2 * k) / m'
      let r := isqrt n
      between false r (-(e' / 2) - k) (r * r == n && 2 ^ (2 * k) % m' == 0)

/-- Fraction bits of the fixed-point series. -/
def seriesBits : Nat := 256

/-- The sum of z^(2i+1) / (2i+1) for i from 0 on, n terms, in fixed point: artanh z. `t` is the next power of z. -/
def artanhFrom (z2 : Nat) : Nat → Nat → Nat → Nat
  | 0, _, _ => 0
  | n + 1, i, t => t / (2 * i + 1) + artanhFrom z2 n (i + 1) (t * z2 / 2 ^ seriesBits)

/-- artanh of a fixed-point z of at most 1/3. -/
def artanh (z : Nat) : Nat := artanhFrom (z * z / 2 ^ seriesBits) 100 0 z

/-- ln 2 in fixed point. -/
def ln2 : Nat := 2 * artanh (2 ^ seriesBits / 3)

/-- The sum of y^i / i! from term i on. -/
def expFrom (y : Nat) : Nat → Nat → Nat → Nat
  | 0, _, _ => 0
  | n + 1, i, t => t + expFrom y n (i + 1) (t * y / 2 ^ seriesBits / i)

/-- 2^f for a fixed-point f in [0, 1). -/
def exp2Frac (f : Nat) : Nat := expFrom (f * ln2 / 2 ^ seriesBits) 80 1 (2 ^ seriesBits)

/-- 2^x. A fraction of fewer than 256 bits is taken whole; a longer one belongs to a value below 2^−100, whose power is
next to 1. -/
def Flo.exp2 : Flo → Flo
  | .nan => .nan
  | .inf s => if s then .fin false 0 0 else .inf false
  | .fin s m e =>
    if m = 0 then .fin false 1 0
    else if (bitLen m : Int) + e > 20 then .fin false 1 (if s then -100000 else 100000)
    else
      let sh : Int := seriesBits + e
      let mag : Nat := if sh ≥ 0 then m * 2 ^ sh.toNat else m / 2 ^ (-sh).toNat
      let whole := sh ≥ 0 || m % 2 ^ (-sh).toNat == 0
      let v : Int := if s then - ((mag : Int) + (if whole then 0 else 1)) else mag
      let n := v / (2 ^ seriesBits : Nat)
      let f := (v % (2 ^ seriesBits : Nat)).toNat
      if f = 0 ∧ whole then .fin false 1 n else between false (exp2Frac f) (n - seriesBits) false

/-- log2 x. -/
def Flo.log2 : Flo → Flo
  | .nan => .nan
  | .inf s => if s then .nan else .inf false
  | .fin s m e =>
    if m = 0 then .inf true
    else if s then .nan
    else
      let t := bitLen m - 1
      let p := (t : Int) + e
      if m = 2 ^ t then Flo.ofInt false p 0
      else
        -- m / 2^t in (1, 2); log2 of it is 2 × artanh((m − 2^t) / (m + 2^t)) / ln 2
        let z := (m - 2 ^ t) * 2 ^ seriesBits / (m + 2 ^ t)
        let l := 2 * artanh z * 2 ^ seriesBits / ln2
        let v : Int := p * (2 ^ seriesBits : Nat) + l
        if v ≥ 0 then between false v.toNat (-seriesBits) false else between true ((-v).toNat - 1) (-seriesBits) false

/-! ### Logarithmic formats (R59 to R61) -/

/-- The exponent code of an LG format's bits, two's complement in w − 1 bits. -/
def lgExp (w x : Nat) : Int := sgn (w - 1) x
/-- Values per octave: 4 for LG6, 8 for LG8. -/
def lgQ (w : Nat) : Nat := if w = 6 then 4 else 8
/-- emax: 15 or 63. -/
def lgMax (w : Nat) : Int := (2 ^ (w - 2) : Nat) - 1
/-- Is an LG code zero? -/
def lgZero (w x : Nat) : Bool := x % 2 ^ w == 2 ^ (w - 2)
/-- Is an LG code NaR? -/
def lgNar (w x : Nat) : Bool := x % 2 ^ w == 2 ^ (w - 2) + 2 ^ (w - 1)

/-- The value of an LG code. -/
def lgUnpack (w x : Nat) : Flo :=
  if lgZero w x then .fin false 0 0
  else if lgNar w x then .nan
  else
    let s := bit x (w - 1)
    let e := lgExp w x
    let v := Flo.exp2 (Flo.ofInt false e (if w = 6 then -2 else -3))
    if s then v.neg else v

/-- The LG code of a value: e is q × log2|x| rounded to nearest, from the exact F = floor(2q × log2|x|). -/
def lgPack (w : Nat) : Flo → Nat
  | .nan => 2 ^ (w - 2) + 2 ^ (w - 1)
  | .inf _ => 2 ^ (w - 2) + 2 ^ (w - 1)
  | .fin s m e =>
    if m = 0 then 2 ^ (w - 2)
    else
      let q := lgQ w
      let f : Int := (bitLen (m ^ (2 * q)) : Int) - 1 + 2 * q * e
      let n := (f + 1) / 2
      if n < - lgMax w then 2 ^ (w - 2)
      else (if s then 2 ^ (w - 1) else 0) + pat (w - 1) (if n > lgMax w then lgMax w else n)

/-! ### The matrix operand formats (R52 to R58, R70) -/

/-- The floating formats of the codes of R52. -/
def floatFmt : Nat → Option FFmt
  | 11 => some fe2m1
  | 12 => some fe2m3
  | 13 => some fe3m2
  | 14 => some fe4m3
  | 15 => some fe5m2
  | 16 => some fp16
  | 17 => some bf16
  | 18 => some fe8m10
  | 19 => some fp32
  | 20 => some fp64
  | _ => none

/-- Stored width in bits, the byte of LG6, FE2M3 and FE3M2 counted whole (R52, R53); BFP mantissas and CB4 indices. -/
def storedWidth : Nat → Nat
  | 0 => 1
  | 1 => 2
  | 2 => 2
  | 3 => 4
  | 4 => 4
  | 7 => 16
  | 8 => 32
  | 11 => 4
  | 16 => 16
  | 17 => 16
  | 18 => 32
  | 19 => 32
  | 20 => 64
  | 22 => 4
  | 23 => 4
  | _ => 8

/-- Default P (R52); 0 for the LG formats, which have none. -/
def defaultP : Nat → Nat
  | 0 => 1
  | 1 => 2
  | 2 => 2
  | 3 => 4
  | 4 => 5
  | 5 => 8
  | 6 => 9
  | 7 => 16
  | 8 => 32
  | 11 => 4
  | 12 => 6
  | 13 => 5
  | 14 => 6
  | 15 => 5
  | 16 => 13
  | 17 => 10
  | 18 => 13
  | 19 => 26
  | 20 => 55
  | 21 => 8
  | 22 => 4
  | 23 => 13
  | _ => 0

/-- Is a code an integer format (0 to 8)? -/
def isIntFmt (f : Nat) : Bool := f < 9
/-- Is a code a logarithmic format? -/
def isLgFmt (f : Nat) : Bool := f == 9 || f == 10

/-- Range of an integer format. -/
def intRange : Nat → Int × Int
  | 0 => (-1, 1)
  | 1 => (-1, 1)
  | 2 => (-2, 1)
  | 3 => (-8, 7)
  | 4 => (0, 15)
  | 5 => (-128, 127)
  | 6 => (0, 255)
  | 7 => (-32768, 32767)
  | _ => (-2147483648, 2147483647)

/-- The integer of an integer format's code. -/
def intDecode (f x : Nat) : Int :=
  match f with
  | 0 => if x % 2 = 1 then -1 else 1
  | 1 => (match x % 4 with
    | 1 => 1
    | 3 => -1
    | _ => 0)
  | 4 => (x % 16 : Nat)
  | 6 => (x % 256 : Nat)
  | f => sgn (storedWidth f) x

/-- The value of an element's bits in a format other than BFP8, BFP4 and CB4. -/
def elemValue (f x : Nat) : Flo :=
  match floatFmt f with
  | some F => F.unpack ((if f = 18 then x / 8192 else x) % 2 ^ F.width)
  | none =>
    if f = 9 then lgUnpack 6 x
    else if f = 10 then lgUnpack 8 x
    else Flo.ofInt false (intDecode f x) 0

/-- Is a value negative, an infinity counted by its sign and a NaN not (R70, B1)? -/
def Flo.below0 : Flo → Bool
  | .nan => false
  | .inf s => s
  | .fin s m _ => s && m != 0

/-- A floating value into a format (R70, R61): the element's bits in their container. -/
def elemCode (f rnd : Nat) (sat : Bool) (x : Flo) : Nat :=
  match floatFmt f with
  | some F => F.pack rnd sat x * (if f = 18 then 8192 else 1)
  | none =>
    if f = 9 then lgPack 6 x
    else if f = 10 then lgPack 8 x
    else if f = 0 then b2n x.below0
    else pat (storedWidth f) (x.toRange rnd (intRange f).1 (intRange f).2)

/-- An integer into a format (R70): an integer format wraps, or clamps under `sat`; B1 takes the sign, T2 clamps. -/
def elemOfInt (f rnd : Nat) (sat : Bool) (v : Int) : Nat :=
  if f = 0 then b2n (v < 0)
  else if f = 1 then pat 2 (clamp v (-1) 1)
  else if isIntFmt f then
    pat (storedWidth f) (if sat then clamp v (intRange f).1 (intRange f).2 else v)
  else elemCode f rnd sat (Flo.ofInt false v 0)

/-- Element i of packed elements of w bits: w below 8 packs within bytes (R53). -/
def elemAt (bs : List Byte) (w i : Nat) : Nat :=
  if w < 8 then (bs.getD (i * w / 8) 0).toNat / 2 ^ (i * w % 8) % 2 ^ w
  else ofLe ((bs.drop (i * (w / 8))).take (w / 8))

/-! ### Plane blocks (R63 to R66) -/

/-- Exp(x) of a nonzero m × 2^e. -/
def expOf (m : Nat) (e : Int) : Int := (bitLen m : Int) - 1 + e

/-- Clamp and RoundEven of x × 2^(−X) into P bits. -/
def mantissa (p : Nat) (x : Int) : Flo → Int
  | .fin s m e =>
    let q := roundShift 0 s m (x - e)
    clamp (if s then -(q : Int) else q) (-(2 ^ (p - 1) : Nat)) ((2 ^ (p - 1) : Nat) - 1)
  | _ => 0

/-- The scale exponent of a non-finite block. -/
def blockNan : Int := 0x7fff

/-- The largest Exp over the nonzero values. -/
def topExp : List Flo → Option Int
  | [] => none
  | .fin _ m e :: r => if m = 0 then topExp r
    else match topExp r with
      | none => some (expOf m e)
      | some t => some (if t < expOf m e then expOf m e else t)
  | _ :: r => topExp r

/-- Is a value finite? -/
def Flo.finite : Flo → Bool
  | .fin _ _ _ => true
  | _ => false

/-- PlaneBlock of R63: the scale exponent and the mantissas. -/
def planeBlock (p : Nat) (xs : List Flo) : Int × List Int :=
  if xs.all Flo.finite then
    match topExp xs with
    | none => (2 - p, xs.map fun _ => 0)
    | some e => (e - p + 2, xs.map (mantissa p (e - p + 2)))
  else (blockNan, xs.map fun _ => 0)

/-- The exact width of an integer format (R52), its default P. -/
def exactWidth (f : Nat) : Nat := defaultP f

/-- Conversion of a block of elements of a format into plane form (R63, R64). -/
def blockOf (f p : Nat) (codes : List Nat) : Int × List Int :=
  if isIntFmt f && exactWidth f ≤ p then (0, codes.map (intDecode f))
  else planeBlock p (codes.map (elemValue f))

/-- RQ of one mantissa (R195, R66). -/
def requantise (p : Nat) (m x d : Int) : Int × Int :=
  if x = blockNan then (0, blockNan)
  else
    let xn := clamp (x + d) (-32768) 32766
    (mantissa p (xn - x) (Flo.ofInt false m 0), xn)

/-! ### Format slots (R71, R73, R191) -/

/-- FMT. -/
def slotFmt (w : Nat) : Nat := slice w 4 0
/-- PREC. -/
def slotPrec (w : Nat) : Nat := slice w 10 5
/-- ACC. -/
def slotAcc (w : Nat) : Nat := slice w 12 11
/-- RND. -/
def slotRnd (w : Nat) : Nat := slice w 14 13
/-- SAT. -/
def slotSat (w : Nat) : Bool := bit w 15
/-- CBIX. -/
def slotCbix (w : Nat) : Nat := slice w 20 16
/-- BPT. -/
def slotBpt (w : Nat) : Nat := slice w 26 21
/-- DRN. -/
def slotDrn (w : Nat) : Nat := slice w 31 27
/-- SlotP: PREC, or the default. -/
def slotP (w : Nat) : Nat := if slotPrec w = 0 then defaultP (slotFmt w) else slotPrec w

/-- Do FMT and PREC of a slot hold allowed values, and its must-be-zero bits zero (R73)? -/
def slotOperandOk (lo hi : Nat) : Bool :=
  hi == 0 && lo / 2 ^ 32 == 0 && slotFmt lo < 24 && (isLgFmt (slotFmt lo) || slotPrec lo < 57)

end Sys2Proof.Machine
end

