-- ==== Sys2Proof/Machine/Float.lean ====
section
/-! DEFINITION. The floating-point and packed instructions, on points and on the intervals of a Loupe pass (R177 to
R187, R324, R325). -/

namespace Sys2Proof

/-- RND, MOD[5:4] (R121). -/
def Form.rnd (f : Form) : Nat := f.mod.toNat / 16
/-- FTZ, MOD[3]. -/
def Form.ftz (f : Form) : Bool := f.mod.getLsbD 3

end Sys2Proof

namespace Sys2Proof.Machine

open Sys2Proof

/-! ### Operations on values (R180 to R185) -/

/-- FMIN and FMAX of two codes, by the order in which −0 lies below +0 (R181). -/
def minMaxOf (larger : Bool) (a b : Nat) : Nat :=
  match (fp32.unpack a).isNan, (fp32.unpack b).isNan with
  | true, true => fp32.nanCode
  | true, false => b
  | false, true => a
  | false, false => if (ordKey 2 32 a < ordKey 2 32 b) == larger then b else a

/-- An FCMP condition on two values (R182). -/
def fcondOf (c : Nat) (x y : Flo) : Bool :=
  match x.cmp y with
  | none => c == 1 || c == 6
  | some d => match c with
    | 6 => false
    | 7 => true
    | c => condOf c d 0

/-- FRND (R184): a result of zero keeps the sign. -/
def rndIntegral (rnd : Nat) (x : Nat) : Nat :=
  match fp32.unpack x with
  | .nan => fp32.nanCode
  | .inf _ => x
  | .fin s m e => fp32.pack 0 false (.fin s (roundShift rnd s m (-e)) 0)

/-- FCLASS (R185). -/
def fclassOf (x : Nat) : Nat :=
  let neg := bit x 31
  let e := x / 2 ^ 23 % 256
  let m := x % 2 ^ 23
  if e = 255 ∧ m ≠ 0 then (if bit m 22 then 1 else 0)
  else
    let k := if e = 255 then 3 else if e ≠ 0 then 2 else if m ≠ 0 then 1 else 0
    if neg then 5 - k else 6 + k

/-! ### Intervals (R324) -/

/-- A code made into its widening under FTZ (R324): the lower and the upper end of an operand or a result. -/
def ftzIv (i : Iv) : Iv :=
  { i with lo := if fp32.subnormal i.lo && !bit i.lo 31 then 0 else i.lo,
           hi := if fp32.subnormal i.hi && bit i.hi 31 then 2 ^ 31 else i.hi }

/-- An operand read as F, widened under FTZ. -/
def floatIv (ftz : Bool) (i : Iv) : Iv :=
  let j := i.as 2 32
  if ftz then ftzIv j else j

/-- The codes at which the hull of an operation is taken: the ends, the zeros that lie between them, and a NaN where
the operand can be one. -/
def fpoints (i : Iv) : List Nat :=
  if (fp32.unpack i.lo).isNan then [fp32.nanCode]
  else
    let inside (z : Nat) : Bool := ordKey 2 32 i.lo ≤ ordKey 2 32 z && ordKey 2 32 z ≤ ordKey 2 32 i.hi
    [i.lo, i.hi] ++ ([0, 2 ^ 31].filter inside) ++ (if i.np then [fp32.nanCode] else [])

/-- Every choice of one point per operand. -/
def choices : List (List Nat) → List (List Nat)
  | [] => [[]]
  | xs :: r => (xs.map fun x => (choices r).map (x :: ·)).flatten

/-- The least and the greatest code in the order of F. -/
def leastF : List Nat → Nat
  | [] => 0
  | [x] => x
  | x :: r => if ordKey 2 32 x ≤ ordKey 2 32 (leastF r) then x else leastF r
/-- The greatest. -/
def greatestF : List Nat → Nat
  | [] => 0
  | [x] => x
  | x :: r => if ordKey 2 32 x ≥ ordKey 2 32 (greatestF r) then x else greatestF r

/-- The hull of an operation on codes with a rounding mode: the lower end rounded down, the upper up; a NaN makes it
Full (R324). -/
def floatHull (op : Nat → List Nat → Nat) (ftz : Bool) (vs : List Iv) : LRes :=
  let cs := choices (vs.map fun i => fpoints (floatIv ftz i))
  let lo := cs.map (op 3)
  let hi := cs.map (op 2)
  if (lo ++ hi).any fun x => (fp32.unpack x).isNan then .val (Iv.full 2 32)
  else
    let r : Iv := ⟨leastF lo, greatestF hi, 2, false, false⟩
    .val (if ftz then ftzIv r else r)

/-- A binary32 operation on codes: `op rnd codes` without flushing. -/
def aluFloat (f : Form) (op : Nat → List Flo → Flo) : Alu :=
  { dw := 32, kind := fun _ => 2,
    pt := fun v => fp32.write f.rnd false f.ftz (op f.rnd (v.map fun x => fp32.read f.ftz x)),
    iv := floatHull (fun rnd v => fp32.pack rnd false (op rnd (v.map fp32.unpack))) f.ftz }

/-- FMIN and FMAX. -/
def aluMinMax (f : Form) (larger : Bool) : Alu :=
  let pick (v : List Nat) : Nat := minMaxOf larger (at_ v 0) (at_ v 1)
  { dw := 32, kind := fun _ => 2, pt := fun v => pick (v.map (fp32.flush f.ftz)), iv := floatHull (fun _ v => pick v) f.ftz }

/-- FRND. -/
def aluRnd (f : Form) : Alu :=
  { dw := 32, kind := fun _ => 2, pt := fun v => rndIntegral f.rnd (fp32.flush f.ftz (at_ v 0)),
    iv := floatHull (fun rnd v => rndIntegral rnd (at_ v 0)) f.ftz }

/-- The place of a code in the order in which the zeros are equal. -/
def zkey (x : Nat) : Int := if bit x 31 then - ((x % 2 ^ 31 : Nat) : Int) else (x : Int)

/-- FCMP over intervals (R324): unordered pairs count as R182 says. -/
def ivFcmp (c : Nat) (a b : Iv) : Tri :=
  let un := c == 1 || c == 6
  if (fp32.unpack a.lo).isNan || (fp32.unpack b.lo).isNan then (if un then .t else .f)
  else
    let r : Tri := match c with
      | 6 => .f
      | 7 => .t
      | c => ivCmp c (zkey a.lo, zkey a.hi) (zkey b.lo, zkey b.hi)
    if a.np || b.np then (if r == (if un then Tri.t else Tri.f) then r else .u) else r

/-- FCMP. -/
def aluFcmp (f : Form) : AluP :=
  let c := f.mod.toNat % 8
  { pt := fun v => fcondOf c (fp32.read f.ftz (at_ v 0)) (fp32.read f.ftz (at_ v 1)),
    iv := fun v => .tri (ivFcmp c (floatIv f.ftz (nth v 0)) (floatIv f.ftz (nth v 1))) }

/-- The class codes that an interval can have. -/
def classSpan (i : Iv) : Nat × Nat :=
  let j := i.as 2 32
  (if j.np then 0 else fclassOf j.lo, fclassOf j.hi)

/-- FCLASS into a register. -/
def aluClass : Alu :=
  { dw := 32, kind := fun _ => 0, pt := fun v => fclassOf (at_ v 0),
    iv := fun v => .val ⟨(classSpan (nth v 0)).1, (classSpan (nth v 0)).2, 0, false, false⟩ }

/-- FCLASS under MASK into a predicate. -/
def aluClassMask (mask : Nat) : AluP :=
  { pt := fun v => bit mask (fclassOf (at_ v 0)),
    iv := fun v =>
      let x := classSpan (nth v 0)
      let bs := (List.range (x.2 + 1 - x.1)).map fun i => bit mask (x.1 + i)
      .tri (if bs.all id then .t else if bs.any id then .u else .f) }

/-! ### Packed operations (R186, R187) -/

/-- Element e of a packed word. -/
def halfOf (x e : Nat) : Nat := x / 2 ^ (16 * e) % 65536

/-- A packed operation on both elements. -/
def aluHalf (f : Form) (op : Nat → List Flo → Flo) : Alu :=
  let F := if f.imm.getLsbD 0 then bf16 else fp16
  let one (v : List Nat) (e : Nat) : Nat :=
    F.write f.rnd false f.ftz (op f.rnd (v.map fun x => F.read f.ftz (halfOf x e)))
  { dw := 32, kind := fun _ => 3, pt := fun v => one v 0 + one v 1 * 65536, iv := fun _ => .val (Iv.full 3 32) }

/-- VDOT4 (R187). -/
def vdot4Of (m a b c : Nat) : Nat :=
  let byte (x i : Nat) (u : Bool) : Int := inOf u 8 (x / 2 ^ (8 * i))
  let v := sgn 32 c + ((List.range 4).map fun i => byte a i (bit m 0) * byte b i (bit m 1)).foldl (· + ·) 0
  limTo false (bit m 2) 32 v

/-! ### Issue -/

/-- A 32-bit source; with a scalar destination it must be group-uniform (R177). -/
def floatSrc (f : Form) (o : Opnd) : Bool := if isS f.d then isUni o else isSrc 32 o

/-- The rules of an instruction with n sources of 32 bits. -/
def floatRules (f : Form) (n : Nat) : Rules :=
  Rules.plain (dstF (isDst 32)) (srcF (floatSrc f)) (if n > 1 then srcF (floatSrc f) else none)
    (if n > 2 then srcF (floatSrc f) else none) 32

/-- Issue over n sources of 32 bits. -/
def State.issueFloat (s : State) (f : Form) (n : Nat) (x : Alu) : Host.Outcome State Fault Refusal :=
  s.issueInt f (floatRules f n) (([f.a, f.b, f.c].take n).map fun o => (o, 32)) x

/-- A sum. -/
def opAdd (rnd : Nat) (v : List Flo) : Flo := (v.getD 0 .nan).add rnd (v.getD 1 .nan)
/-- A difference. -/
def opSub (rnd : Nat) (v : List Flo) : Flo := (v.getD 0 .nan).add rnd (v.getD 1 .nan).neg
/-- A product. -/
def opMul (_ : Nat) (v : List Flo) : Flo := (v.getD 0 .nan).mul (v.getD 1 .nan)
/-- A fused product and sum. -/
def opFma (rnd : Nat) (v : List Flo) : Flo := ((v.getD 0 .nan).mul (v.getD 1 .nan)).add rnd (v.getD 2 .nan)
/-- A function of one operand. -/
def op1 (g : Flo → Flo) (_ : Nat) (v : List Flo) : Flo := g (v.getD 0 .nan)

/-- FMA: the addend is C, or D in the base-length form (R180). -/
def State.issueFma (s : State) (f : Form) : Host.Outcome State Fault Refusal :=
  if f.ext then s.issueFloat f 3 (aluFloat f opFma)
  else s.issueInt f (floatRules f 2) [(f.a, 32), (f.b, 32), (f.d, 32)] (aluFloat f opFma)

/-- FCMP (R182). -/
def State.issueFcmp (s : State) (f : Form) : Host.Outcome State Fault Refusal :=
  s.issueForm (Rules.plain (dstF isP) (srcF (isSrc 32)) (srcF (isSrc 32)) none 32) f fun c s =>
    c.done s (c.aluP f [(f.a, 32), (f.b, 32)] (aluFcmp f))

/-- FCLASS (R185): PD says whether D is a predicate. -/
def State.issueFclass (s : State) (f : Form) : Host.Outcome State Fault Refusal :=
  if f.imm.getLsbD 10 then
    s.issueForm (Rules.plain (dstF isP) (srcF (isSrc 32)) none none 32) f fun c s =>
      c.done s (c.aluP f [(f.a, 32)] (aluClassMask (f.imm.toNat % 1024)))
  else s.issueFloat f 1 aluClass

/-! ### Meanings -/

/-- FADD (R180). -/
def execFadd (f : Form) (s : State) : Host.Outcome State Fault Refusal := s.issueFloat f 2 (aluFloat f opAdd)
/-- FADD with modifiers or wider operands (R180). -/
def execFaddExtended (f : Form) (s : State) : Host.Outcome State Fault Refusal := s.issueFloat f 2 (aluFloat f opAdd)
/-- FMUL (R180). -/
def execFmul (f : Form) (s : State) : Host.Outcome State Fault Refusal := s.issueFloat f 2 (aluFloat f opMul)
/-- FMUL in its wider forms (R180). -/
def execFmulExtended (f : Form) (s : State) : Host.Outcome State Fault Refusal := s.issueFloat f 2 (aluFloat f opMul)
/-- FMA (R180). -/
def execFma (f : Form) (s : State) : Host.Outcome State Fault Refusal := s.issueFma f
/-- FMA in its wider forms (R180). -/
def execFmaExtended (f : Form) (s : State) : Host.Outcome State Fault Refusal := s.issueFma f
/-- FMIN (R181). -/
def execFmin (f : Form) (s : State) : Host.Outcome State Fault Refusal := s.issueFloat f 2 (aluMinMax f false)
/-- FMIN in its wider forms (R181). -/
def execFminExtended (f : Form) (s : State) : Host.Outcome State Fault Refusal := s.issueFloat f 2 (aluMinMax f false)
/-- FMAX (R181). -/
def execFmax (f : Form) (s : State) : Host.Outcome State Fault Refusal := s.issueFloat f 2 (aluMinMax f true)
/-- FMAX in its wider forms (R181). -/
def execFmaxExtended (f : Form) (s : State) : Host.Outcome State Fault Refusal := s.issueFloat f 2 (aluMinMax f true)
/-- FCMP (R182). -/
def execFcmp (f : Form) (s : State) : Host.Outcome State Fault Refusal := s.issueFcmp f
/-- FCMP in its wider forms (R182). -/
def execFcmpExtended (f : Form) (s : State) : Host.Outcome State Fault Refusal := s.issueFcmp f
/-- FSUB (R180). -/
def execFsub (f : Form) (s : State) : Host.Outcome State Fault Refusal := s.issueFloat f 2 (aluFloat f opSub)
/-- FRCP (R183). -/
def execFrcp (f : Form) (s : State) : Host.Outcome State Fault Refusal := s.issueFloat f 1 (aluFloat f (op1 Flo.recip))
/-- FRSQ (R183). -/
def execFrsq (f : Form) (s : State) : Host.Outcome State Fault Refusal := s.issueFloat f 1 (aluFloat f (op1 Flo.rsqrt))
/-- FSQRT (R183). -/
def execFsqrt (f : Form) (s : State) : Host.Outcome State Fault Refusal := s.issueFloat f 1 (aluFloat f (op1 Flo.sqrt))
/-- FEX2 (R183). -/
def execFex2 (f : Form) (s : State) : Host.Outcome State Fault Refusal := s.issueFloat f 1 (aluFloat f (op1 Flo.exp2))
/-- FLG2 (R183). -/
def execFlg2 (f : Form) (s : State) : Host.Outcome State Fault Refusal := s.issueFloat f 1 (aluFloat f (op1 Flo.log2))
/-- FRND (R184). -/
def execFrnd (f : Form) (s : State) : Host.Outcome State Fault Refusal := s.issueFloat f 1 (aluRnd f)
/-- FCLASS (R185). -/
def execFclass (f : Form) (s : State) : Host.Outcome State Fault Refusal := s.issueFclass f
/-- VDOT4 (R187). -/
def execVdot4 (f : Form) (s : State) : Host.Outcome State Fault Refusal :=
  s.issueFloat f 3 { dw := 32, kind := fun _ => 0, pt := fun v => vdot4Of f.imm.toNat (at_ v 0) (at_ v 1) (at_ v 2),
                     iv := fun _ => .val (Iv.full 0 32) }
/-- HFMA2 (R186). -/
def execHfma2 (f : Form) (s : State) : Host.Outcome State Fault Refusal := s.issueFloat f 3 (aluHalf f opFma)
/-- HADD2 (R186). -/
def execHadd2 (f : Form) (s : State) : Host.Outcome State Fault Refusal := s.issueFloat f 2 (aluHalf f opAdd)
/-- HMUL2 (R186). -/
def execHmul2 (f : Form) (s : State) : Host.Outcome State Fault Refusal := s.issueFloat f 2 (aluHalf f opMul)

end Sys2Proof.Machine
end

