-- ==== Sys2Proof/Machine/Convert.lean ====
section
/-! DEFINITION. The conversion instructions, with and without a format slot (R188 to R197, R325). -/

namespace Sys2Proof.Machine

open Sys2Proof

/-! ### Slots (R71, R74) -/

/-- The low and high word of format slot n of a group's grid. A group of no grid, a system group, reads zeros. -/
def State.slot (s : State) (g : Group) (n : Nat) : Nat × Nat :=
  match s.gridOf g with
  | some x => (x.word (16 + 2 * n), x.word (17 + 2 * n))
  | none => (0, 0)

/-- The slot of the issuing group that a form names. -/
def State.formSlot (s : State) (f : Form) : Nat × Nat :=
  match s.ctx with
  | some c => s.slot c.g f.slot.toNat
  | none => (0, 0)

/-- The format-slot trap of a form (R73). -/
def Ctx.slotTrap (c : Ctx) (f : Form) : Res := c.trapAll 0x0d f.slot.toNat

/-! ### FCVT and ICVT (R188, R189, R325) -/

/-- FCVT on values: KIND, RND, FTZ, HI and SAT. -/
def fcvtOf (f : Form) (a b : Nat) : Nat :=
  let k := f.mod.toNat % 8
  let ftz := f.ftz
  let narrow (F : FFmt) (x : Nat) : Nat := F.write f.rnd (f.imm.getLsbD 0) ftz (fp32.read ftz x)
  let widen (F : FFmt) : Nat := fp32.write 0 false ftz (F.read ftz (halfOf a (b2n (f.imm.getLsbD 1))))
  match k with
  | 0 => narrow fp16 a
  | 1 => narrow bf16 a
  | 2 => widen fp16
  | 3 => widen bf16
  | 4 => narrow fp16 a + narrow fp16 b * 65536
  | _ => narrow bf16 a + narrow bf16 b * 65536

/-- An operation whose result is Full(X) on a non-point (R325). -/
def aluX (w : Nat) (pt : List Nat → Nat) : Alu :=
  { dw := w, kind := fun _ => 3, pt := pt, iv := fun _ => .val (Iv.full 3 w) }

/-- ICVT's fields: TOF, W64, UNS. -/
def icvtTof (f : Form) : Bool := f.mod.getLsbD 2
/-- The integer's width. -/
def icvtW (f : Form) : Nat := if f.mod.getLsbD 1 then 64 else 32
/-- UNS. -/
def icvtUns (f : Form) : Bool := f.mod.getLsbD 0
/-- Width of A. -/
def icvtAw (f : Form) : Nat := if icvtTof f then icvtW f else 32
/-- Width of D. -/
def icvtDw (f : Form) : Nat := if icvtTof f then 32 else icvtW f

/-- A float's code into an integer of a type. -/
def icvtInt (uns : Bool) (w rnd : Nat) (x : Flo) : Int := x.toRange rnd (typeMin uns w) (typeMax uns w)

/-- ICVT. -/
def aluIcvt (f : Form) : Alu :=
  let w := icvtW f
  let u := icvtUns f
  if icvtTof f then
    { dw := 32, kind := fun _ => 2, pt := fun v => fp32.pack f.rnd false (Flo.ofInt false (inOf u w (at_ v 0)) 0),
      iv := fun v =>
        let a := (nth v 0).ends u w
        .val ⟨fp32.pack 3 false (Flo.ofInt false a.1 0), fp32.pack 2 false (Flo.ofInt false a.2 0), 2, false, false⟩ }
  else
    { dw := w, kind := fun _ => kindOf u, pt := fun v => pat w (icvtInt u w f.rnd (fp32.read f.ftz (at_ v 0))),
      iv := fun v =>
        let i := floatIv f.ftz (nth v 0)
        let lo := icvtInt u w 3 (fp32.unpack i.lo)
        let hi := icvtInt u w 2 (fp32.unpack i.hi)
        if i.np then ivOf u w (min lo 0) (max hi 0) else ivOf u w lo hi }

/-- A source field of width w. -/
def cvtSrc (f : Form) (w : Nat) (o : Opnd) : Bool := if isS f.d then isUni o else isSrc w o

/-- FCVT. -/
def State.issueFcvt (s : State) (f : Form) : Host.Outcome State Fault Refusal :=
  s.issueFloat f (if f.mod.toNat % 8 ≥ 4 then 2 else 1) (aluX 32 fun v => fcvtOf f (at_ v 0) (at_ v 1))

/-- ICVT. -/
def State.issueIcvt (s : State) (f : Form) : Host.Outcome State Fault Refusal :=
  s.issueInt f (Rules.plain (dstF (isDst (icvtDw f))) (srcF (cvtSrc f (icvtAw f))) none none (icvtAw f))
    [(f.a, icvtAw f)] (aluIcvt f)

/-! ### CVT.to and CVT.fr (R191, R192) -/

/-- Do CVT.to and CVT.fr accept a slot? -/
def cvtSlotOk (sl : Nat × Nat) : Bool := slotOperandOk sl.1 sl.2 && slotFmt sl.1 < 21

/-- Width of an element in registers. -/
def elemWidth (fmt : Nat) : Nat := if fmt = 20 then 64 else 32

/-- SAT of CVT, MOD[3]. -/
def cvtSat (f : Form) : Bool := f.mod.getLsbD 3

/-- CVT.to. -/
def State.issueCvtTo (s : State) (f : Form) : Host.Outcome State Fault Refusal :=
  let sl := s.formSlot f
  let fmt := slotFmt sl.1
  let w := elemWidth fmt
  s.issueForm (Rules.plain (dstF (isDst w)) (srcF (cvtSrc f 32)) none none 32) f fun c s =>
    if cvtSlotOk sl then
      c.done s (c.alu f [(f.a, 32)] (aluX w fun v => elemCode fmt f.rnd (cvtSat f) (fp32.unpack (at_ v 0))))
    else c.slotTrap f

/-- CVT.fr. -/
def State.issueCvtFr (s : State) (f : Form) : Host.Outcome State Fault Refusal :=
  let sl := s.formSlot f
  let fmt := slotFmt sl.1
  let w := elemWidth fmt
  s.issueForm (Rules.plain (dstF (isDst 32)) (srcF (cvtSrc f w)) none none w) f fun c s =>
    if cvtSlotOk sl then
      c.done s (c.alu f [(f.a, w)] (aluX 32 fun v => fp32.packInf f.rnd (cvtSat f) (elemValue fmt (at_ v 0))))
    else c.slotTrap f

/-! ### Blocks and planes (R193 to R197) -/

/-- Does CVT.blk or CVT.ublk accept a slot? -/
def blkSlotOk (sl : Nat × Nat) : Bool :=
  let fmt := slotFmt sl.1
  slotOperandOk sl.1 sl.2 && fmt < 21 && !isLgFmt fmt && !(fmt == 0 && slotP sl.1 == 1) && slotP sl.1 ≤ 32

/-- Does RQ, PLN or UNPL accept a slot? -/
def plnSlotOk (sl : Nat × Nat) : Bool :=
  slotOperandOk sl.1 sl.2 && !isLgFmt (slotFmt sl.1) && slotP sl.1 ≤ 32

/-- The second register of a pair. -/
def pairHi : Opnd → Opnd
  | .v n => .v ⟨(n.val + 1) % 32, Nat.mod_lt _ (by decide)⟩
  | o => o

/-- Write a list of 32-bit values into consecutive registers of a lane, KIND X. -/
def Ctx.putRegs (c : Ctx) (n lane : Nat) (g : Group) (vs : List Nat) : Group :=
  (vs.zip (List.range vs.length)).foldl
    (fun g x => g.writeTri c.tk .t lane (n + x.2) 32 (Iv.pt 3 x.1)) g

/-- Per-lane results into consecutive registers; with a non-point operand anywhere every register is Full(X)
(R325). -/
def Ctx.putAll (c : Ctx) (n k : Nat) (xs : List (Nat × List Nat)) (sharp : Bool) : Group :=
  if sharp then xs.foldl (fun g x => c.putRegs n x.1 g x.2) c.g
  else xs.foldl (fun g x => (List.range k).foldl (fun g i => g.writeIv c.tk x.1 (n + i) 32 (Iv.full 3 32)) g) c.g

/-- The lanes of a half. -/
def halfLanes (ls : List Nat) (h : Nat) : List Nat := ls.filter fun l => l / 32 == h

/-- CVT.blk of the participating lanes: lane, mantissa and exponent. -/
def cvtBlkOf (fmt p : Nat) (val : Nat → Nat) (ls : List Nat) : List (Nat × List Nat) :=
  let one (h : Nat) : List (Nat × List Nat) :=
    let hl := halfLanes ls h
    let b := blockOf fmt p (hl.map val)
    (hl.zip b.2).map fun x => (x.1, [pat 32 x.2, pat 32 b.1])
  one 0 ++ one 1

/-- CVT.blk (R193). -/
def State.issueCvtBlk (s : State) (f : Form) : Host.Outcome State Fault Refusal :=
  let sl := s.formSlot f
  let fmt := slotFmt sl.1
  let w := elemWidth fmt
  s.issueForm (Rules.plain (dstF isV2) (srcF fun o => isV o && isSrc w o) none none w) f fun c s =>
    if blkSlotOk sl then
      c.lanes f.guard s fun ls =>
        let iv (l : Nat) : Iv := c.g.readIv c.tk f.lit w l f.a
        .next (s.setGroup c.r (c.putAll f.d.num 2 (cvtBlkOf fmt (slotP sl.1) (fun l => (iv l).lo) ls)
          (ls.all fun l => (iv l).isPoint)))
    else c.slotTrap f

/-- CVT.ublk of a mantissa and an exponent word (R194). -/
def cvtUblkOf (rnd : Nat) (sat : Bool) (m x : Nat) : Nat :=
  let e := sgn 16 x
  if e = blockNan then fp32.nanCode else fp32.packInf rnd sat (Flo.ofInt false (sgn 32 m) e)

/-- CVT.ublk (R194). -/
def State.issueCvtUblk (s : State) (f : Form) : Host.Outcome State Fault Refusal :=
  let sl := s.formSlot f
  s.issueForm (Rules.plain (dstF isV) (srcF isV2) none none 64) f fun c s =>
    if blkSlotOk sl then
      c.done s (c.alu f [(f.a, 32), (pairHi f.a, 32)] (aluX 32 fun v => cvtUblkOf f.rnd (cvtSat f) (at_ v 0) (at_ v 1)))
    else c.slotTrap f

/-- One lane of RQ: both registers, Full(X) when an operand is not a point. -/
def Ctx.rqLane (c : Ctx) (f : Form) (p : Nat) (g : Group) (l : Nat) : Group :=
  let a := c.g.readIv c.tk f.lit 32 l f.a
  let x := c.g.readIv c.tk f.lit 32 l (pairHi f.a)
  let d := c.g.readIv c.tk f.lit 32 l f.b
  let r := requantise p (sgn 32 a.lo) (sgn 16 x.lo) (sgn 32 d.lo)
  let full := Iv.full 3 32
  let out : Iv × Iv := if a.isPoint && x.isPoint && d.isPoint then (Iv.pt 3 (pat 32 r.1), Iv.pt 3 (pat 32 r.2)) else (full, full)
  let gd := c.guard f.guard l
  (g.writeTri c.tk gd l f.d.num 32 out.1).writeTri c.tk gd l (f.d.num + 1) 32 out.2

/-- RQ (R195). -/
def State.issueRq (s : State) (f : Form) : Host.Outcome State Fault Refusal :=
  let sl := s.formSlot f
  s.issueForm (Rules.plain (dstF isV2) (srcF isV2) (srcF (isSrc 32)) none 64) f fun c s =>
    if plnSlotOk sl then .next (s.setGroup c.r ((c.notOff f.guard).foldl (c.rqLane f (slotP sl.1)) c.g)) else c.slotTrap f

/-- The number whose bit j the test gives. -/
def bitsOf (n : Nat) (t : Nat → Bool) : Nat := (List.range n).foldl (fun v j => v + b2n (t j) * 2 ^ j) 0

/-- PLN of one lane (R196). -/
def plnOf (p : Nat) (val : Nat → Nat) (ls : List Nat) (l : Nat) : Nat :=
  let k := l % 32
  if k < p then bitsOf 32 fun j => ls.contains (l / 32 * 32 + j) && bit (val (l / 32 * 32 + j)) (p - 1 - k) else 0

/-- UNPL of one lane (R197). -/
def unplOf (p : Nat) (val : Nat → Nat) (ls : List Nat) (l : Nat) : Nat :=
  let j := l % 32
  let m := bitsOf p fun i =>
    let k := p - 1 - i
    ls.contains (l / 32 * 32 + k) && bit (val (l / 32 * 32 + k)) j
  pat 32 (sgn p m)

/-- PLN and UNPL. -/
def State.issuePlanes (s : State) (f : Form) (op : Nat → (Nat → Nat) → List Nat → Nat → Nat) :
    Host.Outcome State Fault Refusal :=
  let sl := s.formSlot f
  s.issueForm (Rules.plain (dstF isV) (srcF isV) none none 32) f fun c s =>
    if plnSlotOk sl then
      c.lanes f.guard s fun ls =>
        let iv (l : Nat) : Iv := c.g.readIv c.tk f.lit 32 l f.a
        .next (s.setGroup c.r (c.putAll f.d.num 1 (ls.map fun l => (l, [op (slotP sl.1) (fun l => (iv l).lo) ls l]))
          (ls.all fun l => (iv l).isPoint)))
    else c.slotTrap f

/-! ### Meanings -/

/-- FCVT (R188). -/
def execFcvt (f : Form) (s : State) : Host.Outcome State Fault Refusal := s.issueFcvt f
/-- ICVT (R189). -/
def execIcvt (f : Form) (s : State) : Host.Outcome State Fault Refusal := s.issueIcvt f
/-- CVT.to (R192). -/
def execCvtTo (f : Form) (s : State) : Host.Outcome State Fault Refusal := s.issueCvtTo f
/-- CVT.fr (R192). -/
def execCvtFr (f : Form) (s : State) : Host.Outcome State Fault Refusal := s.issueCvtFr f
/-- CVT.blk (R193). -/
def execCvtBlk (f : Form) (s : State) : Host.Outcome State Fault Refusal := s.issueCvtBlk f
/-- CVT.ublk (R194). -/
def execCvtUblk (f : Form) (s : State) : Host.Outcome State Fault Refusal := s.issueCvtUblk f
/-- RQ (R195). -/
def execRq (f : Form) (s : State) : Host.Outcome State Fault Refusal := s.issueRq f
/-- PLN (R196). -/
def execPln (f : Form) (s : State) : Host.Outcome State Fault Refusal := s.issuePlanes f plnOf
/-- UNPL (R197). -/
def execUnpl (f : Form) (s : State) : Host.Outcome State Fault Refusal := s.issuePlanes f unplOf

end Sys2Proof.Machine
end

