-- ==== Sys2Proof/Machine/Blocks.lean ====
section
/-! DEFINITION. Blocks of 32 elements in plane form, as the copy channels and the matrix engine make them (R57, R58, R63
to R65), and packed elements (R53). -/

namespace Sys2Proof.Machine

open Sys2Proof

/-- n elements from element e0 on. -/
def elemsOf (bs : List Byte) (w e0 n : Nat) : List Nat := (List.range n).map fun i => elemAt bs w (e0 + i)

/-- Elements packed as R53 stores them. -/
def packElems (w : Nat) (codes : List Nat) : List Byte :=
  leBytes (ceilDiv (w * codes.length) 8) (codes.foldr (fun c n => c % 2 ^ w + 2 ^ w * n) 0)

/-- The 32 values of a block from what stands of it. -/
def pad32 {α : Type} (z : α) (xs : List α) : List α := xs ++ List.replicate (32 - xs.length) z

/-- Mantissa width of a BFP format. -/
def bfpWidth (fmt : Nat) : Nat := if fmt = 21 then 8 else 4
/-- The bias of its exponent byte (R57). -/
def bfpBias (fmt : Nat) : Int := if fmt = 21 then 133 else 129

/-- Conversion of a block of stored elements (R57, R58, R63, R64): `eb` is a BFP block's exponent byte, `tab` the table
of CB4. B1 at P = 1 keeps its bits. -/
def convBlock (fmt p eb : Nat) (tab : List (BitVec 16)) (codes : List Nat) : Int × List Int :=
  if fmt = 0 ∧ p = 1 then (0, pad32 0 (codes.map fun c => (c % 2 : Nat)))
  else if fmt = 21 ∨ fmt = 22 then
    let m := codes.map (sgn (bfpWidth fmt))
    if eb = 255 then (blockNan, List.replicate 32 0)
    else if p ≥ bfpWidth fmt then (eb - bfpBias fmt, pad32 0 m)
    else planeBlock p (pad32 (.fin false 0 0) (m.map fun v => Flo.ofInt false v (eb - bfpBias fmt)))
  else if fmt = 23 then planeBlock p (pad32 (.fin false 0 0) (codes.map fun c => fp16.unpack (tab.getD c 0).toNat))
  else if isIntFmt fmt && exactWidth fmt ≤ p then (0, pad32 0 (codes.map (intDecode fmt)))
  else planeBlock p (pad32 (.fin false 0 0) (codes.map (elemValue fmt)))

/-- The plane words of a block, most significant first (R65). -/
def planeWords (p : Nat) (ms : List Int) : List Nat :=
  (List.range p).map fun k => (ms.zip (List.range 32)).foldl (fun v x => v + b2n (bit (pat p x.1) (p - 1 - k)) * 2 ^ x.2) 0

/-- Their bytes. -/
def planeBytes (p : Nat) (ms : List Int) : List Byte := ((planeWords p ms).map (leBytes 4)).flatten

/-- Do FMT, PREC and CBIX of an operand slot hold allowed values (R73)? `argc` is the launch record's argument count. -/
def slotReadOk (sl : Nat × Nat) (argc : Nat) : Bool :=
  slotOperandOk sl.1 sl.2 && (slotFmt sl.1 != 23 || slotCbix sl.1 < argc)

/-- Entries of a CB4 table. -/
def tableOf (bs : List Byte) : List (BitVec 16) := (List.range 16).map fun i => BitVec.ofNat 16 (elemAt bs 16 i)

end Sys2Proof.Machine
end

