-- ==== Sys2Proof/Machine/Boot.lean ====
section
/-! DEFINITION. The small setting that a fetched instruction needs, for `State.withFetchWord`: a tenant with its page
tables, a partition, and one ready group of a resident team. -/

namespace Sys2Proof.Machine

open Sys2Proof

/-- Near addresses of the setting's tables and code frame. -/
def bootRoot : Nat := 0x100000
/-- The code frame. -/
def bootFrame : Nat := 0x140000
/-- The virtual address of the instruction. -/
def bootPc : Nat := 0x10010

/-- A table entry that names a near table. -/
def bootTable (frame : Nat) : List Byte := leBytes 8 (frame + 1)
/-- A near leaf: P, L, R, W, X, A, M, DRT, PIN. -/
def bootLeaf (frame : Nat) : List Byte := leBytes 8 (frame + 1 + 2 + 0x1f0 + 2 ^ 54 + 2 ^ 55)

/-- The bytes of the tables and of the instruction in memory. -/
def bootMem (m : List Host.Cell) (code : List Byte) : List Host.Cell :=
  let m := cwrite m bootRoot (bootTable 0x110000)
  let m := cwrite m 0x110000 (bootTable 0x120000)
  let m := cwrite m 0x120000 (bootTable 0x130000)
  let m := cwrite m 0x130008 (bootLeaf bootFrame)
  cwrite m (bootFrame + 0x10) code

/-- The tenant. -/
def bootTenant : Tenant :=
  { part := 0, root := bootRoot, strict := false, pasid := none, frozen := false, freezing := false, freezeAt := 0,
    reach := [], halted := 0, forced := 0 }

/-- The partition. -/
def bootPart : Part :=
  { ndev := 1, didx := 0, cores := [0], tokens := [], next := 2, order := 1, grids := [], ended := [], root := Cap.null,
    winTen := 1, sroot := 0, svec := 0, rfq := 0, dirtyb := 0, weight := [],
    near := [(0, 12582912)], far := [(0, 67108864)], ports := [], switch := [], others := [] }

/-- The team. -/
def bootTeam : Team :=
  { part := 0, handle := 1, ten := 1, map := 0, tidx := 0, w := 1, h := 1, dx := 0, dy := 0, x0 := 0, y0 := 0, wave := 0,
    cx := 0, cy := 0, gx := 1, gy := 1, ngrp := 1, spzcfg := 0, gen := 0, arrived := [], gone := [], waveIx := 0 }

/-- The group: 64 threads at the instruction, which is the last of its clause. -/
def bootGroup : Group :=
  { Group.start with
      ten := 1, part := 0, handle := 1, role := 3,
      threads := List.replicate 64
        { Thread.start with pc := BitVec.ofNat 64 bootPc, left := some 1, seta := 0, setb := 1 } }

/-- The state with the instruction's bytes where the next step fetches. -/
def State.boot (s : State) (code : List Byte) : State :=
  let s := { s with agenda := [], issue := none, turn := ⟨0, 0⟩, resetting := false, host := { s.host with step := 5, ready := true, rsvc := false },
                    mem := bootMem s.mem code, tenants := mset s.tenants 1 bootTenant,
                    parts := mset s.parts 0 bootPart, l2 := mset s.l2 0 [] }
  let s := s.setGroup ⟨0, 0, 0⟩ bootGroup
  s.modCore 0 fun k =>
    { (k.modQuarter 0 fun q =>
        { q with active := lput none q.active (s.cycle % 8) (some 0), gap := lput false q.gap (s.cycle % 8) false, sysTurn := none }) with
      part := some 0, teams := mset k.teams 0 bootTeam, halted := false, inService := true, l1 := [], pub := [], log := [] }

end Sys2Proof.Machine
end

