-- ==== Sys2Proof/Machine/Copy.lean ====
section
/-! DEFINITION. Copy channels: CPY and its checks, the sector stream, CPWP, CPWT and CPCAN (R238 to R249, R371, R381,
R382). -/

namespace Sys2Proof.Machine

open Sys2Proof

/-- A channel of a core. -/
def Core.chan (k : Core) (n : Nat) : Channel := k.chans.getD n Channel.reset
/-- The state with one channel changed. -/
def State.modChan (s : State) (core n : Nat) (f : Channel → Channel) : State :=
  s.modCore core fun k => { k with chans := lput Channel.reset k.chans n (f (k.chan n)) }

/-! ### The descriptor (R238 to R240, R244) -/

/-- ROWS. -/
def Channel.rows (c : Channel) : Nat := slice c.shape.toNat 63 48 + 1
/-- RBYTES. -/
def Channel.rbytes (c : Channel) : Nat := slice c.shape.toNat 39 0
/-- CONV. -/
def Channel.conv (c : Channel) : Nat := slice c.ctl.toNat 36 35
/-- CSLOT. -/
def Channel.cslot (c : Channel) : Nat := slice c.ctl.toNat 34 32
/-- MASK. -/
def Channel.mask (c : Channel) : Nat := slice c.ctl.toNat 63 52
/-- BEN. -/
def Channel.ben (c : Channel) : Bool := bit c.ctl.toNat 31
/-- Scratchpad offset of the barrier object. -/
def Channel.boff (c : Channel) : Nat := slice c.ctl.toNat 21 4 * 16
/-- Format of the conversion. -/
def Channel.fmt (c : Channel) : Nat := slotFmt c.slotw.toNat
/-- Its stored width. -/
def Channel.width (c : Channel) : Nat := storedWidth c.fmt
/-- SlotP. -/
def Channel.prec (c : Channel) : Nat := slotP c.slotw.toNat
/-- Elements per source row, under CONV 0b01. -/
def Channel.elems (c : Channel) : Nat := 8 * c.rbytes / c.width
/-- Blocks per source row, under CONV 0b01. -/
def Channel.blocks (c : Channel) : Nat := ceilDiv c.elems 32
/-- Rows of the destination. -/
def Channel.drows (c : Channel) : Nat := if c.conv = 1 then 1 else c.rows
/-- Bytes of a destination row. -/
def Channel.rowLen (c : Channel) : Nat :=
  match c.conv with
  | 1 => c.rows * c.blocks * (4 * c.prec + 2)
  | 2 => c.rbytes / 4 * c.width / 8
  | _ => c.rbytes
/-- Bytes of the stream. -/
def Channel.total (c : Channel) : Nat := c.drows * c.rowLen
/-- Address of source row r, byte b. -/
def Channel.srcAt (c : Channel) (r b : Nat) : Nat := (c.src.base + slice c.soff.toNat 39 0 + 64 * r * c.src.pitch + b) % 2 ^ 64
/-- Address of destination row r, byte b. -/
def Channel.dstAt (c : Channel) (r b : Nat) : Nat := (c.dst.base + slice c.doff.toNat 39 0 + 64 * r * c.dst.pitch + b) % 2 ^ 64
/-- Offset of the BFP exponent array from source row 0 (R242). -/
def Channel.expOff (c : Channel) : Nat := 64 * (c.rows - 1) * c.src.pitch + c.rbytes
/-- Is the source of a BFP format with an exponent array? -/
def Channel.bfp (c : Channel) : Bool := c.conv == 1 && (c.fmt == 21 || c.fmt == 22)
/-- Does the destination lie on SPZ? -/
def Channel.spz (c : Channel) : Bool := pathOf c.dst.base == 3

/-- The channel that a descriptor describes, over what the channel is now. -/
def Channel.describe (c : Channel) (bs : List Byte) (t0 t1 : Bool) : Channel :=
  let w (i : Nat) : DWord := BitVec.ofNat 64 (ofLe ((bs.drop (8 * i)).take 8))
  { c with src := capOfWords (w 0) (w 1) t0, dst := capOfWords (w 2) (w 3) t1, soff := w 4, doff := w 5, shape := w 6,
           ctl := w 7 }

/-! ### The checks of CPY (R242) -/

/-- Does every byte of a range of rows decode on its path: the first and the last byte of the whole? -/
def State.rangeOn (s : State) (o : Origin) (first last : Nat) : Bool :=
  (s.path o .load first 1).isSome && (s.path o .load last 1).isSome

/-- The length rules of R244. -/
def Channel.lengthsOk (c : Channel) : Bool :=
  match c.conv with
  | 1 => 8 * c.rbytes % c.width == 0 && c.rows * c.blocks ≤ 8192
  | 2 => c.rbytes % 4 == 0 && c.rbytes / 4 * c.width % 8 == 0
  | _ => true

/-- Is the slot one that R73 or R244 refuses? Under CONV 0b10 too R73's test of PREC is made, though the narrowing takes no PREC
(assumption 94, DEDUCED). Before READY, SlotP above 8 is refused under CONV 0b01 (R420). -/
def Channel.slotBad (c : Channel) (sl : Nat × Nat) (argc : Nat) (ready : Bool) : Bool :=
  !slotReadOk sl argc || (c.conv == 1 && isLgFmt c.fmt) || (c.conv == 2 && c.fmt ≥ 21) || (c.conv == 1 && !ready && c.prec > 8)

/-- The must-be-zero bits of a descriptor. -/
def Channel.zeroBits (c : Channel) : Bool :=
  slice c.soff.toNat 63 40 == 0 && slice c.doff.toNat 63 40 == 0 && slice c.shape.toNat 47 40 == 0
    && slice c.ctl.toNat 51 37 == 0 && slice c.ctl.toNat 30 22 == 0 && slice c.ctl.toNat 3 0 == 0

/-- The illegal parameters of code 0x03; `wh` is W × H. -/
def Channel.badShape (c : Channel) (wh : Nat) : Bool :=
  c.rbytes == 0 || (c.rows > 1 && 64 * c.src.pitch < c.rbytes) || (c.drows > 1 && 64 * c.dst.pitch < c.rowLen)
    || (c.mask != 0 && (pathOf c.dst.base != 2 || c.mask / 2 ^ wh != 0))
    || (c.spz && (c.dstAt 0 0 % 4096 != 0 || c.rowLen % 4096 != 0 || c.drows > 1))

/-- The SUB of SRC's check: its rows, and a BFP source's exponent array. -/
def Channel.srcCheck (c : Channel) : Nat :=
  let o := slice c.soff.toNat 39 0
  match c.src.check 9 c.rows c.rbytes o with
  | 0 => if c.bfp then c.src.check 9 1 (c.rows * c.blocks) (o + c.expOff) else 0
  | k => k

/-- What a check of CPY finds: nothing, or a trap: cause, SUB, ADDR, INFO. -/
abbrev Check := Option (Nat × Nat × Nat × Nat)

/-- The first that fails of a list of checks. -/
def firstCheck : List Check → Check
  | [] => none
  | some x :: _ => some x
  | none :: r => firstCheck r

/-- A check by a condition. -/
def failIf (b : Bool) (x : Nat × Nat × Nat × Nat) : Check := if b then some x else none

/-- The checks of R242, steps 2 to 6, of a described channel. -/
def State.copyCheck (s : State) (o : Origin) (c : Channel) (sl : Nat × Nat) (args : List Cap) : Check :=
  let wh := match o.team with
    | some t => t.w * t.h
    | none => 1
  let table := args.getD (slotCbix sl.1) Cap.null
  let srcPath := pathOf c.src.base
  let dstPath := pathOf c.dst.base
  let srcLast := if c.bfp then c.srcAt 0 (c.expOff + c.rows * c.blocks - 1) else c.srcAt (c.rows - 1) (c.rbytes - 1)
  let dstCheck := c.dst.check 10 c.drows c.rowLen (slice c.doff.toNat 39 0)
  firstCheck [
    failIf (c.conv == 3) (0x0c, 2, 0, 0),
    failIf (c.conv != 0 && c.slotBad sl args.length s.host.ready) (0x0d, c.cslot, 0, 0),
    failIf (!c.lengthsOk) (0x0c, 3, 0, 0),
    failIf (c.srcCheck != 0) (0x0b, c.srcCheck, 0, 0x100),
    failIf (dstCheck != 0) (0x0b, dstCheck, 0, 0x101),
    failIf (c.conv == 1 && c.fmt == 23 && table.check 1 1 32 0 != 0) (0x0b, table.check 1 1 32 0, 0, 0x200 + slotCbix sl.1),
    failIf (!([0, 1, 2, 3, 4, 6, 7].contains srcPath) || (c.rbytes != 0 && !s.rangeOn o (c.srcAt 0 0) srcLast))
      (0x0a, 0, c.srcAt 0 0, 0),
    failIf (!([0, 2, 3, 4, 7].contains dstPath)
        || (c.rowLen != 0 && !s.rangeOn o (c.dstAt 0 0) (c.dstAt (c.drows - 1) (c.rowLen - 1)))) (0x0a, 0, c.dstAt 0 0, 0),
    failIf (!c.zeroBits) (0x0c, 2, 0, 0),
    failIf (c.badShape wh) (0x0c, 3, 0, 0)]

/-- The receivers of a channel: TIDX and core (R245). -/
def Channel.receivers (c : Channel) (o : Origin) : List (Nat × Nat) :=
  match o.team with
  | none => [(0, o.r.core)]
  | some t =>
    if c.mask = 0 then [(t.tidx, o.r.core)]
    else ((List.range 12).filter fun i => bit c.mask i).map fun i => (i, 16 * (t.y0 + i / t.w) + t.x0 + i % t.w)

/-! ### Write pointers and the waits on them (R245, R247 to R249) -/

/-- The smallest of a list, 0 for none. -/
def leastOf : List Nat → Nat
  | [] => 0
  | [a] => a
  | a :: r => min a (leastOf r)

/-- WP as a core sees it. -/
def Channel.wpFor (c : Channel) (core : Nat) : Nat :=
  match c.recv.find? fun x => x.2 == core with
  | some x => mgetD c.wp x.1 0
  | none => leastOf (c.recv.map fun x => mgetD c.wp x.1 0)

/-- The state code of R246. -/
def ChState.code : ChState → Nat
  | .idle => 0
  | .run => 1
  | .done => 2
  | .held => 3
  | .cancelled => 4
  | .spzFull => 5

/-- Is a channel busy? -/
def Channel.busy (c : Channel) : Bool := c.st == .run || c.st == .held

/-- What CPWP reads. -/
def Channel.report (c : Channel) (core : Nat) : Nat := c.st.code * 2 ^ 60 + c.team % 16 * 2 ^ 40 + c.wpFor core % 2 ^ 40

/-- The test of a CPWT (R248): `none` while it waits. -/
def Channel.test (c : Channel) (core : Nat) (v : DWord) : Option Bool :=
  if c.wpFor core ≥ v.toNat then some true else if c.busy then none else some false

/-- The CPWTs of a channel are tested after a change of it; those of a frozen group stay outstanding (R368). -/
def State.pokeCopy (s : State) (core n : Nat) : State :=
  let ch := (s.core core).chan n
  { s with groups := s.groups.map fun x =>
      if x.2.frozen then x
      else (x.1, { x.2 with pend := x.2.pend.map fun p => match p.kind with
        | .cpwt c m v => if c == core && m == n then (match ch.test (x.1 / 256) v with | some b => p.finishAll b | none => p) else p
        | _ => p }) }

/-- The channel stops (R243, R249): the issuing group's flag is decremented and the CPCANs get their results. -/
def State.copyEnd (s : State) (core n : Nat) (st : ChState) : State :=
  let s := s.modChan core n fun c => { c with st := st, why := none, cancel := false, buf := [], drop := [], told := none }
  let ch := (s.core core).chan n
  let wp := ch.wpFor core % 2 ^ 40
  let s := s.modPends fun r p => match p.kind with
    | .cpcan m before => if r.core == core && m == n then p.finish [BitVec.ofNat 64 (before * 2 ^ 60 + wp)] else p
    | _ => p
  (s.complete ch.ref ch.pend).pokeCopy core n

/-! ### The sector stream (R244, R245) -/

/-- The parts of the sector at a stream position: stream position, address and length. -/
def Channel.sector (c : Channel) (fuel p : Nat) (blk : Option Nat) : List (Nat × Nat × Nat) :=
  match fuel with
  | 0 => []
  | k + 1 =>
    if p ≥ c.total then []
    else
      let size := if c.spz then 4096 else 256
      let r := p / c.rowLen
      let b := p % c.rowLen
      let a := c.dstAt r b
      if blk.isSome && blk != some (a / size) then []
      else
        let n := min (c.rowLen - b) (size - a % size)
        (p, a, n) :: c.sector k (p + n) (some (a / size))

/-- The bytes of a sector's parts. -/
def sectorLen (ps : List (Nat × Nat × Nat)) : Nat := ps.foldl (fun n x => n + x.2.2) 0

/-- Is an SPZ tile of a core one that a copy has still to write (R205)? -/
def State.spzBusy (s : State) (core tile : Nat) : Bool :=
  (s.core core).chans.any fun c =>
    let t0 := slice (c.dstAt 0 0) 21 12
    c.busy && c.spz && t0 + c.wpFor core / 4096 ≤ tile && tile < t0 + c.total / 4096

/-- Bytes read from an address, undefined where a copy has still to write their SPZ tile (R140, R205). -/
def State.spzVeil (s : State) (core a : Nat) (bs : List Byte) : List Byte :=
  if pathOf a = 3 && (s.core core).chans.any (fun c => c.busy && c.spz) then
    (bs.zip (List.range bs.length)).map fun x =>
      let i := slice (a + x.2) 21 0
      if s.spzBusy core (i / 4096) then Config.undefByte s.ticket (spzKey core (i / 4096) (i % 4096)) else x.1
  else bs

/-- A read of a channel's source; an address that no longer decodes gives undefined bytes. -/
def State.copyRead (s : State) (o : Origin) (a n : Nat) : State × EGot :=
  match s.engineLoad o a n with
  | (s, .path _) => (s, .bytes ((List.range n).map fun i => Config.undefByte s.ticket (a + i)))
  | (s, .bytes bs) => (s, .bytes (s.spzVeil o.r.core a bs))
  | x => x

/-- Bytes of CONV 0b00 and 0b10 for a part of the stream. -/
def State.copyPlain (s : State) (o : Origin) (c : Channel) (p n : Nat) : State × EGot :=
  let r := p / c.rowLen
  let b := p % c.rowLen
  if c.conv = 2 then
    let e0 := b * 8 / c.width
    let e1 := ceilDiv ((b + n) * 8) c.width
    match s.copyRead o (c.srcAt r (4 * e0)) (4 * (e1 - e0)) with
    | (s, .bytes bs) =>
      let w := c.slotw.toNat
      let codes := (elemsOf bs 32 0 (e1 - e0)).map fun x => elemCode c.fmt (slotRnd w) (slotSat w) (fp32.unpack x)
      (s, .bytes (((packElems c.width codes).drop (b - e0 * c.width / 8)).take n))
    | x => x
  else s.copyRead o (c.srcAt r b) n

/-- X and the mantissas of block i of the stream (R244). -/
def State.copyBlock (s : State) (o : Origin) (c : Channel) (i : Nat) : State × Except EGot (Int × List Int) :=
  let r := i / c.blocks
  let e0 := i % c.blocks * 32
  let e1 := min c.elems (e0 + 32)
  let b0 := e0 * c.width / 8
  match s.copyRead o (c.srcAt r b0) (ceilDiv (e1 * c.width) 8 - b0) with
  | (s, .bytes bs) =>
    (match (if c.bfp then s.copyRead o (c.srcAt 0 (c.expOff + i)) 1 else (s, .bytes [])) with
     | (s, .bytes eb) => (s, .ok (convBlock c.fmt c.prec (ofLe eb) c.table (elemsOf bs c.width 0 (e1 - e0))))
     | (s, e) => (s, .error e))
  | (s, e) => (s, .error e)

/-- Bytes of CONV 0b01 from a stream position: whole blocks or exponents, one after another, cut to n bytes; the X
values formed on the way. -/
def State.copyPlanes (s : State) (o : Origin) (c : Channel) (fuel p n : Nat) (xs : NMap Nat) : State × NMap Nat × EGot :=
  match fuel with
  | 0 => (s, xs, .bytes [])
  | k + 1 =>
    if n = 0 then (s, xs, .bytes [])
    else
      let pb := 4 * c.prec
      let planes := pb * (c.rows * c.blocks)
      if p < planes then
        let i := p / pb
        let t := min n (pb - p % pb)
        match s.copyBlock o c i with
        | (s, .ok (x, ms)) => (match s.copyPlanes o c k (p + t) (n - t) (mset xs i (pat 16 x)) with
          | (s, xs, .bytes r) => (s, xs, .bytes (((planeBytes c.prec ms).drop (p % pb)).take t ++ r))
          | y => y)
        | (s, .error e) => (s, xs, e)
      else
        let i := (p - planes) / 2
        let t := min n (2 - (p - planes) % 2)
        match (match mget xs i with
          | some x => (s, .ok x)
          | none => match s.copyBlock o c i with
            | (s, .ok (x, _)) => (s, .ok (pat 16 x))
            | (s, .error e) => (s, .error e) : State × Except EGot Nat) with
        | (s, .ok x) => (match s.copyPlanes o c k (p + t) (n - t) (mset xs i x) with
          | (s, xs, .bytes r) => (s, xs, .bytes (((leBytes 2 x).drop ((p - planes) % 2)).take t ++ r))
          | y => y)
        | (s, .error e) => (s, xs, e)

/-- The bytes of a sector, part after part. -/
def State.copyData (s : State) (o : Origin) (c : Channel) (xs : NMap Nat) : List (Nat × Nat × Nat) → State × NMap Nat × EGot
  | [] => (s, xs, .bytes [])
  | (p, _, n) :: r =>
    match (if c.conv = 1 then s.copyPlanes o c (n + 1) p n xs
           else match s.copyPlain o c p n with | (s, g) => (s, xs, g)) with
    | (s, xs, .bytes bs) => (match s.copyData o c xs r with
      | (s, xs, .bytes rest) => (s, xs, .bytes (bs ++ rest))
      | y => y)
    | y => y

/-- The CB4 table, read once before sector 0 (R58, R244). -/
def State.copyTable (s : State) (o : Origin) (c : Channel) : State × Except EGot (List (BitVec 16)) :=
  if c.conv = 1 ∧ c.fmt = 23 ∧ c.table.isEmpty then
    match s.copyRead o c.tabAt 32 with
    | (s, .bytes bs) => (s, .ok (tableOf bs))
    | (s, e) => (s, .error e)
  else (s, .ok c.table)

/-- The key by which two addresses of a copy are the same byte. -/
def copyKey (o : Origin) (a : Nat) : Nat × Nat :=
  match pathOf a with
  | 2 => (2, spadKey o.r.core (slice a 21 0))
  | 4 => match o.team with
    | some t => (2, spadKey (16 * (t.y0 + slice a 29 26) + t.x0 + slice a 25 22) (slice a 21 0))
    | none => (2, spadKey o.r.core (slice a 21 0))
  | 3 => (3, slice a 21 0)
  | 7 => (7, slice a 59 0)
  | _ => (0, slice a 56 0)

/-- Does a key lie in the source range? -/
def Channel.inSource (c : Channel) (o : Origin) (k : Nat × Nat) : Bool :=
  let base := copyKey o (c.srcAt 0 0)
  let d := k.2 - base.2
  let row := 64 * c.src.pitch
  k.1 == base.1 && k.2 ≥ base.2
    && (if c.rows = 1 then d < c.rbytes else (d / row < c.rows && d % row < c.rbytes)
        || (c.bfp && c.expOff ≤ d && d < c.expOff + c.rows * c.blocks))

/-- The bytes of a part as they are left: those that overlap the source range are undefined (R244). -/
def State.copyMask (s : State) (o : Origin) (c : Channel) (dst : Nat → Nat × Nat) (bs : List Byte) : List Byte :=
  (bs.zip (List.range bs.length)).map fun x =>
    if c.inSource o (dst x.2) then Config.undefByte s.ticket ((dst x.2).2) else x.1

/-- Write a sector's parts at one receiver; `none` when an SPZ tile does not fit. -/
def State.copyPut (s : State) (o : Origin) (c : Channel) (core : Nat) (bs : List Byte) :
    List (Nat × Nat × Nat) → State × Except (Option EGot) Unit
  | [] => (s, .ok ())
  | (_, a, n) :: r =>
    let part := bs.take n
    if c.spz then
      match s.spzWrite core ((o.team.map (·.spzcfg)).getD 0) (slice a 21 12) (s.copyMask o c (fun i => (3, slice a 21 0 + i)) part) with
      | none => (s, .error none)
      | some s => s.copyPut o c core (bs.drop n) r
    else if pathOf a = 2 then
      (s.spadStore core (slice a 21 0) (s.copyMask o c (fun i => (2, spadKey core (slice a 21 0 + i))) part)).copyPut o c core
        (bs.drop n) r
    else
      let part := s.copyMask o c (fun i => copyKey o ((a + i) % 2 ^ 64)) part
      match (if pathOf a = 4 then s.path o .store a 1 else none) with
      | some (.spad k off _) => (s.spadStore k off part).copyPut o c core (bs.drop n) r
      | _ => match s.engineWrite o a part with
        | (s, none) => s.copyPut o c core (bs.drop n) r
        | (s, some (.path _)) => s.copyPut o c core (bs.drop n) r
        | (s, some e) => (s, .error (some e))

/-- Can every part of a sector be written? A faulting sector writes no byte (R382). -/
def State.copyProbe (s : State) (o : Origin) : List (Nat × Nat × Nat) → State × Option EGot
  | [] => (s, none)
  | (_, a, n) :: r =>
    if pathOf a = 2 ∨ pathOf a = 3 ∨ pathOf a = 4 then s.copyProbe o r
    else match s.enginePlaces o (List.replicate n 0) (rangePieces a n) with
      | (s, .error (.path _)) => s.copyProbe o r
      | (s, .error e) => (s, some e)
      | (s, .ok _) => s.copyProbe o r

/-- A sector of a channel meets a fault or a wait (R246, R381): a fault holds the channel with its record. -/
def State.copyMiss (s : State) (core n : Nat) (c : Channel) : EGot → State
  | .fault sub a =>
    (s.modChan core n fun c => { c with st := .held, why := some .record, told := some s.ticket }).engineFault c.ten c.ref sub c.len c.pc a 1 n
  | .wait w => s.modChan core n fun c => { c with why := some w }
  | _ => s

/-- A receiver has the sector: its credit follows the write, then WP rises (R245). -/
def State.copyGot (s : State) (core n : Nat) (c : Channel) (rc : Nat × Nat) (len : Nat) : State :=
  let s := if c.ben then s.barCredit rc.2 c.boff len else s
  s.modChan core n fun k => { k with wp := mset k.wp rc.1 (mgetD k.wp rc.1 0 + len) }

/-- Have all receivers the sector that is on its way? -/
def Channel.delivered (c : Channel) : Bool :=
  c.recv.all fun x => mgetD c.wp x.1 0 ≥ c.pos + c.buf.length || c.drop.contains x.1

/-- The stream goes on past a delivered sector; the channel ends with the last one at the last receiver, also where that one was
caught up after a THAW (R246, R371). -/
def State.copyPast (s : State) (core n : Nat) : State :=
  let c := (s.core core).chan n
  let s := if !c.buf.isEmpty && c.delivered then
      s.modChan core n fun k => { k with pos := k.pos + k.buf.length, buf := [], drop := [] }
    else s
  if c.recv.all fun x => mgetD c.wp x.1 0 == c.total then s.copyEnd core n .done else s.pokeCopy core n

/-- Write the bytes of a sector at a receiver, or drop them where the receiver's scratchpad is being saved (R371). -/
def State.copyDeliver (s : State) (core n : Nat) (o : Origin) (c : Channel) (rc : Nat × Nat)
    (ps : List (Nat × Nat × Nat)) (bs : List Byte) : State :=
  if (s.core rc.2).saving.getLsbD 0 then (s.modChan core n fun k => { k with drop := sins k.drop rc.1 }).copyPast core n
  else match s.copyPut o c rc.2 bs ps with
    | (s, .error none) => s.copyEnd core n .spzFull
    | (s, .error (some _)) => s
    | (s, .ok _) => (s.copyGot core n c rc bs.length).copyPast core n

/-- Read the sector at a position. -/
def State.copyFetch (s : State) (o : Origin) (core n : Nat) (c : Channel) (ps : List (Nat × Nat × Nat)) :
    State × Except EGot (List Byte) :=
  match s.copyTable o c with
  | (s, .error e) => (s, .error e)
  | (s, .ok tab) =>
    match s.copyData o { c with table := tab } c.xs ps with
    | (s, xs, .bytes bs) => (match s.copyProbe o ps with
      | (s, some e) => (s, .error e)
      | (s, none) => (s.modChan core n fun k => { k with table := tab, xs := xs, why := none }, .ok bs))
    | (s, _, e) => (s, .error e)

/-- Is a tenant frozen or being frozen? -/
def State.stopped (s : State) (ten : Nat) : Bool :=
  match s.tenant? ten with
  | some t => t.frozen || t.freezing
  | none => false

/-- One sector of a channel at one receiver. A cancelled or freezing channel stops at the sector boundary; a receiver
that lies behind the stream after a THAW is caught up alone (R371). -/
def State.copyStep (s : State) (core n rt : Nat) : State :=
  let c := (s.core core).chan n
  match c.recv.find? fun x => x.1 == rt with
  | none => s
  | some rc =>
    let at_ := mgetD c.wp rt 0
    let o := s.engineOrigin c.ref c.ten c.team
    let ps := c.sector 8 at_ none
    if c.st != .run || (s.core core).halted then s
    else if at_ < c.pos then
      if s.stopped c.ten || (s.core rc.2).saving.getLsbD 0 then s
      else match s.copyFetch o core n c ps with
        | (s, .error e) => s.copyMiss core n c e
        | (s, .ok bs) => s.copyDeliver core n o c rc ps bs
    else if !c.buf.isEmpty then
      (if at_ = c.pos && !c.drop.contains rt then s.copyDeliver core n o c rc ps c.buf else s)
    else if c.cancel then s.copyEnd core n .cancelled
    else if s.stopped c.ten || c.recv.any (fun x => mgetD c.wp x.1 0 < c.pos) then s
    else match s.copyFetch o core n c ps with
      | (s, .error e) => s.copyMiss core n c e
      | (s, .ok bs) => (s.modChan core n fun k => { k with buf := bs }).copyDeliver core n o { c with buf := bs } rc ps bs

/-- The retry of a held channel by the ERET of its own record; an ERET of the record of a copy that CPCAN or HALT has ended
only frees the ring head (R246, R382). -/
def Channel.retry (id : Nat) (c : Channel) : Channel :=
  if c.st == .held && c.told == some id then { c with st := .run, why := none, told := none } else c
/-- The retry of a channel of a core. -/
def State.copyRetry (s : State) (core n id : Nat) : State := s.modChan core n (Channel.retry id)

/-! ### The instructions -/

/-- The start of a copy: the channel is RUN, every WP 0 (R242, R243, R246). Its credits and write pointers order the group's earlier
stores before what their observers do (R293, R294). -/
def Ctx.startCopy (c : Ctx) (f : Form) (n : Nat) (d : Channel) (o : Origin) (s : State) : State :=
  let recv := d.receivers o
  let s := c.start f (s.releases c.r.core) (.copy n) [] []
  (s.modChan c.r.core n fun _ =>
    { d with told := none, st := .run, ref := c.r, ten := if c.sys then 0 else c.g.ten, team := c.g.team, pend := c.g.nextId, pc := c.pc,
             len := c.len, recv := recv, wp := recv.map fun x => (x.1, 0), table := [], why := none, cancel := false,
             pos := 0, buf := [], drop := [], xs := [] }).pokeCopy c.r.core n

/-- CPY (R242). -/
def Ctx.cpy (f : Form) (c : Ctx) (s : State) : Res :=
  let n := f.imm.toNat % 8
  let o := s.origin c.r c.g
  let a := (c.g.read c.tk f.lit 64 0 f.a + c.g.read c.tk f.lit 64 0 f.b) % 2 ^ 64
  if ((s.core c.r.core).chan n).busy then .stall s
  else if pathOf a != 2 || slice a 59 22 != 0 then c.trapOn f 0x0a 0 a 0
  else if a % 64 != 0 then c.trapOn f 0x09 0 a 0
  else
    let off := slice a 21 0
    let tags := (s.core c.r.core).stags
    let d0 := Channel.reset.describe (s.spadLoad c.r.core off 64) (tags.contains (off / 16)) (tags.contains (off / 16 + 1))
    let sl := if d0.conv = 0 then (0, 0) else s.slot c.g d0.cslot
    let d := { d0 with slotw := BitVec.ofNat 64 sl.1 }
    let args := ((s.gridOf c.g).map (·.args)).getD []
    match s.copyCheck o d sl args with
    | some (cause, sub, addr, info) => c.trapOn f cause sub addr info
    | none => .next (c.startCopy f n { d with tabAt := (args.getD (slotCbix sl.1) Cap.null).base } o s)

/-- The core of the owner that CPWP and CPWT name; `none` beyond the rectangle (R241). -/
def Ctx.owner (c : Ctx) (f : Form) (s : State) : Option Nat :=
  let x := slice f.imm.toNat 7 4
  let y := slice f.imm.toNat 11 8
  match s.team c.r c.g with
  | none => if x = 0 ∧ y = 0 then some c.r.core else none
  | some t =>
    -- the offset is the place of the channel's core in the rectangle
    if x ≥ t.w ∨ y ≥ t.h then none else some (16 * (t.y0 + y) + t.x0 + x)

/-- CPWP (R247): what it sees is visible to the group from now on (R245, R293). -/
def Ctx.cpwp (f : Form) (c : Ctx) (s : State) : Res :=
  match c.owner f s with
  | none => c.trapOn f 0x0a 0 0 0
  | some k => .next (s.setGroup c.r { c.g.setScalar c.tk f.d.num
      (BitVec.ofNat 64 (((s.core k).chan (f.imm.toNat % 8)).report c.r.core)) with covered := c.tk })

/-- CPWT (R248). -/
def Ctx.cpwt (f : Form) (c : Ctx) (s : State) : Res :=
  match c.owner f s with
  | none => c.trapOn f 0x0a 0 0 0
  | some k =>
    let n := f.imm.toNat % 8
    if c.waitsFull false then .stall s
    else .next ((c.start f s (.cpwt k n (BitVec.ofNat 64 (c.g.read c.tk f.lit 64 0 f.a))) (c.predDests f f.d.num) []).pokeCopy k n)

/-- CPCAN (R249). -/
def Ctx.cpcan (f : Form) (c : Ctx) (s : State) : Res :=
  let n := f.imm.toNat % 8
  let ch := (s.core c.r.core).chan n
  let wp := ch.wpFor c.r.core % 2 ^ 40
  let dests := [Reg.scalar f.d.num]
  match ch.st with
  | .run => .next ((c.start f s (.cpcan n 1) dests []).modChan c.r.core n fun k => { k with cancel := true })
  | .held => .next ((c.start f s (.cpcan n 3) dests []).copyEnd c.r.core n .cancelled)
  | st => .next (c.start f s .ready dests [BitVec.ofNat 64 (st.code * 2 ^ 60 + wp)])

/-- CPY (R241 to R246). -/
def execCpy (f : Form) (s : State) : Host.Outcome State Fault Refusal :=
  s.issueForm (Rules.once true none (srcF isS) (srcF fun o => isSZ o || o == .lit) none 64) f (Ctx.cpy f)
/-- CPWP (R247). -/
def execCpwp (f : Form) (s : State) : Host.Outcome State Fault Refusal :=
  s.issueForm (Rules.once false (dstF isS) none none none 64) f (Ctx.cpwp f)
/-- CPWT (R248). -/
def execCpwt (f : Form) (s : State) : Host.Outcome State Fault Refusal :=
  s.issueForm (Rules.once true (dstF isP) (srcF fun o => isSZ o || o == .lit) none none 64) f (Ctx.cpwt f)
/-- CPCAN (R249). -/
def execCpcan (f : Form) (s : State) : Host.Outcome State Fault Refusal :=
  s.issueForm (Rules.once true (dstF isS) none none none 64) f (Ctx.cpcan f)

/-- COPY_SECTOR (R244, R245): one sector of a channel is written at one receiver, named by its TIDX. -/
def execCopySector (core ch recv : Nat) (s : State) : Host.Outcome State Fault Refusal := .next (s.copyStep core ch recv)

end Sys2Proof.Machine
end

