-- ==== Sys2Proof/Machine/Tile.lean ====
section
/-! DEFINITION. The arithmetic of the matrix engine: operand tiles, step values, accumulator formats, the residual add,
drain conversion and Philox (R59, R62, R65, R67, R68, R70, R259, R268). -/

namespace Sys2Proof.Machine

open Sys2Proof

/-! ### Exact step values (R62, R259) -/

/-- A scaled integer v × 2^e. -/
structure Dyad where
  v : Int
  e : Int
deriving DecidableEq, Repr

/-- The sum of two scaled integers. -/
def Dyad.add (a b : Dyad) : Dyad :=
  if a.v = 0 then b
  else if b.v = 0 then a
  else
    let x := min a.e b.e
    ⟨a.v * (2 ^ (a.e - x).toNat : Nat) + b.v * (2 ^ (b.e - x).toNat : Nat), x⟩

/-- A step's value: `none` for one marked non-finite or NaR. -/
abbrev Step := Option Dyad

/-- The mantissa of element j in a block's plane words; B1 at P = 1 stands for 1 − 2b (R64). -/
def planeElem (b1 : Bool) (ws : List Nat) (j : Nat) : Int :=
  let p := ws.length
  let u := (ws.zip (List.range p)).foldl (fun n x => n + b2n (bit x.1 j) * 2 ^ (p - 1 - x.2)) 0
  if b1 then 1 - 2 * (u : Int) else sgn p u

/-- A block as the arrays see it: X and the mantissas. -/
structure PBlock where
  x : Int
  m : List Int
deriving DecidableEq, Repr

/-- Decode a block from its plane bytes and exponent; elements from `live` on count as 0 (R259). -/
def PBlock.decode (b1 : Bool) (p live : Nat) (planes : List Byte) (x : Nat) : PBlock :=
  let ws := (List.range p).map fun k => elemAt planes 32 k
  ⟨sgn 16 x, (List.range 32).map fun j => if j < live then planeElem b1 ws j else 0⟩

/-- The exact dot product of two blocks. -/
def dot (a b : List Int) : Int := (a.zip b).foldl (fun n x => n + x.1 * x.2) 0

/-- The step value of plane mode (R259). -/
def planeStep (xs : List (PBlock × PBlock)) : Step :=
  if xs.any fun x => x.1.x == blockNan || x.2.x == blockNan then none
  else some (xs.foldl (fun d x => d.add ⟨dot x.1.m x.2.m, x.1.x + x.2.x⟩) ⟨0, 0⟩)

/-- The weight of class f: 2^(f/q) × 2^30, rounded to nearest (R62): the eight values of Tq for q = 8. -/
def lgWeight (f : Nat) : Nat :=
  [0x40000000, 0x45cae0f2, 0x4c1bf829, 0x52ff6b55, 0x5a82799a, 0x62b39509, 0x6ba27e65, 0x75606374].getD f 0

/-- The exponent code of an LG code as an LG8 code (R60). -/
def lgExp8 (fmt x : Nat) : Int := if fmt = 9 then 2 * lgExp 6 x else lgExp 8 x
/-- The width of an LG format. -/
def lgW (fmt : Nat) : Nat := if fmt = 9 then 6 else 8

/-- The step value of log mode over pairs of codes (R62). LG6 work is that of LG8 restricted to even classes, with
Z = 8 in place of 16: the step's value W × 2^(−30 − Z) is the same. -/
def logStep (fa fb : Nat) (xs : List (Nat × Nat)) : Step :=
  if xs.any fun x => lgNar (lgW fa) x.1 || lgNar (lgW fb) x.2 then none
  else
    let w := xs.foldl (fun (w : Int) x =>
      if lgZero (lgW fa) x.1 || lgZero (lgW fb) x.2 then w
      else
        let s := lgExp8 fa x.1 + lgExp8 fb x.2
        let f := (s % 8).toNat
        let n := s / 8
        let v : Int := ((2 ^ (n + 16).toNat * lgWeight f : Nat) : Int)
        if bit x.1 (lgW fa - 1) == bit x.2 (lgW fb - 1) then w + v else w - v) 0
    some ⟨w, -46⟩

/-! ### Accumulator formats (R67, R68) -/

/-- The NaR code of FX64. -/
def fxNar : Nat := 2 ^ 63

/-- An FX64 code from an exact sum (R68). -/
def fxWrap (sat : Bool) (v : Int) : Nat :=
  if sat then pat 64 (clamp v (-(2 ^ 63 - 1 : Nat)) ((2 ^ 63 - 1 : Nat)))
  else if pat 64 v = fxNar then fxNar + 1
  else pat 64 v

/-- An INT32 code from an exact sum (R68). -/
def i32Wrap (sat : Bool) (v : Int) : Nat := pat 32 (if sat then clamp v (-(2 ^ 31 : Nat)) ((2 ^ 31 - 1 : Nat)) else v)

/-- A scaled integer rounded to a whole number. -/
def Dyad.round (rnd : Nat) (d : Dyad) (up : Nat) : Int :=
  ((Flo.ofInt false d.v (d.e + up)).toInt rnd).getD 0

/-- Is a scaled integer whole? -/
def Dyad.whole (d : Dyad) : Bool := d.e ≥ 0 || d.v % (2 ^ (-d.e).toNat : Nat) == 0

/-- The step's addition to a cell (R68), in ACC, RND, SAT and BPT of the accumulator slot word. `open_` is what an INT32 cell
gets from a step that is no integer, which R68 does not state. -/
def stepAdd (w : Nat) (open_ : Nat) (cell : Nat) (s : Step) : Nat :=
  match slotAcc w with
  | 1 => (match s with
    | some d => if d.whole then i32Wrap (slotSat w) (sgn 32 cell + d.round 0 0) else open_
    | none => open_)
  | 2 =>
    if cell = fxNar then cell
    else (match s with
      | some d => fxWrap (slotSat w) (sgn 64 cell + d.round (slotRnd w) (slotBpt w))
      | none => fxNar)
  | _ =>
    if (fp32.unpack cell).isNan then cell
    else (match s with
      | some d => fp32.packInf (slotRnd w) (slotSat w) ((fp32.unpack cell).add (slotRnd w) (Flo.ofInt false d.v d.e))
      | none => fp32.nanCode)

/-- The residual add of R268. -/
def residualAdd (w cell r : Nat) : Nat :=
  match slotAcc w with
  | 1 => i32Wrap (slotSat w) (sgn 32 cell + sgn 32 r)
  | 2 => if cell = fxNar ∨ r = fxNar then fxNar else fxWrap (slotSat w) (sgn 64 cell + sgn 64 r)
  | _ => fp32.packInf (slotRnd w) (slotSat w) ((fp32.unpack cell).add (slotRnd w) (fp32.unpack r))

/-! ### Drain conversion (R267, R268, R70) -/

/-- The DRN codes that an accumulator format admits. -/
def drnOk (w : Nat) : Bool :=
  let d := slotDrn w
  [5, 6, 7, 8, 14, 15, 16, 17, 19, 31].contains d || (d == 9 && slotAcc w == 0)

/-- Bits of a drained element. -/
def drnWidth (w : Nat) : Nat := if slotDrn w = 31 then (if slotAcc w = 2 then 64 else 32) else storedWidth (slotDrn w)

/-- Convert(v, DRN). -/
def drnConvert (w v : Nat) : Nat :=
  let d := slotDrn w
  if d = 31 then v
  else match slotAcc w with
    | 1 => elemOfInt d (slotRnd w) (slotSat w) (sgn 32 v)
    | 2 => elemCode d (slotRnd w) (slotSat w) (if v = fxNar then .nan else Flo.ofInt false (sgn 64 v) (-(slotBpt w : Int)))
    | _ => elemCode d (slotRnd w) (slotSat w) (fp32.unpack v)

/-! ### Philox-4×32-10 (R268) -/

/-- One round on the counter words. -/
def philoxRound (k0 k1 : Nat) (c : Nat × Nat × Nat × Nat) : Nat × Nat × Nat × Nat :=
  let a := 0xd2511f53 * c.1
  let b := 0xcd9e8d57 * c.2.2.1
  (b / 2 ^ 32 ^^^ c.2.1 ^^^ k0, b % 2 ^ 32, a / 2 ^ 32 ^^^ c.2.2.2 ^^^ k1, a % 2 ^ 32)

/-- Some rounds. -/
def philoxRounds : Nat → Nat → Nat → Nat × Nat × Nat × Nat → Nat
  | 0, _, _, c => c.1
  | n + 1, k0, k1, c => philoxRounds n ((k0 + 0x9e3779b9) % 2 ^ 32) ((k1 + 0xbb67ae85) % 2 ^ 32) (philoxRound k0 k1 c)

/-- Philox(key, c0, c1, c2). -/
def philox (key c0 c1 c2 : Nat) : Nat :=
  philoxRounds 10 (key % 2 ^ 32) (key / 2 ^ 32 % 2 ^ 32) (c0 % 2 ^ 32, c1 % 2 ^ 32, c2 % 2 ^ 32, 0)

/-! ### The online-softmax step (R266) -/

/-- A binary32 sum to nearest even. -/
def f32Add (a b : Nat) : Nat := fp32.pack 0 false ((fp32.unpack a).add 0 (fp32.unpack b))
/-- A binary32 product to nearest even. -/
def f32Mul (a b : Nat) : Nat := fp32.pack 0 false ((fp32.unpack a).mul (fp32.unpack b))
/-- FEX2 of a binary32 value (R183). -/
def f32Exp2 (a : Nat) : Nat := fp32.pack 0 false (fp32.unpack a).exp2
/-- The code with its sign turned. -/
def f32Neg (a : Nat) : Nat := if bit a 31 then a - 2 ^ 31 else a + 2 ^ 31
/-- −∞. -/
def f32NegInf : Nat := 0xff800000

/-- What a row of MSMX gives. -/
structure SmxRow where
  m : Nat
  l : Nat
  a : Nat
  p : List Nat
deriving DecidableEq, Repr

/-- One row: scale, side registers and score cells. -/
def smxRow (scale m l : Nat) (cells : List Nat) : SmxRow :=
  let s := cells.map fun c => f32Mul c scale
  let rm := (s.drop 1).foldl (minMaxOf true) (s.headD 0)
  let mn := minMaxOf true m rm
  let a := if mn = f32NegInf then 0x3f800000 else f32Exp2 (f32Add m (f32Neg mn))
  let p := if mn = f32NegInf then s.map fun _ => 0 else s.map fun x => f32Exp2 (f32Add x (f32Neg mn))
  let t := p.foldl f32Add 0
  { m := mn, l := f32Add (f32Mul l a) t, a := a, p := p }

end Sys2Proof.Machine
end

