-- ==== Sys2Proof/Machine/Matrix.lean ====
section
/-! DEFINITION. The matrix engine: its blocks and their checks, the queue, the units of each kind of operation, and the
seven matrix instructions (R250 to R273). -/

namespace Sys2Proof.Machine

open Sys2Proof

/-! ### Blocks (R255, R256, R257, R264, R265, R267, R272) -/

/-- Doubleword at an offset of the block. -/
def MatOp.dw (m : MatOp) (o : Nat) : Nat := ofLe ((m.block.drop o).take 8)
/-- The capability at an offset. -/
def MatOp.cap (m : MatOp) (o : Nat) : Cap :=
  capOfWords (BitVec.ofNat 64 (m.dw o)) (BitVec.ofNat 64 (m.dw (o + 8))) (m.tags.getD (o / 16) false)
/-- Are bytes a to e − 1 of the block zero? -/
def MatOp.zeros (m : MatOp) (a e : Nat) : Bool := ((m.block.drop a).take (e - a)).all (· == 0)
/-- OPW. -/
def MatOp.opw (m : MatOp) : Nat := m.dw 0
/-- TILE; MZERO has it in A. -/
def MatOp.tile (m : MatOp) : Nat := if m.fn = 5 then m.dw 0 else m.dw 8
/-- Rows M of the block. -/
def MatOp.rows (m : MatOp) : Nat := slice m.tile 57 49 + 1
/-- Columns N. -/
def MatOp.cols (m : MatOp) : Nat := slice m.tile 48 40 + 1
/-- ROW0. -/
def MatOp.row0 (m : MatOp) : Nat := slice m.tile 9 0
/-- COL0. -/
def MatOp.col0 (m : MatOp) : Nat := slice m.tile 25 16
/-- MODE. -/
def MatOp.mode (m : MatOp) : Nat := slice m.opw 59 58
/-- CHAIN. -/
def MatOp.chain (m : MatOp) : Nat := slice m.opw 57 56
/-- SLA, SLB, SLC. -/
def MatOp.sla (m : MatOp) : Nat := slice m.opw 55 53
/-- SLB. -/
def MatOp.slb (m : MatOp) : Nat := slice m.opw 52 50
/-- SLC. -/
def MatOp.slc (m : MatOp) : Nat := slice m.opw 49 47
/-- K. -/
def MatOp.kdim (m : MatOp) : Nat := slice m.opw 31 16
/-- The slot words of A (or P), B and the accumulator. -/
def MatOp.slotA (m : MatOp) : Nat := (m.slots.getD 0 0).toNat
/-- The slot word of B. -/
def MatOp.slotB (m : MatOp) : Nat := (m.slots.getD 1 0).toNat
/-- The slot word of the accumulator. -/
def MatOp.slotC (m : MatOp) : Nat := (m.slots.getD 2 0).toNat
/-- cw: cells that a result column spans. -/
def MatOp.cw (m : MatOp) : Nat := if slotAcc m.slotC = 2 then 2 else 1
/-- RES, DROP, DMODE and CLR of MDRN. -/
def MatOp.res (m : MatOp) : Bool := bit m.opw 59
/-- DROP. -/
def MatOp.dropout (m : MatOp) : Bool := bit m.opw 58
/-- DMODE. -/
def MatOp.dmode (m : MatOp) : Bool := bit m.opw 57
/-- CLR. -/
def MatOp.clr (m : MatOp) : Bool := bit m.opw 56
/-- VBASE. -/
def MatOp.vbase (m : MatOp) : Nat := slice m.opw 20 16
/-- OPN of MSIDE. -/
def MatOp.opn (m : MatOp) : Nat := m.mode
/-- OEN of MSMX. -/
def MatOp.oen (m : MatOp) : Bool := bit (m.dw 0x38) 63
/-- ON of MSMX, 0 without an output tile. -/
def MatOp.on_ (m : MatOp) : Nat := if m.oen then slice (m.dw 0x38) 48 40 + 1 else 0
/-- Blocks per tile row of K elements. -/
def MatOp.kblocks (m : MatOp) : Nat := ceilDiv m.kdim 32
/-- The 40-bit offset at 0x30. -/
def MatOp.off30 (m : MatOp) : Nat := slice (m.dw 0x30) 39 0
/-- The 40-bit offset at 0x38. -/
def MatOp.off38 (m : MatOp) : Nat := slice (m.dw 0x38) 39 0

/-- Rows of an MMA or of this quarter of an MMAC (R263). -/
def MatOp.qrows (m : MatOp) : Nat := if m.fn = 2 then min m.rows (128 * m.qi + 128) - 128 * m.qi else m.rows
/-- Columns of an MMA or of this quarter. -/
def MatOp.qcols (m : MatOp) : Nat := if m.fn = 2 then min m.cols (192 * m.qj + 192) - 192 * m.qj else m.cols

/-- KIND of each function. -/
def matKind : Nat → Nat
  | 1 => 1
  | 2 => 1
  | 3 => 2
  | 4 => 3
  | 6 => 4
  | _ => 5

/-- Bits of OPW that a function's kind may set (R255). -/
def opwMask (m : MatOp) : Nat :=
  let f (hi lo : Nat) : Nat := (2 ^ (hi + 1 - lo) - 1) * 2 ^ lo
  f 63 60 + (match m.fn with
    | 1 => f 59 47 + f 31 16
    | 2 => f 59 47 + f 39 32 + f 31 16
    | 3 => f 55 53
    | 4 => f 59 56 + f 49 47 + (if m.dmode then f 20 16 else 0)
    | 7 => f 59 58
    | _ => 0)

/-- Must-be-zero bits and reserved values, code 0x02. -/
def MatOp.zeroOk (m : MatOp) : Bool :=
  let tileOk := slice m.tile 63 58 == 0 && slice m.tile 39 26 == 0 && slice m.tile 15 10 == 0
  if m.fn = 5 then tileOk
  else
    let opw := (m.opw &&& opwMask m) == m.opw
    opw && tileOk && (match m.fn with
      | 3 => m.zeros 0x20 0x30 && slice (m.dw 0x30) 63 40 == 0 && m.zeros 0x48 0x80 && slice (m.dw 0x40) 63 32 == 0
          && slice (m.dw 0x38) 62 49 == 0 && slice (m.dw 0x38) 39 26 == 0 && slice (m.dw 0x38) 15 10 == 0
          && (m.oen || m.dw 0x38 == 0)
      | 4 => m.zeros 0x60 0x80 && (m.dmode || slice (m.dw 0x30) 63 40 == 0) && (!m.res || slice (m.dw 0x38) 63 40 == 0)
          && (!m.dropout || slice (m.dw 0x58) 63 32 == 0)
      | 6 => m.zeros 0x20 0x30 && slice (m.dw 0x30) 63 40 == 0 && m.zeros 0x38 0x80
      | 7 => m.zeros 0x20 0x30 && (m.opn == 0 || slice (m.dw 0x30) 63 40 == 0) && m.zeros 0x38 0x80
          && m.opn != 3 && m.cols == 1 && m.col0 == 0
      | _ => m.mode < 2 && m.chain < 2 && slice (m.dw 0x30) 63 40 == 0 && slice (m.dw 0x38) 63 40 == 0 && m.zeros 0x40 0x80)

/-- M, N, K and ON in range, code 0x03. -/
def MatOp.rangeOk (m : MatOp) : Bool :=
  match m.fn with
  | 1 => m.rows ≤ 128 && m.cols ≤ 192 && 1 ≤ m.kdim && m.kdim ≤ 16384
  | 2 => m.rows ≤ 256 && m.cols ≤ 384 && 1 ≤ m.kdim && m.kdim ≤ 16384
  | 3 => m.rows ≤ 128 && m.cols ≤ 192 && m.on_ ≤ 192
  | 4 => m.rows ≤ 128 && m.cols ≤ 192
  | _ => m.rows ≤ 512 && m.cols ≤ 512

/-- A tile inside the store (R256). -/
def tileIn (r0 c0 m n : Nat) : Bool := r0 + m ≤ 1024 && c0 + n ≤ 1024

/-- Tiles inside the store, code 0x04. -/
def MatOp.tileOk (m : MatOp) : Bool :=
  match m.fn with
  | 1 => tileIn m.row0 m.col0 m.rows (m.cw * m.cols)
  | 2 => tileIn m.row0 m.col0 (min m.rows 128) (m.cw * min m.cols 192)
  | 3 => tileIn m.row0 m.col0 m.rows m.cols
      && (!m.oen || tileIn (slice (m.dw 0x38) 9 0) (slice (m.dw 0x38) 25 16) m.rows m.on_)
  | 4 => tileIn m.row0 m.col0 m.rows (m.cw * m.cols)
  | _ => tileIn m.row0 m.col0 m.rows m.cols

/-- Does the operation use an accumulator slot? -/
def MatOp.usesC (m : MatOp) : Bool := m.fn == 1 || m.fn == 2 || m.fn == 4
/-- The accumulator slot's check (R73, R258, R267). -/
def MatOp.slotCOk (m : MatOp) (hi : Nat) : Bool :=
  hi == 0 && m.slotC / 2 ^ 32 == 0 && slotAcc m.slotC < 3 && (m.fn != 4 || drnOk m.slotC)

/-- The drain's mode combinations, code 0x07 (R268, R269). -/
def MatOp.drainOk (m : MatOp) : Bool :=
  let acc := slotAcc m.slotC
  let d := slotDrn m.slotC
  (!m.dropout || acc == 0)
    && (!m.dmode || (m.rows ≤ 64 && m.vbase + m.cols ≤ 32 && (d == 8 || d == 19 || (d == 31 && acc != 2))))

/-- The pairing of formats (R69), code 0x05, and the kind of MSMX's P slot. -/
def MatOp.pairOk (m : MatOp) : Bool :=
  let fa := slotFmt m.slotA
  let fb := slotFmt m.slotB
  let acc := slotAcc m.slotC
  if m.fn = 3 then 11 ≤ fa && fa ≤ 20
  else if m.mode = 1 then isLgFmt fa && isLgFmt fb && acc != 1
  else !isLgFmt fa && !isLgFmt fb && (acc != 1 || (isIntFmt fa && isIntFmt fb))

/-! ### Ranges and capabilities -/

/-- A use of a capability: its offset in the block, permissions, rows, bytes per row, byte offset, and the paths that it
may lie on. -/
structure CapUse where
  at_  : Nat
  need : Nat
  rows : Nat
  len  : Nat
  off  : Nat
  path : List Nat
deriving DecidableEq, Repr

/-- One operand tile of r rows (R258). -/
def MatOp.operandUse (m : MatOp) (at_ slot r off : Nat) : CapUse :=
  let path := if m.fn = 2 then [2] else [2, 3, 4]
  if m.mode = 1 then ⟨at_, 17, r, m.kdim, off, path⟩
  else ⟨at_, 17, 1, r * m.kblocks * (4 * slotP slot + 2), off, path⟩

/-- Bytes of MSMX's P tile. -/
def MatOp.pBytes (m : MatOp) : Nat := m.rows * ceilDiv m.cols 32 * (4 * slotP m.slotA + 2)
/-- Bytes of a drained row. -/
def MatOp.drainLen (m : MatOp) : Nat := ceilDiv (m.cols * drnWidth m.slotC) 8

/-- The capabilities that the operation uses, in block order. -/
def MatOp.uses (m : MatOp) : List CapUse :=
  match m.fn with
  | 1 => [m.operandUse 0x10 m.slotA m.rows m.off30, m.operandUse 0x20 m.slotB m.cols m.off38]
  | 2 =>
    [m.operandUse 0x10 m.slotA (min m.rows 128) m.off30]
      ++ (if m.rows > 128 then [m.operandUse 0x10 m.slotA (m.rows - 128) m.off30] else [])
      ++ [m.operandUse 0x20 m.slotB (min m.cols 192) m.off38]
      ++ (if m.cols > 192 then [m.operandUse 0x20 m.slotB (m.cols - 192) m.off38] else [])
  | 3 => [⟨0x10, 2, 1, m.pBytes, m.off30, [2, 4]⟩]
  | 4 => (if m.dmode then [] else [⟨0x10, 2, m.rows, m.drainLen, m.off30, [0, 2, 4]⟩])
      ++ (if m.res then [⟨0x20, 1, m.rows, 4 * m.cw * m.cols, m.off38, [2, 3, 4]⟩] else [])
  | 6 => [⟨0x10, 1, m.rows, 4 * m.cols, m.off30, [2, 3, 4]⟩]
  | 7 => (if m.opn = 0 then [] else [⟨0x10, if m.opn = 1 then 2 else 1, 1, 8 * m.rows, m.off30, [2]⟩])
  | _ => []

/-- Address of row r of a use. -/
def MatOp.useAt (m : MatOp) (u : CapUse) (r b : Nat) : Nat :=
  ((m.cap u.at_).base + u.off + 64 * r * (m.cap u.at_).pitch + b) % 2 ^ 64

/-- The capability check of a use. -/
def MatOp.useCheck (m : MatOp) (u : CapUse) : Check :=
  let k := (m.cap u.at_).check u.need u.rows u.len u.off
  failIf (k != 0) (0x0b, k, 0, 0x100 + u.at_ / 16)

/-- The path check of a use: its first and its last byte decode on an admitted path. -/
def State.usePath (s : State) (o : Origin) (m : MatOp) (u : CapUse) : Check :=
  failIf (!u.path.contains (pathOf (m.cap u.at_).base)
      || (u.len != 0 && !s.rangeOn o (m.useAt u 0 0) (m.useAt u (u.rows - 1) (u.len - 1))))
    (0x0a, 0, m.useAt u 0 0, 0)

/-- The codebook capability of an operand slot of format CB4 (R84). -/
def codebookCheck (args : List Cap) (w : Nat) : Check :=
  let k := (args.getD (slotCbix w) Cap.null).check 1 1 32 0
  failIf (slotFmt w == 23 && k != 0) (0x0b, k, 0, 0x200 + slotCbix w)

/-- The MMAC rectangle: inside the cluster and issued from its origin, code 0x06. -/
def MatOp.rectOk (m : MatOp) (o : Origin) : Bool :=
  match o.team with
  | none => false
  | some t =>
    let sx := slice m.opw 35 32
    let sy := slice m.opw 39 36
    sx + 1 < t.w && sy + 1 < t.h && o.r.core == 16 * (t.y0 + sy) + t.x0 + sx

/-- The checks of R254, steps 3 to 6; `his` are the high words of the slots, `args` the launch arguments. -/
def State.matCheck (s : State) (o : Origin) (m : MatOp) (his : List Nat) (args : List Cap) : Check :=
  let operands := m.fn == 1 || m.fn == 2
  let aSlot := operands || m.fn == 3
  let early (w : Nat) : Bool := !s.host.ready && slotP w > 8
  let cb := if operands then [codebookCheck args m.slotA, codebookCheck args m.slotB] else []
  firstCheck ([
    failIf (m.fn != 5 && slice m.opw 63 60 != matKind m.fn) (0x0c, 1, 0, 0),
    failIf (!m.zeroOk) (0x0c, 2, 0, 0),
    failIf (!m.rangeOk) (0x0c, 3, 0, 0),
    failIf (m.usesC && !m.slotCOk (his.getD 2 0)) (0x0d, m.slc, 0, 0),
    failIf (!m.tileOk) (0x0c, 4, 0, 0),
    failIf (m.fn == 2 && !m.rectOk o) (0x0c, 6, 0, 0),
    failIf (m.fn == 4 && !m.drainOk) (0x0c, 7, 0, 0),
    failIf (aSlot && !slotReadOk (m.slotA, his.getD 0 0) args.length) (0x0d, m.sla, 0, 0),
    failIf (operands && !slotReadOk (m.slotB, his.getD 1 0) args.length) (0x0d, m.slb, 0, 0),
    failIf (((operands && m.mode == 0) || m.fn == 3) && early m.slotA) (0x0d, m.sla, 0, 0),
    failIf (operands && m.mode == 0 && early m.slotB) (0x0d, m.slb, 0, 0),
    failIf (aSlot && !m.pairOk) (0x0c, 5, 0, 0)]
    ++ m.uses.map m.useCheck ++ cb ++ m.uses.map (s.usePath o m))

/-! ### The queue (R250, R253, R263) -/

/-- Entries of a core's queue in use, quarters on their way included. -/
def State.matUsed (s : State) (core : Nat) : Nat := (s.core core).mat.length + (s.core core).matIn.length

/-- The scratchpad ranges that an operation writes (R262). -/
def MatOp.owned (m : MatOp) (o : Origin) : List (Nat × Nat) :=
  let row (u : CapUse) (r : Nat) : Nat × Nat := ((copyKey o (m.useAt u r 0)).2, u.len)
  let out (u : CapUse) : List (Nat × Nat) :=
    if pathOf (m.cap u.at_).base = 2 ∨ pathOf (m.cap u.at_).base = 4 then (List.range u.rows).map (row u) else []
  match m.fn with
  | 3 => (m.uses.map out).flatten
  | 4 => ((m.uses.filter fun u => u.at_ == 0x10).map out).flatten
  | 7 => if m.opn = 1 then (m.uses.map out).flatten else []
  | _ => []

/-- The registers that MDRN in register mode writes: the words of v(VBASE + j) in lane i (R269). -/
def MatOp.regs (m : MatOp) : List (Nat × Nat) :=
  let k := m.wbs.getD 64 1
  ((List.range m.rows).map fun i => (List.range m.cols).map fun j => (i, m.wbs.getD i 0 + k * (m.vbase + j))).flatten

/-- The operation's pend, with its registers. -/
def MatOp.pendOf (m : MatOp) (o : Origin) (lpass : Bool) (cores : List Nat) (p : Pend) : Pend :=
  let rs := if m.fn = 4 ∧ m.dmode then m.regs else []
  { p with kind := .matrix cores, born := .matrix cores, owns := m.owned o,
           dests := if lpass then (rs.map fun x => [Reg.word x.1 x.2, Reg.word x.1 (x.2 + 1)]).flatten
                    else rs.map fun x => Reg.word x.1 x.2,
           vals := if lpass then [] else rs.map fun _ => 0,
           ivs := if lpass then rs.map fun x => ⟨x.1, x.2, 32, 0, 0, ⟨3, false, false⟩, false⟩ else [] }

/-- The quarters of an operation: core, and the operation there. -/
def MatOp.parts (m : MatOp) (core : Nat) : List (Nat × MatOp) :=
  if m.fn = 2 then
    [(0, 0), (0, 1), (1, 0), (1, 1)].filterMap fun (i, j) =>
      let q := { m with qi := i, qj := j, coreA := core + 16 * i, coreB := core + j }
      if q.qrows = 0 ∨ q.qcols = 0 then none else some (core + 16 * i + j, q)
  else [(core, m)]

/-- Put the parts of an operation into the queues: the origin's at once, the others on their way. -/
def State.enqueue (s : State) (core : Nat) (ps : List (Nat × MatOp)) : State :=
  ps.foldl (fun s x =>
    if x.1 = core then s.modCore core fun k => { k with mat := k.mat ++ [x.2] }
    else s.modCore x.1 fun k => { k with matIn := k.matIn ++ [x.2] }) s

/-- Issue an operation whose block has been read (R253, R254). -/
def Ctx.matIssue (f : Form) (c : Ctx) (o : Origin) (m : MatOp) (his : List Nat) (s : State) : Res :=
  let args := ((s.gridOf c.g).map (·.args)).getD []
  match s.matCheck o m his args with
  | some (cause, sub, addr, info) => c.trapOn f cause sub addr info
  | none =>
    let need := if m.fn = 2 then [c.r.core, c.r.core + 1, c.r.core + 16, c.r.core + 17] else [c.r.core]
    if need.any fun k => s.matUsed k ≥ 8 then .stall s
    else
      let ps := m.parts c.r.core
      let id := c.g.nextId
      let s := c.start f s .fence [] []
      .next ((s.modPend c.r id (m.pendOf o c.g.lpass (ps.map (·.1)))).enqueue c.r.core ps)

/-- An operation of a group before its block is known. -/
def Ctx.matNew (c : Ctx) (fn : Nat) (block : List Byte) (tags : List Bool) : MatOp :=
  { fn := fn, ref := c.r, ten := if c.sys then 0 else c.g.ten, pend := c.g.nextId, pc := c.pc, len := c.len, block := block,
    tags := tags, slots := [], fopd := c.g.fopd, fopdFar := c.g.fopdFar, qi := 0, qj := 0, coreA := c.r.core, coreB := c.r.core,
    wbs := (List.range 64).map (fun l => (c.g.thread l).wb) ++ [c.g.regWords], run := false, unit := 0, step := 0, why := none }

/-- A matrix instruction (R252 to R254). -/
def Ctx.matrix (fn : Nat) (f : Form) (c : Ctx) (s : State) : Res :=
  let a := (c.g.read c.tk f.lit 64 0 f.a + c.g.read c.tk f.lit 64 0 f.b) % 2 ^ 64
  let o := s.origin c.r c.g
  if s.matUsed c.r.core ≥ 8 then .stall s
  else if fn = 5 then c.matIssue f o (c.matNew fn (leBytes 8 (c.g.read c.tk f.lit 64 0 f.a)) []) [] s
  else if pathOf a != 2 || slice a 59 22 != 0 then c.trapOn f 0x0a 0 a 0
  else if a % 128 != 0 then c.trapOn f 0x09 0 a 0
  else
    let off := slice a 21 0
    let tags := (List.range 8).map fun i => (s.core c.r.core).stags.contains (off / 16 + i)
    let m := c.matNew fn (s.spadLoad c.r.core off 128) tags
    let sl := [m.sla, m.slb, m.slc].map (s.slot c.g)
    c.matIssue f o { m with slots := sl.map fun x => BitVec.ofNat 64 x.1 } (sl.map (·.2)) s

/-! ### The accumulator store (R251, R256) -/

/-- A cell. -/
def Core.cell (k : Core) (r c : Nat) : Nat := ((mget k.acc (1024 * r + c)).getD 0).toNat
/-- Write a cell; a cell of 0 is not listed. -/
def Core.setCell (k : Core) (r c v : Nat) : Core :=
  { k with acc := if v = 0 then mdel k.acc (1024 * r + c) else mset k.acc (1024 * r + c) (BitVec.ofNat 32 v) }
/-- A value of cw cells. -/
def Core.getAcc (k : Core) (cw r c : Nat) : Nat := if cw = 2 then k.cell r c + k.cell r (c + 1) * 2 ^ 32 else k.cell r c
/-- Write a value of cw cells. -/
def Core.putAcc (k : Core) (cw r c v : Nat) : Core :=
  if cw = 2 then (k.setCell r c (v % 2 ^ 32)).setCell r (c + 1) (v / 2 ^ 32) else k.setCell r c v
/-- Write a run of values of a row. -/
def Core.putRow (k : Core) (cw r c : Nat) : List Nat → Core
  | [] => k
  | v :: vs => (k.putAcc cw r c v).putRow cw r (c + cw) vs
/-- Side registers of a row: m and l. -/
def Core.sideOf (k : Core) (r : Nat) : Nat × Nat := match mget k.side r with
  | some (m, l) => (m.toNat, l.toNat)
  | none => (0, 0)
/-- Write the side registers of a row. -/
def Core.setSide (k : Core) (r m l : Nat) : Core := { k with side := mset k.side r (BitVec.ofNat 32 m, BitVec.ofNat 32 l) }

/-! ### Units (R259, R262, R263, R266, R268, R270 to R273) -/

/-- Units of an operation on this core. -/
def MatOp.units (m : MatOp) : Nat :=
  match m.fn with
  | 1 => ceilDiv m.qrows 64 * ceilDiv m.qcols 64 * ceilDiv m.kdim 256
  | 2 => ceilDiv m.qrows 64 * ceilDiv m.qcols 64 * ceilDiv m.kdim 256
  | 7 => ceilDiv m.rows 32
  | _ => m.rows

/-- Units done. -/
def MatOp.past (m : MatOp) : Nat := if m.fn ≤ 2 then m.unit * ceilDiv m.kdim 256 + m.step else m.unit

/-- The next unit: the next K step, sub-tile or row. -/
def MatOp.go (m : MatOp) : MatOp :=
  if m.fn ≤ 2 ∧ m.step + 1 < ceilDiv m.kdim 256 then { m with step := m.step + 1 }
  else { m with unit := m.unit + 1, step := 0 }

/-- An engine's read of n bytes for an operation; the operands of an MMAC lie on the core that holds the half. -/
def State.matRead (s : State) (o : Origin) (holder : Option Nat) (a n : Nat) : List Byte :=
  match holder with
  | some c => s.spadRead c (slice a 21 0) n
  | none => match (s.engineRead o a n).2 with
    | .bytes bs => s.spzVeil o.r.core a bs
    | _ => (List.range n).map fun i => Config.undefByte s.ticket (a + i)

/-- The blocks b0 to b0 + nb − 1 of a row of a plane tile of `rows` rows. -/
def State.planeRow (s : State) (o : Origin) (holder : Option Nat) (base rows kb k p i b0 nb : Nat) (b1 : Bool) : List PBlock :=
  let ps := s.matRead o holder ((base + 4 * p * (i * kb + b0)) % 2 ^ 64) (4 * p * nb)
  let xs := s.matRead o holder ((base + 4 * p * rows * kb + 2 * (i * kb + b0)) % 2 ^ 64) (2 * nb)
  (List.range nb).map fun b =>
    PBlock.decode b1 p (k - 32 * (b0 + b)) ((ps.drop (4 * p * b)).take (4 * p)) (elemAt xs 16 b)

/-- An operand of an MMA: offset of its capability, slot, rows of its tile, offset and the core that holds it. -/
structure Operand where
  at_  : Nat
  slot : Nat
  rows : Nat
  off  : Nat
  hold : Option Nat
deriving DecidableEq, Repr

/-- The A operand. -/
def MatOp.opA (m : MatOp) : Operand := ⟨0x10, m.slotA, m.qrows, m.off30, if m.fn = 2 then some m.coreA else none⟩
/-- The B operand. -/
def MatOp.opB (m : MatOp) : Operand := ⟨0x20, m.slotB, m.qcols, m.off38, if m.fn = 2 then some m.coreB else none⟩

/-- Rows i0 to i1 − 1 of an operand's plane blocks in a step. -/
def State.planeRows (s : State) (o : Origin) (m : MatOp) (x : Operand) (i0 i1 b0 nb : Nat) : List (List PBlock) :=
  let p := slotP x.slot
  let b1 := slotFmt x.slot == 0 && p == 1
  (List.range (i1 - i0)).map fun i =>
    s.planeRow o x.hold ((m.cap x.at_).base + x.off) x.rows m.kblocks m.kdim p (i0 + i) b0 nb b1

/-- Rows of an operand's codes in a step of log mode. -/
def State.logRows (s : State) (o : Origin) (m : MatOp) (x : Operand) (i0 i1 k0 n : Nat) : List (List Nat) :=
  (List.range (i1 - i0)).map fun i =>
    (s.matRead o x.hold (((m.cap x.at_).base + x.off + 64 * (i0 + i) * (m.cap x.at_).pitch + k0) % 2 ^ 64) n).map (·.toNat)

/-- The step values of a sub-tile. -/
def State.stepValues (s : State) (o : Origin) (m : MatOp) (i0 i1 j0 j1 k0 n : Nat) : List (List Step) :=
  if m.mode = 0 then
    let nb := ceilDiv n 32
    let as_ := s.planeRows o m m.opA i0 i1 (k0 / 32) nb
    let bs := s.planeRows o m m.opB j0 j1 (k0 / 32) nb
    as_.map fun a => bs.map fun b => planeStep (a.zip b)
  else
    let as_ := s.logRows o m m.opA i0 i1 k0 n
    let bs := s.logRows o m m.opB j0 j1 k0 n
    as_.map fun a => bs.map fun b => logStep (slotFmt m.slotA) (slotFmt m.slotB) (a.zip b)

/-- Add a row of step values. -/
def Core.addRow (k : Core) (w open_ cw r c : Nat) : List Step → Core
  | [] => k
  | s :: ss => (k.putAcc cw r c (stepAdd w open_ (k.getAcc cw r c) s)).addRow w open_ cw r (c + cw) ss

/-- Add rows of step values. -/
def Core.addRows (k : Core) (w open_ cw r c : Nat) : List (List Step) → Core
  | [] => k
  | s :: ss => (k.addRow w open_ cw r c s).addRows w open_ cw (r + 1) c ss

/-- Zero some rows of cells. -/
def Core.zeroCells (k : Core) (r c m n : Nat) : Core :=
  { k with acc := k.acc.filter fun x => !(r ≤ x.1 / 1024 && x.1 / 1024 < r + m && c ≤ x.1 % 1024 && x.1 % 1024 < c + n) }

/-- A unit of an MMA or an MMAC quarter: one sub-tile K step (R259). -/
def State.mmaUnit (s : State) (view : State) (o : Origin) (core : Nat) (m : MatOp) : State :=
  let nc := ceilDiv m.qcols 64
  let i0 := m.unit / nc * 64
  let j0 := m.unit % nc * 64
  let i1 := min m.qrows (i0 + 64)
  let j1 := min m.qcols (j0 + 64)
  let k0 := m.step * 256
  let r := m.row0 + i0
  let c := m.col0 + m.cw * j0
  let open_ := (Config.undefDWord s.ticket 64 0).toNat % 2 ^ 32
  let vs := view.stepValues o m i0 i1 j0 j1 k0 (min 256 (m.kdim - k0))
  s.modCore core fun k =>
    (if m.chain = 1 ∧ m.step = 0 then k.zeroCells r c (i1 - i0) (m.cw * (j1 - j0)) else k).addRows m.slotC open_ m.cw r c vs

/-- The P tile's bytes of a row: planes and exponents. -/
def smxBytes (p : Nat) (vals : List Nat) : List Byte × List Byte :=
  let block (b : Nat) : Int × List Int := planeBlock p (pad32 (.fin false 0 0) (((vals.drop (32 * b)).take 32).map fp32.unpack))
  let bs := (List.range (ceilDiv vals.length 32)).map block
  ((bs.map fun x => planeBytes p x.2).flatten, (bs.map fun x => leBytes 2 (pat 16 x.1)).flatten)

/-- An operation's write on the scratchpad paths; an address that no longer decodes is not written. -/
def State.matWrite (s : State) (o : Origin) (m : MatOp) (a : Nat) (bs : List Byte) : State × Option EGot :=
  match s.engineWrite o a bs (some (m.ref, m.pend)) with
  | (s, some (.path _)) => (s, none)
  | x => x

/-- A unit of MSMX: one row. The exponents lie after all planes (R266). -/
def State.smxUnit (s : State) (o : Origin) (core : Nat) (m : MatOp) : State :=
  let i := m.unit
  let k := s.core core
  let r := m.row0 + i
  let sd := k.sideOf r
  let x := smxRow (slice (m.dw 0x40) 31 0) sd.1 sd.2 ((List.range m.cols).map fun j => k.cell r (m.col0 + j))
  let orow := slice (m.dw 0x38) 9 0 + i
  let ocol := slice (m.dw 0x38) 25 16
  let k := k.putRow 1 orow ocol ((List.range m.on_).map fun c => f32Mul (k.cell orow (ocol + c)) x.a)
  let s := s.setCore core (k.setSide r x.m x.l)
  let p := slotP m.slotA
  let nb := ceilDiv m.cols 32
  let bytes := smxBytes p x.p
  let base := (m.cap 0x10).base + m.off30
  let s := (s.matWrite o m ((base + 4 * p * nb * i) % 2 ^ 64) bytes.1).1
  (s.matWrite o m ((base + 4 * p * nb * m.rows + 2 * nb * i) % 2 ^ 64) bytes.2).1

/-- The drained elements of row i (R268). -/
def State.drainRow (s : State) (view : State) (o : Origin) (core : Nat) (m : MatOp) (i : Nat) : List Nat :=
  let k := s.core core
  let w := m.slotC
  let cell (j : Nat) : Nat := k.getAcc m.cw (m.row0 + i) (m.col0 + m.cw * j)
  let rbs := if m.res then
      view.matRead o none (((m.cap 0x20).base + m.off38 + 64 * i * (m.cap 0x20).pitch) % 2 ^ 64) (4 * m.cw * m.cols)
    else []
  (List.range m.cols).map fun j =>
    let v := if m.res then residualAdd w (cell j) (elemAt rbs (32 * m.cw) j) else cell j
    let v := if m.dropout then
        (if philox (m.dw 0x48) (m.dw 0x58 + j) (m.dw 0x50 / 2 ^ 32 + i) (m.dw 0x50) < m.dw 0x40 / 2 ^ 32 then
          fp32.packInf (slotRnd w) (slotSat w) ((fp32.unpack v).mul (fp32.unpack (m.dw 0x40 % 2 ^ 32)))
         else 0)
      else v
    drnConvert w v

/-- Row i of a drain reaches the registers of its pend (R269). -/
def Pend.drainRegs (n i : Nat) (vs : List Nat) (p : Pend) : Pend :=
  let put {α : Type} (xs : List α) (f : α → Nat → α) : List α :=
    (xs.zip (List.range xs.length)).map fun x => if x.2 / n = i then f x.1 (vs.getD (x.2 % n) 0) else x.1
  { p with vals := put p.vals fun _ v => BitVec.ofNat 64 v,
           ivs := put p.ivs fun d v => { d with lo := BitVec.ofNat 64 v, hi := BitVec.ofNat 64 v } }

/-- The rows that a drain into registers has done reach the registers of its group as it is frozen (R269). -/
def MatOp.settle (tk : Nat) (m : MatOp) (g : Group) : Group :=
  match g.pend.find? fun p => p.id == m.pend with
  | none => g
  | some p =>
    if m.fn != 4 || !m.dmode then g
    else if p.ivs.isEmpty then ((p.dests.zip p.vals).take (m.unit * m.cols)).foldl (Group.land tk p) g
    else (p.ivs.take (m.unit * m.cols)).foldl (Group.landIv tk) g

/-- The other way round: the rows that a restored drain has done are those that the registers hold (R269). -/
def MatOp.resume (tk : Nat) (m : MatOp) (g : Group) (p : Pend) : Pend :=
  let done {α : Type} (xs : List α) (f : α → α) : List α := (xs.take (m.unit * m.cols)).map f ++ xs.drop (m.unit * m.cols)
  { p with vals := (p.vals.zip p.dests).zip (List.range p.vals.length) |>.map fun x => match x.1.2 with
             | .word l w => if x.2 < m.unit * m.cols then (g.stored tk l w).setWidth 64 else x.1.1
             | _ => x.1.1,
           ivs := done p.ivs fun d => { d with lo := (g.stored tk d.lane d.w).setWidth 64,
                                               hi := (g.stored tk d.lane (d.w + 1)).setWidth 64 } }

/-- A unit of MDRN: one row; a fault of its destination stops the engine there (R270). -/
def State.drainUnit (s : State) (view : State) (o : Origin) (core : Nat) (m : MatOp) : State × Option EGot :=
  let i := m.unit
  let vs := s.drainRow view o core m i
  let clear (s : State) : State :=
    if m.clr then s.modCore core fun k => k.zeroCells (m.row0 + i) m.col0 1 (m.cw * m.cols) else s
  if m.dmode then (clear (s.modPend m.ref m.pend (Pend.drainRegs m.cols i vs)), none)
  else
    match s.matWrite o m (((m.cap 0x10).base + m.off30 + 64 * i * (m.cap 0x10).pitch) % 2 ^ 64) (packElems (drnWidth m.slotC) vs) with
    | (s, some e) => (s, some e)
    | (s, none) => (clear s, none)

/-- A unit of MLDA: one row. -/
def State.loadUnit (s : State) (view : State) (o : Origin) (core : Nat) (m : MatOp) : State :=
  let bs := view.matRead o none (((m.cap 0x10).base + m.off30 + 64 * m.unit * (m.cap 0x10).pitch) % 2 ^ 64) (4 * m.cols)
  s.modCore core fun k => k.putRow 1 (m.row0 + m.unit) m.col0 ((List.range m.cols).map fun j => elemAt bs 32 j)

/-- A unit of MSIDE: up to 32 rows (R264). -/
def State.sideUnit (s : State) (view : State) (o : Origin) (core : Nat) (m : MatOp) : State :=
  let i0 := 32 * m.unit
  let n := min m.rows (i0 + 32) - i0
  let a := ((m.cap 0x10).base + m.off30 + 8 * i0) % 2 ^ 64
  let r := m.row0 + i0
  match m.opn with
  | 0 => s.modCore core fun k => (List.range n).foldl (fun k i => k.setSide (r + i) f32NegInf 0) k
  | 1 =>
    let k := s.core core
    (s.matWrite o m a (((List.range n).map fun i => leBytes 4 (k.sideOf (r + i)).1 ++ leBytes 4 (k.sideOf (r + i)).2).flatten)).1
  | _ =>
    let bs := view.matRead o none a (8 * n)
    s.modCore core fun k => (List.range n).foldl (fun k i => k.setSide (r + i) (elemAt bs 32 (2 * i)) (elemAt bs 32 (2 * i + 1))) k

/-- One unit of an operation: the state, and what stopped it. -/
def State.matUnit (s : State) (core : Nat) (m : MatOp) : State × Option EGot :=
  let team := ((s.group? m.ref).map (·.team)).getD 0
  let o := s.engineOrigin m.ref m.ten team
  let view := s.fopView ((s.group? m.ref).map (s.gidOf m.ref)) m.fopd m.fopdFar
  match m.fn with
  | 3 => (s.smxUnit o core m, none)
  | 4 => s.drainUnit view o core m
  | 5 => (s.modCore core fun k => k.zeroCells (m.row0 + m.unit) m.col0 1 m.cols, none)
  | 6 => (s.loadUnit view o core m, none)
  | 7 => (s.sideUnit view o core m, none)
  | _ => (s.mmaUnit view o core m, none)

/-- The head of a core's queue changed. -/
def State.modMat (s : State) (core : Nat) (f : MatOp → MatOp) : State :=
  s.modCore core fun k => { k with mat := match k.mat with
    | [] => []
    | m :: r => f m :: r }

/-- The engine runs one unit of its running operation. A freezing tenant's operation stops after its current unit. -/
def State.matStep (s : State) (core : Nat) : State :=
  match (s.core core).mat with
  | [] => s
  | m :: _ =>
    if !m.run || m.past ≥ m.units || m.why == some .record || s.stopped m.ten || (s.core core).halted then s
    else match s.matUnit core m with
      | (s, none) => s.modMat core fun m => { m.go with why := none }
      | (s, some (.fault sub a)) =>
        (s.modMat core fun m => { m with why := some .record }).engineFault m.ten m.ref sub m.len m.pc a 2 0
      | (s, some (.wait w)) => s.modMat core fun m => { m with why := some w }
      | (s, some _) => s.modMat core fun m => m.go

/-- The operation at the head is complete on this core: with its last core the flag is decremented (R253). -/
def State.matDone (s : State) (core : Nat) : State :=
  match (s.core core).mat with
  | [] => s
  | m :: r =>
    if m.run && m.past ≥ m.units && !s.stopped m.ten && !(s.core core).halted then
      let s := s.modCore core fun k => { k with mat := r }
      let s := s.modPend m.ref m.pend fun p => match p.kind with
        | .matrix cs => { p with kind := .matrix (cs.erase core) }
        | _ => p
      match (s.group? m.ref).bind fun g => g.pend.find? fun p => p.id == m.pend with
      | some p => if p.kind == .matrix [] then s.complete m.ref m.pend else s
      | none => s
    else s

/-- The retry of a drain's faulting row, by ERET (R270, R374). -/
def State.matRetry (s : State) (core : Nat) : State :=
  s.modMat core fun m => if m.why == some .record then { m with why := none } else m

/-! ### Meanings -/

/-- The rules of a matrix instruction (R252). -/
def matRules : Rules := Rules.once true none (srcF isS) (srcF fun o => isSZ o || o == .lit) none 64

/-- MMA (R257 to R259). -/
def execMma (f : Form) (s : State) : Host.Outcome State Fault Refusal := s.issueForm matRules f (Ctx.matrix 1 f)
/-- MMAC (R263). -/
def execMmac (f : Form) (s : State) : Host.Outcome State Fault Refusal := s.issueForm matRules f (Ctx.matrix 2 f)
/-- MSMX (R265, R266). -/
def execMsmx (f : Form) (s : State) : Host.Outcome State Fault Refusal := s.issueForm matRules f (Ctx.matrix 3 f)
/-- MDRN (R267 to R270). -/
def execMdrn (f : Form) (s : State) : Host.Outcome State Fault Refusal := s.issueForm matRules f (Ctx.matrix 4 f)
/-- MZERO (R271). -/
def execMzero (f : Form) (s : State) : Host.Outcome State Fault Refusal :=
  s.issueForm { matRules with a := srcF isSL, b := none } f (Ctx.matrix 5 f)
/-- MLDA (R272). -/
def execMlda (f : Form) (s : State) : Host.Outcome State Fault Refusal := s.issueForm matRules f (Ctx.matrix 6 f)
/-- MSIDE (R264). -/
def execMside (f : Form) (s : State) : Host.Outcome State Fault Refusal := s.issueForm matRules f (Ctx.matrix 7 f)

/-- MATRIX_OPERATION_START (R250): the operation at the head of an engine's queue starts. -/
def execMatrixOperationStart (core : Nat) (s : State) : Host.Outcome State Fault Refusal :=
  match (s.core core).mat with
  | m :: _ => .next (if m.run || s.stopped m.ten then s else s.modMat core fun m => { m with run := true })
  | [] => .next s

/-- MATRIX_UNIT (R259, R264, R266, R268, R271 to R273): the running operation's next unit. -/
def execMatrixUnit (core : Nat) (s : State) : Host.Outcome State Fault Refusal := .next (s.matStep core)

/-- MATRIX_OPERATION_COMPLETE (R253, R260): the operation at the head leaves the queue. -/
def execMatrixOperationComplete (core : Nat) (s : State) : Host.Outcome State Fault Refusal := .next (s.matDone core)

/-- MMAC_QUARTER_ENQUEUE (R263): the oldest quarter on its way to a core enters its queue. -/
def execMmacQuarterEnqueue (core : Nat) (s : State) : Host.Outcome State Fault Refusal :=
  match (s.core core).matIn with
  | [] => .next s
  | m :: r => .next (s.modCore core fun k => { k with mat := k.mat ++ [m], matIn := r })

end Sys2Proof.Machine
end

