-- ==== Sys2Proof/Machine/Strand.lean ====
section
/-! DEFINITION. The Strand engine: sessions, posting blocks, plans and their arithmetic, block-max skipping, and the four
Strand instructions (R339 to R354). -/

namespace Sys2Proof.Machine

open Sys2Proof

/-- A session of a core. -/
def Core.session (k : Core) (n : Nat) : Session := k.sess.getD n Session.reset
/-- The state with one session changed. -/
def State.modSess (s : State) (core n : Nat) (f : Session → Session) : State :=
  s.modCore core fun k => { k with sess := lput Session.reset k.sess n (f (k.session n)) }
/-- The number of a session within its quad (R339). -/
def sessNumber (core n : Nat) : Nat := 2 * (core % 16 % 2 + 2 * (core / 16 % 2)) + n
/-- The state codes of R340. -/
def SessState.code : SessState → Nat
  | .closed => 0
  | .opened => 1
  | .run => 2
  | .done => 3
  | .fault => 4
  | .held => 5
/-- Is a session busy (R340)? -/
def Session.busy (x : Session) : Bool := x.st == .run || x.st == .held

/-! ### Plans (R343) -/

/-- OPC. -/
def planOp (w : Nat) : Nat := slice w 63 60
/-- STR of LIST. -/
def planStr (w : Nat) : Nat := slice w 58 56
/-- NBLK of LIST. -/
def planBlk (w : Nat) : Nat := slice w 23 0
/-- N of AND and OR. -/
def planN (w : Nat) : Nat := slice w 3 0
/-- K of TOPK. -/
def planK (w : Nat) : Nat := slice w 8 0

/-- The bits below OPC that an operator assigns; `none` for a reserved OPC. -/
def planBits (w : Nat) : Option Nat :=
  match planOp w with
  | 1 => some (7 * 2 ^ 56 + 0xffffff)
  | 2 => some 15
  | 3 => some 15
  | 4 => some 0x3ffff
  | 5 => some 0
  | 6 => some 0xffffffff
  | 7 => some 0x1ff
  | _ => none

/-- Is a plan word an operator with its unassigned bits 0? -/
def planZeroOk (w : Nat) : Bool :=
  match planBits w with
  | none => false
  | some m => (w % 2 ^ 60) &&& m == w % 2 ^ 60

/-- Are N, K, NBLK and STR of a word in range? -/
def planRangeOk (nstr w : Nat) : Bool :=
  match planOp w with
  | 1 => planBlk w ≥ 1 && planStr w < nstr
  | 2 => 2 ≤ planN w && planN w ≤ 8
  | 3 => 2 ≤ planN w && planN w ≤ 8
  | 7 => 1 ≤ planK w && planK w ≤ 256
  | _ => true

/-- The kinds of stream: L, S and D. -/
inductive StreamKind where
  | l | s | d
deriving DecidableEq, Repr

/-- The stack of kinds, top first, after one word; `prev` is the word before. `none`: the plan breaks a rule. -/
def planStep (prev w : Nat) (last : Bool) (st : List StreamKind) : Option (List StreamKind) :=
  match planOp w with
  | 1 => if st.length < 8 then some (.l :: st) else none
  | 2 => if st.length < planN w || (st.take (planN w)).contains .d then none else some (.s :: st.drop (planN w))
  | 3 => if st.length < planN w || (st.take (planN w)).contains .d then none else some (.s :: st.drop (planN w))
  | 4 => if planOp prev = 1 then some (.s :: st.drop 1) else none
  | 5 => match st with
    | .l :: r => some (.d :: r)
    | .s :: r => some (.d :: r)
    | _ => none
  | 6 => match st with
    | .d :: r => some (.s :: r)
    | _ => none
  | _ => if last && st.length == 1 then some [] else none

/-- Does a plan keep the kind and stack rules? -/
def planOk (prev : Nat) (st : List StreamKind) : List Nat → Bool
  | [] => false
  | [w] => planOp w == 7 && planStep prev w true st == some []
  | w :: r => planOp w != 7 && (match planStep prev w false st with
    | some st => planOk w st r
    | none => false)

/-- The LIST words of a plan. -/
def Session.lists (x : Session) : List Nat := (x.plan.map (·.toNat)).filter fun w => planOp w == 1
/-- Does the plan hold DENSE? -/
def Session.dense (x : Session) : Bool := x.plan.any fun w => planOp w.toNat == 5

/-! ### The engine's reads (R341, R342, R353) -/

/-- Why a block or a document cannot be finished: the session's status, a translation fault, a wait. -/
inductive Halt where
  | status (code : Nat)
  | fault (sub addr : Nat)
  | wait (why : HoldWhy)
deriving DecidableEq, Repr

/-- Read n bytes at an offset of a capability; outside of it BOUNDS, off the engine's paths PATH (R348, R349). -/
def State.strandRead (s : State) (o : Origin) (c : Cap) (off n : Nat) : State × Except Halt (List Byte) :=
  if off + n > c.len then (s, .error (.status 5))
  else if n = 0 then (s, .ok [])
  else
    let a := (c.base + off) % 2 ^ 64
    if !([0, 1, 2, 4, 7].contains (pathOf a)) then (s, .error (.status 7))
    else match s.engineLoad o a n with
      | (s, .bytes bs) => (s, .ok bs)
      | (s, .fault c at_) => (s, .error (.fault c at_))
      | (s, .wait w) => (s, .error (.wait w))
      | (s, .path _) => (s, .error (.status 7))

/-- A block header's fields. -/
structure Header where
  first  : Nat
  last   : Nat
  poff   : Nat
  tw     : Nat
  impact : Nat
  count  : Nat
  dw     : Nat
  bad    : Bool
deriving DecidableEq, Repr

/-- The header that 128 bits hold (R341). -/
def headerOf (h : Nat) : Header :=
  { first := slice h 31 0, last := slice h 63 32, poff := slice h 91 64, tw := slice h 95 92, impact := slice h 111 96,
    count := slice h 118 112 + 1, dw := slice h 124 120, bad := bit h 119 || slice h 127 125 != 0 }

/-- The document ids from deltas. -/
def docsFrom (bits dw doc b : Nat) : Nat → List Nat
  | 0 => []
  | n + 1 =>
    let d := doc + bits / 2 ^ b % 2 ^ dw + 1
    d :: docsFrom bits dw d (b + dw) n

/-- Bytes of a block's payload. -/
def Header.bytes (h : Header) : Nat := ceilDiv ((h.count - 1) * h.dw + h.count * h.tw) 8

/-- The postings of a block, or `none` when it is malformed (R342). -/
def Header.postings (h : Header) (before : Option Nat) (bits : Nat) : Option (List Posting) :=
  let docs := h.first :: docsFrom bits h.dw h.first 0 (h.count - 1)
  let tfs := (List.range h.count).map fun i => bits / 2 ^ ((h.count - 1) * h.dw + i * h.tw) % 2 ^ h.tw + 1
  let low := match before with
    | some l => decide (h.first ≤ l)
    | none => false
  if h.bad || docs.getLast? != some h.last || docs.any (fun d => d > 0xfffffffe) || low then none
  else some ((docs.zip tfs).map fun x => ⟨x.1, x.2⟩)

/-! ### Scores (R343 to R346) -/

/-- An element of a stream at one document: s, and ds after DENSE. -/
structure Elem where
  s  : Int
  ds : Int
deriving DecidableEq, Repr

/-- A score limited to 32 bits. -/
def clamp32 (v : Int) : Int := clamp v (-(2 ^ 31 : Nat)) ((2 ^ 31 - 1 : Nat))
/-- SCORE's contribution (R344). -/
def scoreOf (tables : List (BitVec 16)) (w tf bucket : Nat) : Int :=
  let f := min tf 16 - 1
  let c := slice w 15 0 * (tables.getD (256 * slice w 17 16 + 16 * f + bucket % 16) 0).toNat
  (min c (2 ^ 31 - 1) : Nat)
/-- ds of a binary32 value (R345). -/
def denseOf (x : Nat) : Int :=
  match fp32.unpack x with
  | .nan => -(2 ^ 31 : Nat)
  | .inf n => if n then -(2 ^ 31 : Nat) else (2 ^ 31 - 1 : Nat)
  | .fin n m e => (Flo.fin n m (e + 16)).toRange 0 (-(2 ^ 31 : Nat)) ((2 ^ 31 - 1 : Nat))
/-- FUSE's score (R345). -/
def fuseOf (w : Nat) (e : Elem) : Int :=
  let v := sgn 16 (slice w 31 16) * e.s + sgn 16 (slice w 15 0) * e.ds
  (Flo.ofInt false v (-8)).toRange 0 (-(2 ^ 31 : Nat)) ((2 ^ 31 - 1 : Nat))
/-- Does an element rank above another (R346)? -/
def ranksAbove (a b : Nat × Int) : Bool := a.2 > b.2 || (a.2 == b.2 && a.1 < b.1)
/-- A ranked list with one more element. -/
def rankIn (k : Nat) (l : List (Nat × Int)) (x : Nat × Int) : List (Nat × Int) := (oins ranksAbove x l).take k
/-- The sum of AND and OR. -/
def sumClamped (es : List Elem) : Elem := ⟨clamp32 (es.foldl (fun n e => n + e.s) 0), 0⟩

/-- Evaluate one word at a document. `i` counts the LIST words passed, `tf` is the posting of the LIST just before. -/
def State.planWord (s : State) (o : Origin) (x : Session) (doc : Nat) (w : Nat) (st : List (Option Elem)) (i : Nat) (tf : Nat) :
    State × Except Halt (List (Option Elem) × Nat × Nat) :=
  match planOp w with
  | 1 =>
    match (x.posts.getD i []).find? fun p => p.doc == doc with
    | some p => (s, .ok (some ⟨0, 0⟩ :: st, i + 1, p.tf))
    | none => (s, .ok (none :: st, i + 1, 0))
  | 2 =>
    let xs := st.take (planN w)
    (s, .ok ((if xs.all Option.isSome then some (sumClamped (xs.filterMap id)) else none) :: st.drop (planN w), i, 0))
  | 3 =>
    let xs := st.take (planN w)
    (s, .ok ((if xs.any Option.isSome then some (sumClamped (xs.filterMap id)) else none) :: st.drop (planN w), i, 0))
  | 4 => match st with
    | some _ :: r => (match s.strandRead o x.dlen doc 1 with
      | (s, .ok bs) => (s, .ok (some ⟨scoreOf x.tables w tf (ofLe bs % 16), 0⟩ :: r, i, 0))
      | (s, .error e) => (s, .error e))
    | st => (s, .ok (st, i, 0))
  | 5 => match st with
    | some e :: r => (match s.strandRead o x.dvec (4 * doc) 4 with
      | (s, .ok bs) => (s, .ok (some { e with ds := denseOf (ofLe bs) } :: r, i, 0))
      | (s, .error e) => (s, .error e))
    | st => (s, .ok (st, i, 0))
  | 6 => match st with
    | some e :: r => (s, .ok (some ⟨fuseOf w e, 0⟩ :: r, i, 0))
    | st => (s, .ok (st, i, 0))
  | _ => (s, .ok (st, i, tf))

/-- Evaluate a plan at a document: the element that reaches TOPK, if any. -/
def State.planAt (s : State) (o : Origin) (x : Session) (doc : Nat) :
    List Nat → List (Option Elem) → Nat → Nat → State × Except Halt (Option Elem)
  | [], st, _, _ => (s, .ok (st.headD none))
  | w :: r, st, i, tf => match s.planWord o x doc w st i tf with
    | (s, .ok (st, i, tf)) => s.planAt o x doc r st i tf
    | (s, .error e) => (s, .error e)

/-! ### A run (R339, R340, R347) -/

/-- Has every block of LIST word i been decoded or left? -/
def Session.exhausted (x : Session) (i : Nat) : Bool := x.cur.getD i 0 ≥ planBlk (x.lists.getD i 0)
/-- The LIST words that still have blocks. -/
def Session.openLists (x : Session) : List Nat := (List.range x.lists.length).filter fun i => !x.exhausted i
/-- Is a document complete: every open LIST has come to it or past it? -/
def Session.complete (x : Session) (doc : Nat) : Bool :=
  x.openLists.all fun i => match x.last.getD i none with
    | some l => doc ≤ l
    | none => false
/-- The lowest document not yet evaluated. -/
def Session.nextDoc (x : Session) : Option Nat :=
  (x.posts.flatten.map (·.doc)).foldl (fun m d => match m with
    | none => some d
    | some e => some (min d e)) none
/-- The document up to which every one is dealt with: the open LISTs have passed it, and no posting up to it is held (R354). -/
def Session.frontier (x : Session) : Option Nat :=
  let low (a : Option Nat) (b : Option (Option Nat)) : Option Nat := match b, a with
    | none, a => a
    | some (some l), some m => some (min m l)
    | some _, _ => none
  let top := match x.nextDoc with
    | some d => if d = 0 then none else some (d - 1)
    | none => some (2 ^ 32 - 1)
  let f := x.openLists.foldl (fun m i => low m (some (x.last.getD i none))) top
  match f, x.floor with
  | some a, some b => some (max a b)
  | none, b => b
  | a, none => a

/-- The LIST that decodes next: one that lies furthest behind. -/
def Session.behind (x : Session) : Option Nat :=
  let key (i : Nat) : Nat := match x.last.getD i none with
    | some l => l + 1
    | none => 0
  x.openLists.foldl (fun m i => match m with
    | none => some i
    | some j => if key i < key j then some i else some j) none

/-- A document's postings leave the session. -/
def Session.drop (x : Session) (doc : Nat) : Session :=
  { x with posts := x.posts.map fun ps => ps.filter fun p => p.doc != doc }

/-- Evaluate the complete documents in ascending order. -/
def State.strandEval (s : State) (o : Origin) (x : Session) : Nat → State × Session × Option Halt
  | 0 => (s, x, none)
  | n + 1 => match x.nextDoc with
    | none => (s, x, none)
    | some d =>
      if !x.complete d then (s, x, none)
      else if x.gaps.any fun g => g.1 ≤ d && d ≤ g.2 then s.strandEval o (x.drop d) n
      else match s.planAt o x d (x.plan.map (·.toNat)) [] 0 0 with
        | (s, .error e) => (s, x, some e)
        | (s, .ok e) =>
          let top := match e with
            | some e => rankIn x.k x.topk (d, e.s)
            | none => x.topk
          s.strandEval o { x.drop d with topk := top, doc := some d } n

/-- The largest IMPACT of the blocks of a LIST word that meet a document range, from block b on; `none` when they cannot
be read or are too many. -/
def State.impactIn (s : State) (o : Origin) (c : Cap) (nblk lo hi b : Nat) : Nat → Option Nat
  | 0 => none
  | n + 1 =>
    if b ≥ nblk then some 0
    else match (s.strandRead o c (16 * b) 16).2 with
      | .error _ => none
      | .ok bs =>
        let h := headerOf (ofLe bs)
        if h.first > hi then some 0
        else match s.impactIn o c nblk lo hi (b + 1) n with
          | none => none
          | some m => some (if h.last < lo then m else max m h.impact)

/-- The bound of R347 for a document range: the sum of IDF × IMPACT over the SCORE inputs; `none` when it is not known. -/
def State.skipBound (s : State) (o : Origin) (x : Session) (lo hi : Nat) : List Nat → Nat → Option Nat
  | [], _ => some 0
  | w :: r, i =>
    if planOp w = 1 then
      match s.skipBound o x lo hi r (i + 1) with
      | none => none
      | some n => match r with
        | v :: _ =>
          if planOp v = 4 then
            (s.impactIn o (x.strs.getD (planStr w) Cap.null) (planBlk w) lo hi
              (if x.again.contains i then x.cur.getD i 0 else x.cur.getD i 0 - 1) 128).map fun m =>
              n + min (slice v 15 0 * m) (2 ^ 31 - 1)
          else some n
        | [] => some n
    else s.skipBound o x lo hi r i

/-- May, and does, the engine leave a block undecoded (R347)? Whether it makes use of the leave is a free choice, the same
in an interrupted and an uninterrupted run (R354). -/
def State.skips (s : State) (o : Origin) (x : Session) (i : Nat) (h : Header) : Bool :=
  x.skip && !x.again.contains i && !x.dense && x.topk.length == x.k && !h.bad
    && (match s.skipBound o x h.first h.last (x.plan.map (·.toNat)) 0, x.topk.getLast? with
        | some b, some t => decide ((b : Int) ≤ t.2)
        | _, _ => false)
    && Config.choice 347 (x.cur.getD i 0 * 32 + i) % 2 == 1

/-- Decode the next block of LIST word i, or leave it. -/
def State.strandDecode (s : State) (o : Origin) (x : Session) (i : Nat) : State × Session × Option Halt :=
  let w := x.lists.getD i 0
  let c := x.strs.getD (planStr w) Cap.null
  let b := x.cur.getD i 0
  match s.strandRead o c (16 * b) 16 with
  | (s, .error e) => (s, x, some e)
  | (s, .ok hb) =>
    let h := headerOf (ofLe hb)
    let past := { x with cur := lset x.cur i (b + 1), last := lset x.last i (some h.last),
                         prev := lset x.prev i (x.last.getD i none), again := x.again.filter (· != i) }
    -- a gap that the frontier has passed meets no further document
    let live := x.gaps.filter fun g => match x.frontier with
      | some d => g.2 > d
      | none => true
    if s.skips o x i h then (s, { past with gaps := live ++ [(h.first, h.last)] }, none)
    else match s.strandRead o c h.poff h.bytes with
      | (s, .error e) => (s, x, some e)
      | (s, .ok bs) => match h.postings (x.last.getD i none) (ofLe bs) with
        | none => (s, x, some (.status 4))
        | some ps =>
          -- after a THAW from an image a block is decoded again: its documents up to x.doc are evaluated, up to x.floor dealt with
          let after (m : Option Nat) (p : Posting) : Bool := match m with
            | some d => p.doc > d
            | none => true
          let ps := ps.filter fun p => after x.doc p && after x.floor p
          (s, { past with posts := lset past.posts i (past.posts.getD i [] ++ ps) }, none)

/-- Postings that the lists hold. -/
def Session.held (x : Session) : Nat := x.posts.flatten.length

/-- One block of a run: what is complete is evaluated, the next block is decoded, and what that completes is
evaluated. -/
def State.strandRun (s : State) (o : Origin) (x : Session) : State × Session × Option Halt :=
  match s.strandEval o x x.held with
  | (s, x, some e) => (s, x, some e)
  | (s, x, none) => match x.behind with
    | none => (s, x, none)
    | some i => match s.strandDecode o x i with
      | (s, x, some e) => (s, x, some e)
      | (s, x, none) => s.strandEval o x x.held

/-- A run ends: the session's state and status, and SRUN's completion (R350). -/
def State.strandEnd (s : State) (core n : Nat) (st : SessState) (code : Nat) : State :=
  let x := (s.core core).session n
  let s := s.modSess core n fun x => { x with st := st, status := code, posts := [], gaps := [], again := [], floor := none, why := none }
  (s.modPend x.ref x.pend fun p => p.finish [BitVec.ofNat 64 code]).complete x.ref x.pend

/-- Does the engine run a session: not of a halted core, nor of a frozen tenant (R340, R359, R368)? -/
def State.strandRuns (s : State) (core n : Nat) : Bool :=
  let x := (s.core core).session n
  x.st == .run && !(s.core core).halted && !s.stopped x.ten

/-- The core of a quad that owns a session number. -/
def quadCore (quad num : Nat) : Nat := 16 * (2 * (quad / 8) + num / 4) + 2 * (quad % 8) + num / 2 % 2

/-- The session that a quad's engine serves next: round-robin among those that it runs (R339). -/
def State.strandNext (s : State) (quad : Nat) : Option Nat :=
  let on := (List.range 8).filter fun n => s.strandRuns (quadCore quad n) (n % 2)
  match mget s.strand quad with
  | some last => (on.find? fun n => n > last).orElse fun _ => on.head?
  | none => on.head?

/-- The engine serves one block of a session that it runs. -/
def State.strandStep (s : State) (core n : Nat) : State :=
  let x := (s.core core).session n
  if !s.strandRuns core n then s
  else
    let o := s.engineOrigin x.ref x.ten (((s.group? x.ref).map (·.team)).getD 0)
    match s.strandRun o x with
    | (s, x, none) =>
      let s := s.modSess core n fun _ => { x with why := none }
      if x.openLists.isEmpty && x.held == 0 then s.strandEnd core n .done 0 else s
    | (s, x, some (.status code)) => (s.modSess core n fun _ => x).strandEnd core n .fault code
    | (s, x, some (.fault sub a)) =>
      (s.modSess core n fun _ => { x with st := .held, why := some .record }).engineFault x.ten x.ref sub x.len x.pc a 3
        (sessNumber core n)
    | (s, x, some (.wait w)) => s.modSess core n fun _ => { x with why := some w }

/-- The retry of a held session by ERET of its record (R340, R374). -/
def Session.retry (x : Session) : Session := if x.st == .held then { x with st := .run, why := none } else x

/-! ### SOPEN (R349) -/

/-- A descriptor with the tags of its granules. -/
structure SessDesc where
  bytes : List Byte
  tags  : List Bool
deriving DecidableEq, Repr

/-- Doubleword at an offset. -/
def SessDesc.dw (d : SessDesc) (o : Nat) : Nat := ofLe ((d.bytes.drop o).take 8)
/-- Capability at an offset. -/
def SessDesc.cap (d : SessDesc) (o : Nat) : Cap :=
  capOfWords (BitVec.ofNat 64 (d.dw o)) (BitVec.ofNat 64 (d.dw (o + 8))) (d.tags.getD (o / 16) false)
/-- NSTR. -/
def SessDesc.nstr (d : SessDesc) : Nat := slice (d.dw 0) 63 56
/-- NPW. -/
def SessDesc.npw (d : SessDesc) : Nat := slice (d.dw 0) 55 48
/-- TABOFF. -/
def SessDesc.taboff (d : SessDesc) : Nat := slice (d.dw 8) 21 0
/-- The plan words. -/
def SessDesc.plan (d : SessDesc) : List Nat := (List.range (min d.npw 32)).map fun i => d.dw (0xc0 + 8 * i)
/-- Are bytes a to e − 1 zero? -/
def SessDesc.zeros (d : SessDesc) (a e : Nat) : Bool := ((d.bytes.drop a).take (e - a)).all (· == 0)
/-- Code 0x02 of R349. -/
def SessDesc.zeroOk (d : SessDesc) : Bool :=
  slice (d.dw 0) 47 1 == 0 && slice (d.dw 8) 63 22 == 0 && d.zeros 0x30 0x40 && d.zeros (0xc0 + 8 * min d.npw 32) 0x200
    && d.plan.all planZeroOk
/-- Code 0x03. -/
def SessDesc.rangeOk (d : SessDesc) : Bool :=
  1 ≤ d.nstr && d.nstr ≤ 8 && 1 ≤ d.npw && d.npw ≤ 32 && d.plan.all (planRangeOk d.nstr) && d.taboff % 64 == 0
    && d.taboff + 2048 ≤ Config.spadBytes
/-- The streams that LIST words name, ascending, each with the largest NBLK. -/
def SessDesc.streams (d : SessDesc) : List (Nat × Nat) :=
  (List.range 8).filterMap fun i =>
    match (d.plan.filter fun w => planOp w == 1 && planStr w == i).map planBlk with
    | [] => none
    | n :: r => some (i, r.foldl max n)
/-- Does the plan hold DENSE? -/
def SessDesc.dense (d : SessDesc) : Bool := d.plan.any fun w => planOp w == 5
/-- The capabilities of the session: their offset in the descriptor and the bytes checked. -/
def SessDesc.caps (d : SessDesc) : List (Nat × Nat) :=
  d.streams.map (fun x => (0x40 + 16 * x.1, 16 * x.2)) ++ [(0x10, 0)] ++ (if d.dense then [(0x20, 0)] else [])

/-- The checks of R349, steps 2 and 3. -/
def SessDesc.check (d : SessDesc) : Check :=
  firstCheck ([
    failIf (!d.zeroOk) (0x0c, 2, 0, 0),
    failIf (!d.rangeOk) (0x0c, 3, 0, 0),
    failIf (!planOk 0 [] d.plan) (0x0c, 8, 0, 0)]
    ++ d.caps.map (fun x =>
      let k := (d.cap x.1).check 129 1 x.2 0
      failIf (k != 0) (0x0b, k, 0, 0x100 + x.1 / 16))
    ++ d.caps.map fun x =>
      failIf (!([0, 1, 2, 4, 7].contains (pathOf (d.cap x.1).base))) (0x0a, 0, (d.cap x.1).base, 0))

/-- The session that a descriptor opens. -/
def SessDesc.opened (d : SessDesc) (tables : List Byte) : Session :=
  { Session.reset with
      st := .opened, nstr := d.nstr, plan := d.plan.map (BitVec.ofNat 64), skip := bit (d.dw 0) 0, dlen := d.cap 0x10,
      dvec := d.cap 0x20, strs := (List.range 8).map fun i => d.cap (0x40 + 16 * i),
      tables := (List.range 1024).map fun i => BitVec.ofNat 16 (ofLe ((tables.drop (2 * i)).take 2)),
      k := planK (d.plan.getLast?.getD 0) }

/-- The session that IMM names. -/
def sessOf (f : Form) : Nat := b2n (f.imm.getLsbD 0)

/-- A Strand instruction completes at once with a status, which SSTAT reports (R348, R352). -/
def Ctx.strandDone (c : Ctx) (f : Form) (n code : Nat) (s : State) : Res :=
  .next ((c.start f s .ready [.scalar f.d.num] [BitVec.ofNat 64 code]).modSess c.r.core n fun x => { x with status := code })

/-- SOPEN. -/
def Ctx.sopen (f : Form) (c : Ctx) (s : State) : Res :=
  let n := (sessOf f)
  let a := (c.g.read c.tk f.lit 64 0 f.a + c.g.read c.tk f.lit 64 0 f.b) % 2 ^ 64
  if pathOf a != 2 || slice a 59 22 != 0 then c.trapOn f 0x0a 0 a 0
  else if a % 64 != 0 then c.trapOn f 0x09 0 a 0
  else
    let off := slice a 21 0
    let tags := (List.range 32).map fun i => (s.core c.r.core).stags.contains (off / 16 + i)
    let d : SessDesc := ⟨s.spadLoad c.r.core off 512, tags⟩
    match d.check with
    | some (cause, sub, addr, info) => c.trapOn f cause sub addr info
    | none =>
      if ((s.core c.r.core).session n).busy then c.strandDone f n 1 s
      else c.strandDone f n 0 (s.modSess c.r.core n fun _ =>
        { d.opened (s.spadLoad c.r.core d.taboff 2048) with ref := c.r, ten := if c.sys then 0 else c.g.ten })

/-- A session at the start of a run. -/
def Session.start (x : Session) (c : Ctx) : Session :=
  let n := x.lists.length
  { x with st := .run, topk := [], doc := none, cur := List.replicate n 0, posts := List.replicate n [],
           last := List.replicate n none, prev := List.replicate n none, gaps := [], again := [], floor := none, ref := c.r, ten := if c.sys then 0 else c.g.ten, pend := c.g.nextId,
           pc := c.pc, len := c.len, why := none }

/-- SRUN (R350). -/
def Ctx.srun (f : Form) (c : Ctx) (s : State) : Res :=
  let n := (sessOf f)
  let x := (s.core c.r.core).session n
  match x.st with
  | .run => c.strandDone f n 1 s
  | .held => c.strandDone f n 1 s
  | .closed => c.strandDone f n 2 s
  | .fault => c.strandDone f n 2 s
  | _ => .next ((c.start f s (.srun n) [.scalar f.d.num] []).modSess c.r.core n fun x => x.start c)

/-- The elements of a ranked list as doublewords (R351). -/
def Session.elements (x : Session) : List DWord := x.topk.map fun e => BitVec.ofNat 64 (e.1 % 2 ^ 32 + pat 32 e.2 * 2 ^ 32)

/-- Write the elements of a STOPK that are left; it completes with the last one, or waits at a fault (R351). -/
def State.stopkStep (s : State) (r : GRef) (id : Nat) : State :=
  match (s.group? r).bind fun g => (g.pend.find? fun p => p.id == id).map fun p => (g, p) with
  | none => s
  | some (g, p) => match p.kind with
    | .stopk n _ addr left total =>
      let o := s.engineOrigin r (if r.slot = 63 then 0 else g.ten) g.team
      let rec go (s : State) (a : Nat) : List DWord → State × Nat × List DWord × Option EGot
        | [] => (s, a, [], none)
        | v :: vs => match s.engineWrite o a (leBytes 8 v.toNat) (some (r, id)) with
          | (s, none) => go s ((a + 8) % 2 ^ 64) vs
          | (s, some (.path _)) => go s ((a + 8) % 2 ^ 64) vs
          | (s, some e) => (s, a, v :: vs, some e)
      let put (s : State) (why : Option HoldWhy) (a : Nat) (vs : List DWord) : State :=
        s.modPend r id fun p => { p with kind := .stopk n why (BitVec.ofNat 64 a) vs total }
      match go s addr.toNat left with
      | (s, _, _, none) =>
        ((s.modSess r.core n fun x => { x with status := 0 }).modPend r id fun p =>
          p.finish [BitVec.ofNat 64 (total * 2 ^ 32)]).complete r id
      | (s, a, vs, some (.fault sub at_)) =>
        (put s (some .record) a vs).engineFault o.who.ten r sub p.len p.pc at_ 3 (sessNumber r.core n)
      | (s, a, vs, some (.wait w)) => put s (some w) a vs
      | (s, a, vs, some _) => put s none a vs
    | _ => s

/-- STOPK (R351). -/
def Ctx.stopk (f : Form) (c : Ctx) (s : State) : Res :=
  let n := (sessOf f)
  let x := (s.core c.r.core).session n
  let cp := c.g.cap c.tk (f.a.num / 2)
  let off := c.g.read c.tk f.lit 64 0 f.b
  let k := cp.check 2 1 (8 * x.k) off
  let a := (cp.base + off) % 2 ^ 64
  let o := s.origin c.r c.g
  if k != 0 then c.trapOn f 0x0b k 0 (f.a.num / 2)
  else if !([0, 2, 4].contains (pathOf a)) || (x.k != 0 && !s.rangeOn o a (a + 8 * x.k - 1)) then c.trapOn f 0x0a 0 a 0
  else if x.st == .done then
    .next ((c.start f s (.stopk n none (BitVec.ofNat 64 a) x.elements x.topk.length) [.scalar f.d.num] []).modPend c.r c.g.nextId fun p =>
      { p with owns := s.ownsAt o a (8 * x.topk.length) })
  else c.strandDone f n 6 s

/-- What SSTAT reads (R352). -/
def Session.report (x : Session) : Nat :=
  x.st.code * 2 ^ 60 + x.status % 256 * 2 ^ 52 + x.topk.length % 512 * 2 ^ 43 + (x.doc.getD 0xffffffff) % 2 ^ 32

/-- SSTAT (R352). -/
def Ctx.sstat (f : Form) (c : Ctx) (s : State) : Res :=
  .next (c.start f s .ready [.scalar f.d.num] [BitVec.ofNat 64 ((s.core c.r.core).session (sessOf f)).report])

/-! ### Meanings -/

/-- SOPEN (R349). -/
def execSopen (f : Form) (s : State) : Host.Outcome State Fault Refusal :=
  s.issueForm (Rules.once true (dstF isS) (srcF isS) (srcF fun o => isSZ o || o == .lit) none 64) f (Ctx.sopen f)
/-- SRUN (R350). -/
def execSrun (f : Form) (s : State) : Host.Outcome State Fault Refusal :=
  s.issueForm (Rules.once true (dstF isS) none none none 64) f (Ctx.srun f)
/-- STOPK (R351). -/
def execStopk (f : Form) (s : State) : Host.Outcome State Fault Refusal :=
  s.issueForm (Rules.once true (dstF isS) (srcF isS2) (srcF fun o => isSZ o || o == .lit) none 64) f (Ctx.stopk f)
/-- SSTAT (R352). -/
def execSstat (f : Form) (s : State) : Host.Outcome State Fault Refusal :=
  s.issueForm (Rules.once true (dstF isS) none none none 64) f (Ctx.sstat f)

/-- The quad's engine serves a session whose turn it is (R339). -/
def State.strandServe (s : State) (core n : Nat) : State :=
  let num := sessNumber core n
  if s.strandNext (quadOf core) = some num then
    State.strandStep { s with strand := mset s.strand (quadOf core) num } core n
  else s

/-- STRAND_BLOCK (R339): the engine decodes and evaluates one block of a running session of a core, when it is its turn. -/
def execStrandBlock (core sess : Nat) (s : State) : Host.Outcome State Fault Refusal := .next (s.strandServe core sess)

end Sys2Proof.Machine
end

