-- ==== Sys2Proof/Machine/Window.lean ====
section
/-! DEFINITION. The core-state window and the saves of channels, matrix operations, Strand sessions and side-log entries
that FREEZE makes: their words, read and written (R387, R393, R394, R365). The manual fixes the words of side-log entries
and the first words of a channel save; the other places are the model's (assumption 14). -/

namespace Sys2Proof.Machine

open Sys2Proof

/-! ### Owners -/

/-- The word that names the group of a saved operation: [63] resident, [62:58] GIDX, [57:54] flag, [53:52] LEN,
[51:48] TIDX, [47:40] the scalar that it writes plus 1, [31:0] map index. -/
def State.ownerWord (s : State) (r : GRef) (pend : Nat) (len : BitVec 2) : Nat :=
  match s.group? r with
  | none => 0
  | some g =>
    let t := s.team r g
    let p := g.pend.find? fun p => p.id == pend
    let d := match p.map (·.dests) with
      | some (.scalar n :: _) => n + 1
      | _ => 0
    2 ^ 63 + g.gidx % 32 * 2 ^ 58 + ((p.map (·.flag)).getD 0) % 16 * 2 ^ 54 + len.toNat * 2 ^ 52
      + ((t.map (·.tidx)).getD 0) % 16 * 2 ^ 48 + d % 256 * 2 ^ 40 + ((t.map (·.map)).getD 0) % 2 ^ 32

/-- Doubleword k of 16-bit entries. -/
def tableWord (t : List (BitVec 16)) (k : Nat) : Nat :=
  (List.range 4).foldl (fun n j => n + (t.getD (4 * k + j) 0).toNat * 2 ^ (16 * j)) 0
/-- Entries with doubleword k written. -/
def setTableWord (t : List (BitVec 16)) (k v : Nat) : List (BitVec 16) :=
  (List.range 4).foldl (fun t j => lset t (4 * k + j) (BitVec.ofNat 16 (v / 2 ^ (16 * j)))) t

/-- A capability with its low or high doubleword written. -/
def Cap.setHalf (c : Cap) (high : Bool) (v : Nat) : Cap :=
  let lo := c.bits.toNat % 2 ^ 64
  let hi := c.bits.toNat / 2 ^ 64
  ⟨BitVec.ofNat 128 (if high then lo + v % 2 ^ 64 * 2 ^ 64 else v % 2 ^ 64 + hi * 2 ^ 64), c.tag⟩
/-- A capability's low or high doubleword. -/
def Cap.half (c : Cap) (high : Bool) : Nat := if high then c.bits.toNat / 2 ^ 64 else c.bits.toNat % 2 ^ 64

/-! ### Channel saves -/

/-- Doubleword i of a channel save, 0 to 31 (R394). -/
def State.chanWord (s : State) (c : Channel) (i : Nat) : Nat :=
  match i with
  | 0 => c.src.half false
  | 1 => c.src.half true
  | 2 => c.dst.half false
  | 3 => c.dst.half true
  | 4 => c.soff.toNat
  | 5 => c.doff.toNat
  | 6 => c.shape.toNat
  | 7 => c.ctl.toNat
  | 8 => c.st.code
  | 9 => c.pos
  | 22 => s.ownerWord c.ref c.pend c.len
  | 23 => c.pc.toNat
  | 28 => c.slotw.toNat
  | 29 => c.tabAt
  | 30 => b2n c.cancel + b2n c.src.tag * 2 + b2n c.dst.tag * 4 + b2n (!c.table.isEmpty) * 8
      + (c.recv.foldl (fun n x => n + 2 ^ x.1) 0) * 2 ^ 16
  | 31 => c.pend
  | i => if 10 ≤ i ∧ i < 22 then mgetD c.wp (i - 10) 0 else if 24 ≤ i ∧ i < 28 then tableWord c.table (i - 24) else 0

/-- The state of a code (R246). -/
def ChState.ofCode : Nat → ChState
  | 1 => .run
  | 2 => .done
  | 3 => .held
  | 4 => .cancelled
  | 5 => .spzFull
  | _ => .idle

/-- A saved channel with doubleword i written; its group stays as it is. -/
def Channel.setWord (c : Channel) (i v : Nat) : Channel :=
  match i with
  | 0 => { c with src := c.src.setHalf false v }
  | 1 => { c with src := c.src.setHalf true v }
  | 2 => { c with dst := c.dst.setHalf false v }
  | 3 => { c with dst := c.dst.setHalf true v }
  | 4 => { c with soff := BitVec.ofNat 64 v }
  | 5 => { c with doff := BitVec.ofNat 64 v }
  | 6 => { c with shape := BitVec.ofNat 64 v }
  | 7 => { c with ctl := BitVec.ofNat 64 v }
  | 8 => { c with st := ChState.ofCode v, why := if v = 3 then some .record else none }
  | 9 => { c with pos := v }
  | 23 => { c with pc := BitVec.ofNat 64 v }
  | 28 => { c with slotw := BitVec.ofNat 64 v }
  | 29 => { c with tabAt := v }
  | 30 => { c with cancel := bit v 0, src := ⟨c.src.bits, bit v 1⟩, dst := ⟨c.dst.bits, bit v 2⟩,
                   table := if bit v 3 then c.table else [],
                   recv := ((List.range 12).filter fun r => bit v (16 + r)).map fun r =>
                     ((c.recv.find? fun x => x.1 == r).getD (r, 0)) }
  | i =>
    if 10 ≤ i ∧ i < 22 then { c with wp := mset c.wp (i - 10) v }
    else if 24 ≤ i ∧ i < 28 then
      { c with table := setTableWord (if c.table.isEmpty then List.replicate 16 0 else c.table) (i - 24) v }
    else c

/-! ### Matrix saves -/

/-- WB of the lanes at the issue of a drain into registers, in frames of 8 registers, as 64 fields of 12 bits (R269). -/
def MatOp.wbPack (m : MatOp) : Nat :=
  (List.range 64).foldl (fun n l => n + m.wbs.getD l 0 / (8 * m.wbs.getD 64 1) % 4096 * 2 ^ (12 * l)) 0
/-- The operation with these places. -/
def MatOp.setWbPack (m : MatOp) (v : Nat) : MatOp :=
  let k := m.wbs.getD 64 1
  { m with wbs := (List.range 64).map (fun l => v / 2 ^ (12 * l) % 4096 * (8 * k)) ++ [k] }

/-- Doubleword i of a matrix save, 0 to 31: the block, then its progress (R273, R387). -/
def State.matWord (s : State) (m : MatOp) (i : Nat) : Nat :=
  if i < 16 then m.dw (8 * i)
  else match i with
    | 16 => s.ownerWord m.ref m.pend m.len
    | 17 => m.pc.toNat
    | 18 => m.unit % 2 ^ 16 + m.step % 2 ^ 16 * 2 ^ 16 + m.pend % 2 ^ 32 * 2 ^ 32
    | 19 => m.fn % 16 + m.qi % 2 * 16 + m.qj % 2 * 32 + b2n m.run * 64 + b2n (m.why == some .record) * 128
        + (m.tags.zip (List.range 8)).foldl (fun n x => n + b2n x.1 * 2 ^ (8 + x.2)) 0
    | i => m.wbPack / 2 ^ (64 * (i - 20)) % 2 ^ 64

/-- A saved matrix operation with doubleword i written. -/
def MatOp.setWord (m : MatOp) (i v : Nat) : MatOp :=
  if i < 16 then { m with block := m.block.take (8 * i) ++ leBytes 8 v ++ m.block.drop (8 * i + 8) }
  else match i with
    | 17 => { m with pc := BitVec.ofNat 64 v }
    | 18 => { m with unit := v % 2 ^ 16, step := v / 2 ^ 16 % 2 ^ 16 }
    | 19 => { m with fn := v % 16, qi := slice v 4 4, qj := slice v 5 5, run := bit v 6,
                     why := if bit v 7 then some .record else none, tags := (List.range 8).map fun k => bit v (8 + k) }
    | i =>
      if i < 20 then m
      else
        let o := 2 ^ (64 * (i - 20))
        m.setWbPack (m.wbPack / (o * 2 ^ 64) * (o * 2 ^ 64) + v % 2 ^ 64 * o + m.wbPack % o)

/-! ### Session saves (R354) -/

/-- LIST word i's cursor, as it is saved: the block to decode, and the last document before it. Bit 32 of its word says that the
block has been decoded before; word 6 the document up to which every one is dealt with. -/
def Session.savedCur (x : Session) (i : Nat) : Nat × Option Nat :=
  if (x.posts.getD i []).isEmpty then (x.cur.getD i 0, x.last.getD i none)
  else (x.cur.getD i 0 - 1, x.prev.getD i none)

/-- A document number, or none, as a word: 0 for none. -/
def docCode : Option Nat → Nat
  | none => 0
  | some d => d + 1
/-- The document number of a word. -/
def docOf (v : Nat) : Option Nat := if v % 2 ^ 33 = 0 then none else some (v % 2 ^ 33 - 1)

/-- The capability that doublewords 40 to 59 of a session save hold, by its place: DLEN, DVEC, STR0 to STR7. -/
def Session.capAt (x : Session) (k : Nat) : Cap :=
  match k with
  | 0 => x.dlen
  | 1 => x.dvec
  | k + 2 => x.strs.getD k Cap.null

/-- Doubleword i of a session save, 0 to 1023. -/
def State.sessWord (s : State) (x : Session) (i : Nat) : Nat :=
  if i = 0 then
    x.st.code * 2 ^ 60 + x.status % 256 * 2 ^ 52 + x.k % 512 * 2 ^ 43 + x.nstr % 16 * 2 ^ 39 + x.plan.length % 64 * 2 ^ 33
      + b2n x.skip * 2 ^ 32 + x.topk.length % 512 * 2 ^ 16 + x.cur.length % 64
  else if i = 1 then s.ownerWord x.ref x.pend x.len
  else if i = 2 then x.pc.toNat
  else if i = 3 then docCode x.doc
  else if i = 4 then (List.range 10).foldl (fun n k => n + b2n (x.capAt k).tag * 2 ^ k) 0
  else if i = 5 then x.pend
  else if i = 6 then docCode x.frontier
  else if i < 8 then 0
  else if i < 40 then (x.plan.getD (i - 8) 0).toNat
  else if i < 60 then (x.capAt ((i - 40) / 2)).half (i % 2 == 1)
  else if i < 64 then 0
  else if i < 320 then tableWord x.tables (i - 64)
  else if i < 576 then (x.elements.getD (i - 320) 0).toNat
  else if i < 608 then
    (x.savedCur (i - 576)).1 % 2 ^ 32 + b2n (!(x.posts.getD (i - 576) []).isEmpty || x.again.contains (i - 576)) * 2 ^ 32
  else if i < 640 then docCode (x.savedCur (i - 608)).2
  else
    match (x.gaps.reverse.drop ((i - 640) / 2)).head? with
    | some g => (if i % 2 = 0 then g.1 else g.2) + 1
    | none => 0

/-- The session that the doublewords of a save hold; its group and tenant are given by the caller. -/
def Session.ofWords (w : Nat → Nat) : Session :=
  let h := w 0
  let cap (k : Nat) : Cap := capOfWords (BitVec.ofNat 64 (w (40 + 2 * k))) (BitVec.ofNat 64 (w (41 + 2 * k))) (bit (w 4) k)
  let n := h % 64
  { Session.reset with
      st := match slice h 63 60 with
        | 1 => .opened
        | 2 => .run
        | 3 => .done
        | 4 => .fault
        | 5 => .held
        | _ => .closed,
      status := slice h 59 52, k := slice h 51 43, nstr := slice h 42 39, skip := bit h 32,
      plan := (List.range (slice h 38 33)).map fun j => BitVec.ofNat 64 (w (8 + j)),
      dlen := cap 0, dvec := cap 1, strs := (List.range 8).map fun k => cap (k + 2),
      tables := (List.range 1024).map fun j => BitVec.ofNat 16 (w (64 + j / 4) / 2 ^ (16 * (j % 4))),
      doc := docOf (w 3),
      topk := (List.range (slice h 24 16)).map fun j => (w (320 + j) % 2 ^ 32, sgn 32 (w (320 + j) / 2 ^ 32)),
      cur := (List.range n).map fun j => w (576 + j) % 2 ^ 32, posts := List.replicate n [],
      last := (List.range n).map fun j => docOf (w (608 + j)), prev := (List.range n).map fun j => docOf (w (608 + j)),
      gaps := (List.range 192).filterMap fun j => if w (640 + 2 * j) = 0 then none else some (w (640 + 2 * j) - 1, w (641 + 2 * j) - 1),
      again := (List.range n).filter fun j => bit (w (576 + j)) 32, floor := docOf (w 6),
      pend := w 5, pc := BitVec.ofNat 64 (w 2), len := BitVec.ofNat 2 (slice (w 1) 53 52),
      why := if slice h 63 60 = 5 then some .record else none }

/-! ### Side-log entries (R365) -/

/-- Word i of an entry, 0 to 3. -/
def LogEntry.word (e : LogEntry) (i : Nat) : Nat :=
  match i with
  | 0 => e.addr.toNat
  | 1 => e.data.toNat % 2 ^ 64
  | 2 => e.data.toNat / 2 ^ 64
  | _ => e.kind % 256 * 2 ^ 56 + e.size.toNat * 2 ^ 53 + e.scope.toNat * 2 ^ 49 + e.red % 128 * 2 ^ 42 + b2n e.tag * 2 ^ 41
      + b2n e.lock * 2 ^ 40 + e.ref.core % 256 * 2 ^ 32 + e.ref.qtr % 4 * 2 ^ 30 + e.ref.slot % 64 * 2 ^ 24
      + b2n e.ovl * 2 ^ 23 + e.ten % 65536

/-- The entry that four words hold, over what is not in them (assumption 14). -/
def LogEntry.ofWords (old : LogEntry) (w : Nat → Nat) : LogEntry :=
  let h := w 3
  { old with
      addr := BitVec.ofNat 64 (w 0), data := BitVec.ofNat 128 (w 1 + w 2 * 2 ^ 64), kind := slice h 63 56,
      size := BitVec.ofNat 3 (slice h 55 53), scope := BitVec.ofNat 4 (slice h 52 49), red := slice h 48 42,
      tag := bit h 41, lock := bit h 40, ovl := bit h 23, ref := ⟨slice h 39 32, slice h 31 30, slice h 29 24⟩,
      ten := slice h 15 0 }

/-- An entry with nothing in it. -/
def LogEntry.empty : LogEntry :=
  { idx := 0, kind := 0, addr := 0, data := 0, size := 0, scope := 0, red := 0, uns := false, tag := false, lock := false,
    ovl := false, ref := ⟨0, 0, 0⟩, part := 0, handle := 0, ten := 0, pc := 0, len := 0, mask := 0, told := false, refused := false,
    serial := 0 }

/-! ### The parts (R387, R393) -/

/-- The save of a tenant on a core. -/
def Core.savedOf (k : Core) (ten : Nat) : Option Saved := k.saved.find? fun x => x.ten == ten
/-- The save that parts 3 to 6 show: the tenant named by SERV, else the only one there is (assumption 14). -/
def Core.shown (k : Core) (ten : Nat) : Option Saved := (k.savedOf ten).orElse fun _ => k.saved.head?
/-- A core with the save of a tenant changed. -/
def Core.modSaved (k : Core) (ten : Nat) (f : Saved → Saved) : Core :=
  { k with saved := k.saved.map fun x => if x.ten == ten then f x else x }

/-- 64 bits of a set of granules. -/
def bitsAt (gs : List Nat) (i : Nat) : Nat := (List.range 64).foldl (fun n j => n + b2n (gs.contains (64 * i + j)) * 2 ^ j) 0
/-- The set with 64 bits written. -/
def setBitsAt (gs : List Nat) (i v : Nat) : List Nat :=
  (List.range 64).foldl (fun gs j => if bit v j then sins gs (64 * i + j) else sdel gs (64 * i + j)) gs

/-- Doubleword i of part 3, 4, 5 or 6 of a save. -/
def State.savedWord (s : State) (x : Saved) (part i : Nat) : Nat :=
  match part with
  | 3 => match mget x.chans (i / 32) with
    | some c => s.chanWord c (i % 32)
    | none => 0
  | 4 => match x.mats[i / 32]? with
    | some m => s.matWord m (i % 32)
    | none => 0
  | 5 => match mget x.sess (i / 1024) with
    | some c => s.sessWord c (i % 1024)
    | none => 0
  | _ => match x.log[i / 4]? with
    | some e => e.word (i % 4)
    | none => 0

/-- Doubleword i of part 0, 1, 2 or 7 of a core. -/
def Core.plainWord (k : Core) (part i : Nat) : Nat :=
  match part with
  | 0 => creadLe k.spad (8 * i) 8
  | 1 => k.cell (2 * i / 1024) (2 * i % 1024) + k.cell (2 * i / 1024) (2 * i % 1024 + 1) * 2 ^ 32
  | 2 => (k.sideOf i).1 + (k.sideOf i).2 * 2 ^ 32
  | _ => if i < 4096 then bitsAt k.stags i else bitsAt k.armed (i - 4096)

/-- Is a part one of those that show a save? -/
def savedPart (part : Nat) : Bool := 3 ≤ part && part ≤ 6

/-- Doubleword i of a part of a core's window, for a system group that serves a tenant. -/
def State.windowWord (s : State) (ten core part i : Nat) : Nat :=
  if savedPart part then
    match (s.core core).shown ten with
    | none => 0
    | some x => s.savedWord x part i
  else (s.core core).plainWord part i

/-- A save with doubleword i of part 3 to 6 written; what has no save keeps none. -/
def State.savedPut (s : State) (x : Saved) (part i v : Nat) : Saved :=
  match part with
  | 3 => match mget x.chans (i / 32) with
    | some c => { x with chans := mset x.chans (i / 32) (c.setWord (i % 32) v) }
    | none => x
  | 4 => match x.mats[i / 32]? with
    | some m => { x with mats := lset x.mats (i / 32) (m.setWord (i % 32) v) }
    | none => x
  | 5 => match mget x.sess (i / 1024) with
    | some c =>
      let n := Session.ofWords fun j => if j = i % 1024 then v else s.sessWord c j
      { x with sess := mset x.sess (i / 1024) { n with ref := c.ref, ten := c.ten, pend := c.pend, len := c.len } }
    | none => x
  | _ => match x.log[i / 4]? with
    | some e => { x with log := lset x.log (i / 4) (e.ofWords fun j => if j = i % 4 then v else e.word j) }
    | none => x

/-- Write doubleword i of a part of a core's window. Only part 7 changes tags and markers. -/
def State.windowPut (s : State) (ten core part i v : Nat) : State :=
  s.modCore core fun k => match part with
    | 0 => { k with spad := cwrite k.spad (8 * i) (leBytes 8 v) }
    | 1 => (k.setCell (2 * i / 1024) (2 * i % 1024) (v % 2 ^ 32)).setCell (2 * i / 1024) (2 * i % 1024 + 1) (v / 2 ^ 32 % 2 ^ 32)
    | 2 => k.setSide i (v % 2 ^ 32) (v / 2 ^ 32 % 2 ^ 32)
    | 7 => if i < 4096 then { k with stags := setBitsAt k.stags i v } else { k with armed := setBitsAt k.armed (i - 4096) v }
    | _ => match k.shown ten with
      | none => k
      | some x => k.modSaved x.ten fun y => s.savedPut y part i v

/-- Read n bytes of a window part: an aligned access of 1, 2, 4, 8 or 16 bytes. -/
def State.windowRead (s : State) (ten core part off n : Nat) : List Byte :=
  if n = 16 then leBytes 8 (s.windowWord ten core part (off / 8)) ++ leBytes 8 (s.windowWord ten core part (off / 8 + 1))
  else ((leBytes 8 (s.windowWord ten core part (off / 8))).drop (off % 8)).take n

/-- Write bytes of a window part: an aligned access. -/
def State.windowWrite (s : State) (ten core part off : Nat) (bs : List Byte) : State :=
  if bs.length = 16 then
    (s.windowPut ten core part (off / 8) (ofLe (bs.take 8))).windowPut ten core part (off / 8 + 1) (ofLe (bs.drop 8))
  else
    let old := leBytes 8 (s.windowWord ten core part (off / 8))
    s.windowPut ten core part (off / 8) (ofLe (old.take (off % 8) ++ bs ++ old.drop (off % 8 + bs.length)))

end Sys2Proof.Machine
end

