-- ==== Sys2Proof/Machine/Memory.lean ====
section
/-! DEFINITION. Loads and stores: LD, LDC, LDK, ST, STK, the held access and the side log (R222 to R228, R326, R363,
R364). -/

namespace Sys2Proof

/-- Bytes of a memory access: SIZE, MOD[5:3] (R121). -/
def accessBytes (f : Form) : Nat :=
  match f.mod.toNat / 8 with
  | 1 => 1
  | 2 => 2
  | 3 => 8
  | 4 => 16
  | _ => 4
/-- SX (R121). -/
def accessSx (f : Form) : Bool := f.mod.getLsbD 2

end Sys2Proof

namespace Sys2Proof.Machine

open Sys2Proof

/-! ### Operands and addresses (R223) -/

/-- May a register hold the data of an access of n bytes (R223)? -/
def isData (n : Nat) (o : Opnd) : Bool :=
  if n = 8 then isS o || isV2 o else if n = 16 then isS2 o || isV4 o else isS o || isV o

/-- A store's data: a register of the right shape, or any other source (R17, R117). -/
def isStoreData (n : Nat) (o : Opnd) : Bool := if isV o || isS o then isData n o else isAny o

/-- B of an address: read whole, or a 32-bit word zero-extended when it is a vector or `lane`. -/
def addrWidth (o : Opnd) : Nat :=
  match o with
  | .v _ => 32
  | .lane => 32
  | _ => 64

/-- The address A + B in a lane. -/
def Ctx.addr (f : Form) (c : Ctx) (lane : Nat) : Nat :=
  (c.g.read c.tk f.lit 64 lane f.a + c.g.read c.tk f.lit (addrWidth f.b) lane f.b) % 2 ^ 64

/-- Lane number of a request made once for the group. -/
def onceLane : Nat := 64

/-- The participating threads, or the group once. -/
def Ctx.askers (f : Form) (c : Ctx) (once : Bool) : List Nat := if once then [onceLane] else c.on f.guard

/-- The mask of some askers. -/
def Ctx.maskFor (f : Form) (c : Ctx) (ls : List Nat) : LaneMask :=
  if ls.contains onceLane then maskOf (c.notOff f.guard) else maskOf ls

/-- The first failure of an access's checks in one lane: alignment, then the path (R223, R199). -/
def State.accessFailure (s : State) (o : Origin) (acc : Access) (n : Nat) (x : Nat × Nat) :
    Option (Nat × Nat × Nat × DWord × DWord) :=
  if x.2 % n ≠ 0 then some (x.1, 0x09, 0, BitVec.ofNat 64 x.2, 0)
  else if (s.path o acc x.2 n).isNone then some (x.1, 0x0a, 0, BitVec.ofNat 64 x.2, 0)
  else none

/-- The record of failing lanes (R430); a request made once names every participating thread. -/
def Ctx.failed (f : Form) (c : Ctx) (fs : List (Nat × Nat × Nat × DWord × DWord)) : Option Res :=
  match fs with
  | [] => none
  | (l, cause, sub, addr, info) :: _ =>
    if l = onceLane then some (.trap cause sub (maskOf (c.notOff f.guard)) addr info) else firstFailure fs

/-! ### Reading one request -/

/-- Read what an address names for a group; scratchpad bytes of an uncovered operation are undefined (R140, R262). -/
def State.groupRead (s : State) (o : Origin) (acc : Access) (a n : Nat) : State × Got :=
  match s.path o acc a n with
  | none => (s, .bytes ((List.range n).map fun i => Config.undefByte s.ticket (a + i)) false)
  | some (.spad c off _) =>
    let own := s.owning.any fun p => p.owns.any fun r => r.1 < spadKey c off + n && spadKey c off < r.1 + r.2
    (s, .bytes (s.spadLoad c off n) (n == 16 && !own && (s.core c).stags.contains (off / 16)))
  | some (.window c part off) => (s, .bytes (s.windowRead o.ten c part off n) false)
  | some (.spz tile byte) =>
    (s, .bytes (s.spzVeil o.r.core a (s.spzRead o.r.core ((o.team.map (·.spzcfg)).getD 0) tile byte n)) false)
  | some t => s.readTarget o acc a t n

/-- What one lane's load gives: bytes with a tag, or an interval (R326). -/
inductive Loaded where
  | bytes (bs : List Byte) (tag : Bool)
  | iv (i : Iv)
deriving DecidableEq, Repr

/-- Why a load cannot be served: a fault's sub-cause, or a wait. -/
inductive Miss where
  /-- the sub-cause, and the address that was accessed. -/
  | fault (sub addr : Nat)
  | wait (why : HoldWhy)
deriving DecidableEq, Repr

/-- A GEN load as part of a load that reads a summary. -/
def State.summaryWord (s : State) (o : Origin) (a : Nat) : State × Except Miss Nat :=
  match s.groupRead o .load a 8 with
  | (s, .bytes bs _) => (s, .ok (ofLe bs))
  | (s, .fault c) => (s, .error (.fault c a))
  | (s, .wait w) => (s, .error (.wait w))

/-- The hull of summary entries from block b on; `none` for the NaN entry. -/
def State.summaryHull (s : State) (o : Origin) (base kind b : Nat) (acc : Option Iv) : Nat → State × Except Miss (Option Iv)
  | 0 => (s, .ok acc)
  | n + 1 => match s.summaryWord o ((base + 16 + 8 * b) % 2 ^ 64) with
    | (s, .error e) => (s, .error e)
    | (s, .ok v) =>
      let i : Iv := ⟨v % 2 ^ 32, v / 2 ^ 32, kind, false, false⟩
      if kind = 2 ∧ v = 0x7fc000007fc00000 then (s, .ok none)
      else s.summaryHull o base kind (b + 1) (some (match acc with | none => i | some j => Iv.hull 32 j i)) n

/-- An LD over an address interval (R326); `f` names A. -/
def State.loadInterval (s : State) (o : Origin) (g : Group) (f : Form) (alo ahi : Nat) : State × Except Miss Iv :=
  let n := accessBytes f
  let full := Iv.full 3 (if n = 8 then 64 else 32)
  let c0 := g.cap s.ticket (f.a.num / 2)
  let c1 := g.cap s.ticket (f.a.num / 2 + 1)
  let base := c1.base
  if n ≠ 4 ∨ !isS2 f.a ∨ f.a.num ≥ 46 ∨ !c0.tag ∨ c0.perm &&& 65 ≠ 65 ∨ !c1.tag ∨ c1.perm % 2 = 0
      ∨ alo < c0.base ∨ ahi + 4 > c0.base + c0.len ∨ ahi < alo ∨ c1.len < 16 ∨ (s.path o .load base 8).isNone then (s, .ok full)
  else match s.summaryWord o base with
    | (s, .error e) => (s, .error e)
    | (s, .ok h) => match s.summaryWord o (base + 8) with
      | (s, .error e) => (s, .error e)
      | (s, .ok sbase) =>
        let b0 := (alo - sbase) / 1024
        let b1 := (ahi + 3 - sbase) / 1024
        let kind := slice h 33 32
        if alo < sbase ∨ b1 ≥ slice h 31 0 ∨ kind = 3 ∨ 16 + 8 * (b1 + 1) > c1.len then (s, .ok full)
        else match s.summaryHull o base kind b0 none (b1 + 1 - b0) with
          | (s, .error e) => (s, .error e)
          | (s, .ok none) => (s, .ok (Iv.full 2 32))
          | (s, .ok (some i)) => (s, .ok i)

/-- Serve one request of a load: `cmp` is the upper end of an address interval, bit 0 of `data` marks one. -/
def State.loadOne (s : State) (o : Origin) (g : Group) (acc : Access) (f : Form) (q : Req) : State × Except Miss Loaded :=
  if q.data.getLsbD 0 then
    match s.loadInterval o g f q.addr.toNat q.cmp.toNat with
    | (s, .ok i) => (s, .ok (.iv i))
    | (s, .error e) => (s, .error e)
  else match s.groupRead o acc q.addr.toNat q.size with
    | (s, .bytes bs tag) => (s, .ok (.bytes bs tag))
    | (s, .fault c) => (s, .error (.fault c q.addr.toNat))
    | (s, .wait w) => (s, .error (.wait w))

/-- Serve all requests of a load, lane after lane. -/
def State.loadAll (s : State) (o : Origin) (g : Group) (acc : Access) (f : Form) :
    List Req → State × List (Req × Except Miss Loaded)
  | [] => (s, [])
  | q :: r =>
    let x := s.loadOne o g acc f q
    let y := x.1.loadAll o g acc f r
    (y.1, (q, x.2) :: y.2)

/-- The lanes that met a fault, at the address that met it, with its sub-cause: for a summary its header's or entry's (R326, R361). -/
def missFaults (xs : List (Req × Except Miss Loaded)) : List (Req × Nat) :=
  xs.filterMap fun x => match x.2 with
    | .error (.fault c a) => some ({ x.1 with addr := BitVec.ofNat 64 a }, c)
    | _ => none

/-- The first wait. -/
def missWait (xs : List (Req × Except Miss Loaded)) : Option HoldWhy :=
  firstSome (fun x => match x.2 with
    | .error (.wait w) => some w
    | _ => none) xs

/-! ### Results -/

/-- A loaded value of 1, 2 or 4 bytes extended to 64 bits (R223). -/
def extendLoad (f : Form) (bs : List Byte) : Nat :=
  let v := ofLe bs
  if accessSx f && bs.length < 4 then pat 64 (sgn (8 * bs.length) v) else v

/-- The registers and values of one lane's data. -/
def landLoad (g : Group) (f : Form) (lane : Nat) (bs : List Byte) : List (Reg × DWord) :=
  let v := extendLoad f bs
  match f.d with
  | .s n =>
    if bs.length = 16 then [(.scalar n.val, BitVec.ofNat 64 v), (.scalar (n.val + 1), BitVec.ofNat 64 (v / 2 ^ 64))]
    else [(.scalar n.val, BitVec.ofNat 64 v)]
  | .v n => (List.range (ceilDiv bs.length 4)).map fun i =>
      (.word lane (g.wordOf lane (n.val + i)), BitVec.ofNat 64 (v / 2 ^ (32 * i) % 2 ^ 32))
  | _ => []

/-- The Loupe registers of one lane's data: points of KIND S, or an interval (R317, R318, R326). -/
def landLoupe (g : Group) (f : Form) (lane : Nat) (hull : Bool) : Loaded → List IvDest
  | .bytes bs _ =>
    let v := extendLoad f bs
    (List.range (ceilDiv bs.length 4)).map fun i =>
      let x := BitVec.ofNat 64 (v / 2 ^ (32 * i) % 2 ^ 32)
      ⟨lane, g.wordOf lane (f.d.num + i), 32, x, x, ⟨0, false, false⟩, hull⟩
  | .iv i =>
    let n := accessBytes f
    let h : Hidden := ⟨BitVec.ofNat 2 i.kind, i.np, i.wide⟩
    let at_ (k size : Nat) : IvDest := ⟨lane, g.wordOf lane (f.d.num + k), size, BitVec.ofNat 64 i.lo, BitVec.ofNat 64 i.hi, h, hull⟩
    if n = 8 then [at_ 0 64] else if n = 16 then (List.range 4).map fun k => at_ k 32 else [at_ 0 32]

/-- The lanes that one request's data go to. -/
def reqLanes (mask : LaneMask) (f : Form) (q : Req) : List Nat :=
  if q.lane = onceLane then (match f.d with | .s _ => [0] | _ => lanesOf mask) else [q.lane]

/-- The Loupe registers of a load's requests, in order (R317). -/
def loupeDests (g : Group) (f : Form) (mask : LaneMask) (xs : List (Req × Loaded)) : List IvDest :=
  (xs.map fun x => ((reqLanes mask f x.1).map fun l => landLoupe g f l (x.1.data.getLsbD 1) x.2).flatten).flatten

/-- The outstanding load with its data; its registers are those of its issue. -/
def Pend.loaded (p : Pend) (g : Group) (f : Form) (ldk : Bool) (xs : List (Req × Except Miss Loaded)) : Pend :=
  let data := xs.filterMap fun x => match x.2 with
    | .ok v => some (x.1, v)
    | .error _ => none
  if g.lpass && isV f.d then
    { p with ivs := (p.ivs.zip (loupeDests g f p.mask data)).map fun x => { x.2 with w := x.1.w, lane := x.1.lane } }
  else
    let rs := (data.map fun x => match x.2 with
      | .bytes bs _ => ((reqLanes p.mask f x.1).map fun l => landLoad g f l bs).flatten
      | .iv _ => []).flatten
    let tag := data.any fun x => match x.2 with
      | .bytes _ t => t
      | .iv _ => false
    { p with vals := rs.map (·.2), capTag := if ldk then some (f.d.num / 2, tag) else none }

/-- The registers that a load writes, before its data are known. -/
def loadDests (g : Group) (f : Form) (lanes : List Nat) : List Reg :=
  let n := ceilDiv (accessBytes f) 4
  match f.d with
  | .s k => if accessBytes f = 16 then [.scalar k.val, .scalar (k.val + 1)] else [.scalar k.val]
  | .v k => (lanes.map fun l => (List.range n).map fun i =>
      let w := g.wordOf l (k.val + i)
      if g.lpass then [Reg.word l w, Reg.word l (w + 1)] else [Reg.word l w]).flatten.flatten
  | _ => []

/-! ### Held accesses (R134, R363) -/

/-- A group that an outstanding access has held goes on. -/
def State.unhold (s : State) (r : GRef) (id : Nat) : State :=
  match s.group? r with
  | some g => if g.st == .held id then (s.makeReady r).fillTurns r.core r.qtr else s
  | none => s

/-- An access of a group meets translation faults: the lanes of the first sub-cause are recorded and the group is held; of
a system group it is a double fault (R359, R363). -/
def State.accessFault (s : State) (r : GRef) (g : Group) (p : Pend) (fs : List (Req × Nat)) : State :=
  match fs with
  | [] => s
  | (q, sub) :: _ =>
    if r.slot = 63 then s.doubleFault r.core r.qtr 0x10 p.pc q.addr
    else
      let ls := (fs.filter fun x => x.2 == sub).map (·.1.lane)
      let mask := if ls.contains onceLane then p.mask else maskOf ls
      (s.report r.core r.qtr (groupRecord g.ten r 0x10 sub p.len p.pc 0 mask q.addr 0)).holdGroup r (.held p.id)

/-- Wait without a record: the group is held, but for an overlap with the side log. -/
def State.accessWait (s : State) (r : GRef) (id : Nat) (w : HoldWhy) : State :=
  if w == .log then s.unhold r id else s.holdGroup r (.held id)

/-- Serve an outstanding load from its requests, at issue or again. -/
def State.serveLoad (s : State) (r : GRef) (id : Nat) : State :=
  match (s.group? r).bind fun g => (g.pend.find? fun p => p.id == id).map fun p => (g, p) with
  | none => s
  | some (g, p) => match p.kind with
    | .load _ acc reqs f ldk =>
      match s.loadAll (s.origin r g) g acc f reqs with
      | (s, xs) =>
        match missFaults xs, missWait xs with
        | [], none =>
          (s.modPend r id fun p => { p.loaded g f ldk xs with kind := .load none acc reqs f ldk }).unhold r id
        | [], some w => (s.modPend r id fun p => { p with kind := .load (some w) acc reqs f ldk }).accessWait r id w
        | fs, _ => (s.modPend r id fun p => { p with kind := .load (some .record) acc reqs f ldk }).accessFault r g p fs
    | _ => s

/-- Issue a load. -/
def Ctx.startLoad (c : Ctx) (f : Form) (s : State) (acc : Access) (reqs : List Req) (ldk : Bool) : Res :=
  let id := c.g.nextId
  let blank (q : Req) : Loaded :=
    if q.data.getLsbD 0 then .iv (Iv.full 3 32) else .bytes (List.replicate q.size 0) false
  let ivs := if c.g.lpass && isV f.d then loupeDests c.g f (maskOf (c.on f.guard)) (reqs.map fun q => (q, blank q)) else []
  let s := c.start f s (.load none acc reqs f ldk) (loadDests c.g f (c.notOff f.guard)) []
  .next ((s.modPend c.r id fun p => { p with ivs := ivs }).serveLoad c.r id)

/-! ### LD, LDC, LDK -/

/-- A request for a read. -/
def readReq (lane a n : Nat) : Req := ⟨lane, BitVec.ofNat 64 a, n, 0, 0⟩

/-- The address interval of a lane: A + [B.lo, B.hi], B read as U (R326). -/
def Ctx.addrIv (f : Form) (c : Ctx) (lane : Nat) : Nat × Nat :=
  let w := addrWidth f.b
  let b := c.g.readIv c.tk f.lit w lane f.b
  let a := c.g.read c.tk f.lit 64 lane f.a
  if b.isPoint then ((a + b.lo) % 2 ^ 64, (a + b.lo) % 2 ^ 64)
  else
    let u := b.as 1 w
    ((a + u.lo) % 2 ^ 64, (a + u.hi) % 2 ^ 64)

/-- LD (R224). -/
def Ctx.load (f : Form) (c : Ctx) (s : State) : Res :=
  let n := accessBytes f
  let o := s.origin c.r c.g
  if isS f.d then
    let a := c.addr f 0
    match c.failed f ((s.accessFailure o .load n (onceLane, a)).toList) with
    | some r => r
    | none => if (c.on f.guard).isEmpty then c.done s (c.g, c.notOff f.guard)
              else c.startLoad f s .load [readReq onceLane a n] false
  else
    let ls := c.notOff f.guard
    let iv := ls.map fun l => (l, c.addrIv f l)
    let points := iv.filter fun x => x.2.1 == x.2.2
    let wide := iv.filter fun x => x.2.1 != x.2.2
    match c.failed f (points.filterMap fun x => s.accessFailure o .load n (x.1, x.2.1)) with
    | some r => r
    | none =>
      let und := wide.filter fun x => x.2.1 % n != 0 || x.2.2 % n != 0
      let go := iv.filter fun x => x.2.1 % n == 0 && x.2.2 % n == 0
      let reqs := go.map fun x =>
        let flags := b2n (x.2.1 != x.2.2) + 2 * b2n (c.guard f.guard x.1 == .u)
        (⟨x.1, BitVec.ofNat 64 x.2.1, n, BitVec.ofNat 64 flags, BitVec.ofNat 64 x.2.2⟩ : Req)
      if und.isEmpty then c.startLoad f s .load reqs false
      else match c.startLoad f s .load reqs false with
        | .next s => .next (s.undecide c.r (und.map (·.1)))
        | r => r

/-- LDC (R226): one read for the group through CON. -/
def Ctx.loadConst (f : Form) (c : Ctx) (s : State) : Res :=
  let n := accessBytes f
  let o := s.origin c.r c.g
  let a := c.addr f 0
  let bad := if a % n ≠ 0 then some (onceLane, 0x09, 0, BitVec.ofNat 64 a, (0 : DWord))
    else if pathOf a > 1 ∨ (s.path o .con a n).isNone then some (onceLane, 0x0a, 0, BitVec.ofNat 64 a, (0 : DWord))
    else none
  match c.failed f bad.toList with
  | some r => r
  | none =>
    if isS f.d && (c.on f.guard).isEmpty then c.done s (c.g, c.notOff f.guard)
    else
      let u := !(c.maybe f.guard).isEmpty && !isS f.d
      -- with a guard of U anywhere each thread has its own request, so that its hull is formed alone
      let reqs := if u then (c.notOff f.guard).map fun l =>
          { readReq l a n with data := BitVec.ofNat 64 (2 * b2n (c.guard f.guard l == .u)) }
        else [readReq onceLane a n]
      c.startLoad f s .con reqs false

/-- LDK (R227). -/
def Ctx.loadCap (f : Form) (c : Ctx) (s : State) : Res :=
  let o := s.origin c.r c.g
  let a := c.addr f 0
  match c.failed f ((s.accessFailure o .load 16 (onceLane, a)).toList) with
  | some r => r
  | none => c.startLoad { f with mod := 32 } s .load [readReq onceLane a 16] true

/-! ### Stores -/

/-- The data of a store in a lane (R223). A literal or latch has 64 bits: what a 16-byte store of one puts into its upper half is a
free value (assumption 35). -/
def Ctx.storeData (f : Form) (c : Ctx) (lane : Nat) : Nat :=
  let n := accessBytes f
  match f.d with
  | .v k =>
    let r (i w : Nat) : Nat := c.g.read c.tk none w lane (.v ⟨(k.val + i) % 32, Nat.mod_lt _ (by decide)⟩)
    if n = 16 then r 0 64 + r 2 64 * 2 ^ 64 else if n = 8 then r 0 64 else r 0 32 % 2 ^ (8 * n)
  | .s k =>
    let lo := (c.g.scalar c.tk k.val).toNat
    if n = 16 then lo + (c.g.scalar c.tk (k.val + 1)).toNat * 2 ^ 64 else lo % 2 ^ (8 * n)
  | .zero => 0
  | .lane => lane
  | o =>
    let lo := c.g.read c.tk f.lit (if n < 8 then 32 else 64) lane o
    if n = 16 then lo + (Config.undefDWord c.tk lane 70).toNat * 2 ^ 64 else lo % 2 ^ (8 * n)

/-- One lane's store: lane, address, bytes, tag of an STK. -/
structure Put where
  lane : Nat
  addr : Nat
  bs   : List Byte
  tag  : Bool
deriving DecidableEq, Repr

/-- Words of a group's stack or record written through REG (R207, R304). -/
def State.regWrite (s : State) (sys : Bool) (t : Target) (bs : List Byte) : State :=
  let word (i : Nat) : Nat := ofLe ((bs.drop (4 * i)).take 4)
  match t with
  | .regStack r lane w =>
    s.modGroup r fun g => (List.range (bs.length / 4)).foldl
      (fun g i => g.setWord s.ticket lane (w + i) (BitVec.ofNat 32 (word i))) g
  | .regRecord r w =>
    ((List.range (bs.length / 4)).foldl (fun s i =>
      match s.group? r with
      | some g => s.setGroup r (s.setRecordWord32 sys r g (w + i) (word i))
      | none => s) s).wake r
  | _ => s

/-- A store that does not go through the publication buffer (R225, R358, R393). -/
def State.putDirect (o : Origin) (pc : DWord) (s : State) (x : Put) : State :=
  match s.path o .store x.addr x.bs.length with
  | some (.spad c off _) =>
    s.spadPutStore ((s.group? o.r).map (s.gidOf o.r)) c off x.bs x.tag
  | some (.window c part off) => s.windowWrite o.ten c part off x.bs
  | some (.sup va) => (match s.translate o.who .store va with
    | (s, .ok l) => s.writeFor (s.ownOf o.r s.ticket true) l x.bs false
    | (s, _) => s.doubleFault o.r.core o.r.qtr 0x11 pc (BitVec.ofNat 64 x.addr))
  | some (.ten va) => (match s.tenantLeaf o va true with
    | (s, .ok l) => s.writeFor (s.ownOf o.r s.ticket true) l x.bs false
    | (s, .fault c) => s.setSfault o.r c va
    | (s, _) => s)
  | some t => s.regWrite o.sys t x.bs
  | none => s

/-- Does a store wait on a page's move lock in the tenant window (R358)? -/
def State.putWaits (s : State) (o : Origin) (x : Put) : State × Bool :=
  match s.path o .store x.addr x.bs.length with
  | some (.ten va) => (match s.tenantLeaf o va true with
    | (s, .wait _) => (s, true)
    | (s, _) => (s, false))
  | some (.sup va) => (match s.translate o.who .store va with
    | (s, .wait _) => (s, true)
    | (s, _) => (s, false))
  | _ => (s, false)

/-- Does a store go through the publication buffer? -/
def buffered (a : Nat) : Bool := pathOf a == 0 || pathOf a == 7

/-- Why a GEN or PEER store cannot enter the buffer. -/
inductive PutMiss where
  | fault (sub : Nat)
  | lock
  | overlap
  /-- a remote-owned page: the device that owns it (R400). -/
  | remote (dev : Nat)
deriving DecidableEq, Repr

/-- Where a GEN or PEER store goes, or why it must retire into the side log (R364). -/
def State.place (s : State) (o : Origin) (acc : Access) (a n : Nat) : State × Except PutMiss Loc :=
  let t := s.path o acc a n
  let met := !o.sys && s.overlapsLog o.r.core o.ten a n
  match t with
  | some (.gen va) => (match s.translate o.who acc va with
    | (s, .ok l) => (s, if met then .error .overlap else .ok l)
    | (s, .fault c) => (s, .error (.fault c))
    | (s, .wait _) => (s, .error .lock)
    | (s, .remote d) => (s, .error (.remote d)))
  | some (.peer d va) => (s, if met then .error .overlap else .ok (.peer (peerKey o.ten d) va))
  | _ => (s, .error .lock)

/-- The places of some stores, lane after lane. -/
def State.places (s : State) (o : Origin) (acc : Access) : List Put → State × List (Put × Except PutMiss Loc)
  | [] => (s, [])
  | x :: r =>
    let p := s.place o acc x.addr x.bs.length
    let q := p.1.places o acc r
    (q.1, (x, p.2) :: q.2)

/-- Did all find a place? -/
def allPlaced (xs : List (Put × Except PutMiss Loc)) : Bool := xs.all fun x => match x.2 with
  | .ok _ => true
  | .error _ => false

/-- The side-log entry of one lane (R364, R365); `all` are the threads of a request made once. -/
def Ctx.logEntry (c : Ctx) (all : LaneMask) (kind : Nat) (scope : BitVec 4) (red : Nat) (uns : Bool) (x : Put × Except PutMiss Loc) : LogEntry :=
  { idx := 0, kind := kind, addr := BitVec.ofNat 64 x.1.addr, data := BitVec.ofNat 128 (ofLe x.1.bs),
    size := if kind = 1 then 4 else sizeCode x.1.bs.length, scope := scope, red := red, uns := uns, tag := x.1.tag,
    lock := (match x.2 with | .error .lock => true | .error (.remote _) => true | _ => false), ovl := (match x.2 with | .error .overlap => true | _ => false),
    ref := c.r, part := c.g.part, handle := c.g.handle, ten := c.g.ten, pc := c.pc, len := c.len,
    mask := if x.1.lane = onceLane then all else maskOf [x.1.lane], told := false,
    refused := false, serial := c.tk }

/-- Enter entries into a core's side log; each gets its index (R364). -/
def State.logIn (s : State) (core : Nat) (es : List LogEntry) : State :=
  es.foldl (fun s e => s.modCore core fun k =>
    { k with log := k.log ++ [{ e with idx := k.logNext }], logNext := (k.logNext + 1) % Config.sideLogEntries }) s

/-- Is there room for n more entries? -/
def State.logFits (s : State) (core n : Nat) : Bool := (s.core core).log.length + n ≤ Config.sideLogEntries

/-- The first translation fault among placed stores. -/
def firstPutFault (xs : List (Put × Except PutMiss Loc)) : Option (Nat × Nat) :=
  firstSome (fun (x : Put × Except PutMiss Loc) => match x.2 with
    | .error (.fault c) => some (c, x.1.addr)
    | _ => none) xs

/-- Enter a store into the publication buffer. -/
def Ctx.putBuffer (c : Ctx) (s : State) (x : Put × Except PutMiss Loc) : State :=
  match x.2 with
  | .ok l => s.modCore c.r.core fun k =>
      { k with pub := k.pub ++ [⟨l, x.1.bs, c.r, if c.sys then 0 else c.g.ten, x.1.tag, c.tk⟩] }
  | .error _ => s

/-- Perform the stores of one instruction, in ascending lane order (R225, R228, R364). -/
def Ctx.store (c : Ctx) (all : LaneMask) (kind : Nat) (s : State) (xs : List Put) : Res :=
  let o := s.origin c.r c.g
  let direct := xs.filter fun x => !buffered x.addr
  match s.places o .store (xs.filter fun x => buffered x.addr) with
  | (s1, ps) =>
    if direct.any fun x => (s1.putWaits o x).2 then .stall (direct.foldl (fun s x => (s.putWaits o x).1) s)
    else
      let s2 := direct.foldl (State.putDirect o c.pc) s1
      if allPlaced ps then
        if !ps.isEmpty && pubUsed (s.core c.r.core).pub + (ps.foldl (fun n x => n + x.1.bs.length) 0) > Config.pubBytes then .stall s
        else .next (ps.foldl c.putBuffer s2)
      else if c.sys then
        match firstPutFault ps with
        | some (_, a) => .next (s.doubleFault c.r.core c.r.qtr 0x11 c.pc (BitVec.ofNat 64 a))
        | none => .stall s1
      else if s.logFits c.r.core ps.length then .next (s2.logIn c.r.core (ps.map (c.logEntry all kind 0 0 false)))
      else .stall s

/-- ST (R225). -/
def Ctx.storeData_ (f : Form) (c : Ctx) (s : State) : Res :=
  let n := accessBytes f
  let o := s.origin c.r c.g
  let once := isUni f.d && isUni f.b
  let xs := (c.askers f once).map fun l =>
    (⟨l, c.addr f (l % 64), leBytes n (c.storeData f (l % 64)), false⟩ : Put)
  match c.failed f (xs.filterMap fun x => s.accessFailure o .store n (x.lane, x.addr)) with
  | some r => r
  | none => c.store (maskOf (c.notOff f.guard)) 0 s xs

/-- STK (R227, R81): a tagged pair without G may not go to GEN. -/
def Ctx.storeCap (f : Form) (c : Ctx) (s : State) : Res :=
  let o := s.origin c.r c.g
  let a := c.addr f 0
  let cp := c.g.cap c.tk (f.d.num / 2)
  let bad := match s.accessFailure o .store 16 (onceLane, a) with
    | some x => some x
    | none =>
      if !([0, 2, 4].contains (pathOf a)) then some (onceLane, 0x0a, 0, BitVec.ofNat 64 a, 0)
      else if pathOf a = 0 ∧ cp.tag ∧ !bit cp.perm 5 then
        some (onceLane, 0x0b, 5, BitVec.ofNat 64 a, BitVec.ofNat 64 (f.d.num / 2))
      else none
  match c.failed f bad.toList with
  | some r => r
  | none => c.store (maskOf (c.notOff f.guard)) 1 s [⟨onceLane, a, leBytes 16 cp.bits.toNat, cp.tag⟩]

/-! ### Meanings -/

/-- LD's rules (R222, R223): with a scalar destination B is group-uniform (R163). -/
def loadRules (f : Form) : Rules :=
  { Rules.plain (dstF (isData (accessBytes f))) (srcF isS) (srcF (if isS f.d then isUni else isAny)) none 64 with long := true }
/-- ST's rules. -/
def storeRules (f : Form) : Rules :=
  { Rules.plain (srcF (isStoreData (accessBytes f))) (srcF isS) (srcF isAny) none 64 with und := true }
/-- LDC's rules. -/
def ldcRules (f : Form) : Rules :=
  { Rules.plain (dstF (isData (accessBytes f))) (srcF isS) (srcF isUni) none 64 with long := true }

/-- LD (R224). -/
def execLd (f : Form) (s : State) : Host.Outcome State Fault Refusal := s.issueForm (loadRules f) f (Ctx.load f)
/-- LD in its wider forms (R224). -/
def execLdExtended (f : Form) (s : State) : Host.Outcome State Fault Refusal := s.issueForm (loadRules f) f (Ctx.load f)
/-- ST (R225). -/
def execSt (f : Form) (s : State) : Host.Outcome State Fault Refusal := s.issueForm (storeRules f) f (Ctx.storeData_ f)
/-- ST in its wider forms (R225). -/
def execStExtended (f : Form) (s : State) : Host.Outcome State Fault Refusal := s.issueForm (storeRules f) f (Ctx.storeData_ f)
/-- LDC (R226). -/
def execLdc (f : Form) (s : State) : Host.Outcome State Fault Refusal := s.issueForm (ldcRules f) f (Ctx.loadConst f)
/-- LDC in its wider forms (R226). -/
def execLdcExtended (f : Form) (s : State) : Host.Outcome State Fault Refusal := s.issueForm (ldcRules f) f (Ctx.loadConst f)
/-- LDK (R227). -/
def execLdk (f : Form) (s : State) : Host.Outcome State Fault Refusal :=
  s.issueForm (Rules.once true (dstF isS2) (srcF isS) (srcF isUni) none 64) f (Ctx.loadCap f)
/-- STK (R227). -/
def execStk (f : Form) (s : State) : Host.Outcome State Fault Refusal :=
  s.issueForm (Rules.once false (dstF isS2) (srcF isS) (srcF isUni) none 64) f (Ctx.storeCap f)

end Sys2Proof.Machine
end

