-- ==== Sys2Proof/Machine/Atomic.lean ====
section
/-! DEFINITION. Atomics, reductions and pools, and the Clasp engines that serve them (R229 to R237, R298). -/

namespace Sys2Proof.Machine

open Sys2Proof

/-! ### The operations (R230) -/

/-- The new value of a word of w bits. -/
def atomApply (op : AtomOp) (uns : Bool) (w m c cmp : Nat) : Nat :=
  let less (a b : Nat) : Bool := if uns then a < b else sgn w a < sgn w b
  match op with
  | .add => (m + c) % 2 ^ w
  | .fadd => f32Add (m % 2 ^ 32) (c % 2 ^ 32)
  | .min => if less c m then c else m
  | .max => if less m c then c else m
  | .and => m &&& c
  | .or => m ||| c
  | .xor => m ^^^ c
  | .xchg => c
  | .cas => if m = cmp then c else m

/-- The operation of RED FN − 0x020 (R365). -/
def redOp : Nat → AtomOp
  | 0 => .add
  | 1 => .fadd
  | 2 => .min
  | 3 => .max
  | 4 => .and
  | 5 => .or
  | _ => .xor

/-! ### Engines and ports (R231 to R233) -/

/-- Where a request's word lies. -/
inductive WordAt where
  | mem (key : Nat)
  | spad (core off : Nat)
  | peer (dev va : Nat)
deriving DecidableEq, Repr

/-- The home engine of a byte of memory. Which stack holds a near line is the model's choice (assumption 15). -/
def homeEngine (key : Nat) : Nat :=
  if key < Config.capacityBase then 2 * (key / 51539607552 % 16) + key / 64 % 2 else slice (key - Config.capacityBase) 10 6

/-- The anchor quad's engine of a team, or of a core for a group without one. -/
def quadEngine (o : Origin) : Nat :=
  32 + (match o.team with
    | some t => 8 * (t.y0 / 2) + t.x0 / 2
    | none => quadOf o.r.core)

/-- The engine and the port of a request: a core's port at a quad engine, a die's at a memory-side one. -/
def engineAt (o : Origin) : WordAt → Option (Nat × Nat)
  | .mem k => some (homeEngine k, dieOf o.r.core)
  | .spad _ _ => some (quadEngine o, o.r.core)
  | .peer _ _ => none

/-- The port of the host endpoint, and the first Pyrloha port, of a memory-side engine. -/
def hostPort : Nat := 8
/-- The port of an inbound Pyrloha request: which of the 24 ports a device uses is the model's choice (assumption 98). -/
def fabricPort (dev : Nat) : Nat := 9 + dev % 24

/-- Is an AtomicOp of the host at an engine (R408)? -/
def State.hostAtomOut (s : State) : Bool := s.clasp.reqs.any fun e => e.2.any fun q => q.port == hostPort && q.ref.slot == noSlot

/-- Put a request into its engine's list, the oldest first. -/
def State.claspIn (s : State) (engine : Nat) (q : ClaspReq) : State :=
  { s with clasp := { s.clasp with reqs := mset s.clasp.reqs engine (mgetD s.clasp.reqs engine [] ++ [q]) } }

/-- Put a request back into its place in its port's order, before the younger ones of the port (R401). -/
def State.claspBack (s : State) (engine : Nat) (q : ClaspReq) : State :=
  let qs := mgetD s.clasp.reqs engine []
  let i := (qs.findIdx? fun x => x.port == q.port && q.serial < x.serial).getD qs.length
  { s with clasp := { s.clasp with reqs := mset s.clasp.reqs engine (qs.take i ++ q :: qs.drop i) } }

/-- The 64-byte line of a request. -/
def ClaspReq.line (q : ClaspReq) : Nat × Nat := (match q.core with | some c => c + 1 | none => 0, q.loc / 64)

/-- The requests that may be served now: the oldest of their port, with no older one to their line. -/
def servable (qs : List ClaspReq) : List ClaspReq :=
  (List.range qs.length).filterMap fun i => match qs[i]? with
    | none => none
    | some q => if (qs.take i).any fun x => x.port == q.port || x.line == q.line then none else some q

/-- The next request of an engine: round-robin over the ports after the one served last (R233). -/
def nextRequest (qs : List ClaspReq) (last : Nat) : Option ClaspReq :=
  let c := osort (fun (a b : ClaspReq) => a.port < b.port) (servable qs)
  (c.find? fun q => q.port > last).orElse fun _ => c.head?

/-! ### Performing a request -/

/-- The word that a request names. -/
def State.placeWord (s : State) (core : Option Nat) (loc n : Nat) : Nat :=
  match core with
  | none => creadLe s.mem loc n
  | some c => ofLe (s.spadLoad c loc n)

/-- Write the word; its granule's tag is cleared (R81). -/
def State.putWord (s : State) (own : Option Own) (core : Option Nat) (loc n v : Nat) : State :=
  match core with
  | none => s.writeOwn own (.phys loc) (leBytes n v) false
  | some c => s.spadStore c loc (leBytes n v)

/-- The translation that a request at an engine came through: the host endpoint's, an inbound tenant's, or its group's. -/
def State.reqWho (s : State) (q : ClaspReq) : Who :=
  if q.port = hostPort ∧ q.ref.slot = noSlot then s.hostWho
  else if q.ref.slot = noSlot + 1 then ⟨q.ten, false, ((s.tenant? q.ten).map (·.root)).getD 0, 0, none⟩
  else (s.engineOrigin q.ref q.ten 0).who

/-- An ATOM or RED counts as a write of its page when its engine performs it (R213, R397): DRT and the dirty bit are set just before. -/
def State.markAtomic (s : State) (w : Who) (va : Nat) : State :=
  if w.ten = hostTen then s.markHost va
  else match s.translate w .store va with
    | (s, .ok _) => s
    | (_, _) => s

/-- A memory-side engine keeps the line hot; a full engine writes one of its lines back (R232). The line is known by the tenant and
the address of its last atomic (R384). -/
def State.keepHot (s : State) (engine line ten va : Nat) : State :=
  let hs := mgetD s.clasp.hot engine []
  let hs := if hs.contains line then hs
    else (if hs.length < 256 then hs else hs.eraseIdx (Config.choice s.ticket line % 256)) ++ [line]
  { s with clasp := { s.clasp with hot := mset s.clasp.hot engine hs, hotAt := mset s.clasp.hotAt line (ten, va / 64 * 64) } }

/-- The old value of a lane of an ATOM lands in its registers' values; `i` is the lane's place among the askers. -/
def Pend.putAtom (p : Pend) (wide : Bool) (i v : Nat) : Pend :=
  let n := if wide then 2 else 1
  let word (j : Nat) : DWord := BitVec.ofNat 64 (v / 2 ^ (32 * j) % 2 ^ 32)
  if !p.ivs.isEmpty then
    { p with ivs := (List.range n).foldl (fun (xs : List IvDest) j => match xs[i * n + j]? with
        | some d => lset xs (i * n + j) { d with lo := word j, hi := word j }
        | none => xs) p.ivs }
  else match p.dests with
    | .scalar _ :: _ => { p with vals := [BitVec.ofNat 64 v] }
    | _ => { p with vals := (List.range n).foldl (fun xs j => lset xs (i * n + j) (word j)) p.vals }

/-- The place of a lane among the askers of an operation. -/
def askIndex (mask : LaneMask) (lane : Nat) : Nat := if lane = onceLane then 0 else (lanesOf mask).findIdx (· == lane)

/-- The requests of an ATOM that are left. -/
def Pend.atomLeft (p : Pend) : List Req :=
  match p.kind with
  | .atom _ _ _ _ _ left _ => left
  | _ => []

/-- An ATOM's pend after one of its requests has been served. -/
def Pend.served (p : Pend) (lane v : Nat) : Pend :=
  match p.kind with
  | .atom why op uns sc wide left f =>
    { p.putAtom wide (askIndex p.mask lane) v with kind := .atom why op uns sc wide (left.filter fun q => q.lane != lane) f }
  | _ => p

/-! ### Pools (R235 to R237) -/

/-- A pool object's byte range as an origin sees it. -/
def State.poolRead (s : State) (o : Origin) (a : Nat) : Nat → Option (List Byte)
  | 0 => some []
  | n + 1 =>
    match s.path o .atomic a 1 with
    | some (.spad c off _) => (s.poolRead o ((a + 1) % 2 ^ 64) n).map fun bs => s.spadLoad c off 1 ++ bs
    | some (.gen va) => (match (s.translate o.who .atomic va).2 with
      | .ok l => (s.poolRead o ((a + 1) % 2 ^ 64) n).map fun bs => s.readLoc l 1 ++ bs
      | _ => none)
    | _ => none

/-- Write bytes of a pool object. -/
def State.poolWrite (s : State) (o : Origin) (a : Nat) : List Byte → State
  | [] => s
  | b :: bs =>
    (match s.path o .atomic a 1 with
     | some (.spad c off _) => s.spadStore c off [b]
     | some (.gen va) => (match s.translate o.who .store va with
       | (s, .ok l) => s.writeFor (s.ownOf o.r s.ticket true) l [b] false
       | (s, _) => s)
     | _ => s).poolWrite o ((a + 1) % 2 ^ 64) bs

/-- The tag of ARENA's granule. -/
def State.poolTag (s : State) (o : Origin) (a : Nat) : Bool :=
  match s.path o .atomic a 1 with
  | some (.spad c off _) => (s.core c).stags.contains (off / 16)
  | some (.gen va) => (match (s.translate o.who .atomic va).2 with
    | .ok l => s.tagAt l
    | _ => false)
  | _ => false

/-- A pool as the engine reads it. -/
structure Pool where
  arena : Cap
  cfg   : Nat
  inuse : Nat
  map   : List Byte
deriving DecidableEq, Repr

/-- NB. -/
def Pool.nb (p : Pool) : Nat := slice p.cfg 47 32
/-- The bytes of a block. -/
def Pool.block (p : Pool) : Nat := 2 ^ slice p.cfg 5 0
/-- Bytes of the map. -/
def Pool.mapBytes (p : Pool) : Nat := ceilDiv p.nb 512 * 64
/-- Is a pool well-formed (R235)? -/
def Pool.wf (p : Pool) (len : Nat) : Bool :=
  p.arena.tag && 1 ≤ p.nb && p.nb ≤ 4096 && 6 ≤ slice p.cfg 5 0 && slice p.cfg 5 0 ≤ 40 && slice p.cfg 63 48 == 0
    && slice p.cfg 31 6 == 0 && p.arena.base % p.block == 0 && p.nb * p.block ≤ p.arena.len && 64 + p.mapBytes ≤ len
/-- Bit i of the map. -/
def Pool.taken (p : Pool) (i : Nat) : Bool := (p.map.getD (i / 8) 0).getLsbD (i % 8)
/-- The lowest free block. -/
def Pool.lowest (p : Pool) : Option Nat := (List.range p.nb).find? fun i => !p.taken i

/-- Read a pool; `none` when it cannot be read. -/
def State.pool (s : State) (o : Origin) (c : Cap) : Option Pool :=
  match s.poolRead o c.base 64 with
  | none => none
  | some h =>
    let dw (i : Nat) : Nat := ofLe ((h.drop (8 * i)).take 8)
    let p : Pool := ⟨capOfWords (BitVec.ofNat 64 (dw 0)) (BitVec.ofNat 64 (dw 1)) (s.poolTag o c.base), dw 2, dw 3 % 2 ^ 32, []⟩
    if !p.wf c.len then some p
    else (s.poolRead o ((c.base + 64) % 2 ^ 64) p.mapBytes).map fun m => { p with map := m }

/-- Write bit i of the map and INUSE. -/
def State.poolMark (s : State) (o : Origin) (c : Cap) (p : Pool) (i : Nat) (v : Bool) (inuse : Nat) : State :=
  let b := p.map.getD (i / 8) 0
  let b := if v then b ||| BitVec.ofNat 8 (2 ^ (i % 8)) else b &&& ~~~(BitVec.ofNat 8 (2 ^ (i % 8)))
  (s.poolWrite o ((c.base + 64 + i / 8) % 2 ^ 64) [b]).poolWrite o ((c.base + 0x18) % 2 ^ 64) (leBytes 4 inuse)

/-- POOL.A at the engine: the state, the block and the outcome. -/
def State.poolAlloc (s : State) (o : Origin) (c : Cap) : State × Cap × Bool :=
  match s.pool o c with
  | none => (s, Cap.null, false)
  | some p =>
    if !p.wf c.len || p.inuse = p.nb then (s, Cap.null, false)
    else match p.lowest with
      | none => (s, Cap.null, false)
      | some i =>
        let a := p.arena
        (s.poolMark o c p i true (p.inuse + 1), capOf (a.base + i * p.block) p.block a.perm a.esz a.pitch true, true)

/-- POOL.F at the engine. -/
def State.poolFree (s : State) (o : Origin) (c blk : Cap) : State × Bool :=
  match s.pool o c with
  | none => (s, false)
  | some p =>
    let d := blk.base - p.arena.base
    let i := d / p.block
    if p.wf c.len && blk.tag && blk.len == p.block && decide (p.arena.base ≤ blk.base) && d % p.block == 0 && i < p.nb && p.taken i then
      (s.poolMark o c p i false (p.inuse - 1), true)
    else (s, false)

/-- A POOL request is performed: its results are at hand. -/
def State.poolServe (s : State) (r : GRef) (id : Nat) : State :=
  match (s.group? r).bind fun g => (g.pend.find? fun p => p.id == id).map fun p => (g, p) with
  | none => s
  | some (g, p) => match p.kind with
    | .pool _ free c blk =>
      let o := s.origin r g
      let preds (n : Nat) (v : Bool) : List DWord := List.replicate n (BitVec.ofNat 64 (b2n v))
      if free then
        match s.poolFree o c blk with
        | (s, v) => s.modPend r id fun p => p.finish (preds p.dests.length v)
      else
        match s.poolAlloc o c with
        | (s, b, v) => s.modPend r id fun p =>
          { p.finish ([BitVec.ofNat 64 (b.half false), BitVec.ofNat 64 (b.half true)] ++ preds (p.dests.length - 2) v) with
            capTag := p.capTag.map fun t => (t.1, b.tag) }
    | _ => s

/-- Perform one request at its engine. -/
def State.claspServe (s : State) (engine : Nat) (q : ClaspReq) : State :=
  if q.pool then (match q.pend with | some id => s.poolServe q.ref id | none => s)
  else
    let n := if q.wide then 8 else 4
    let s := if q.core.isSome then s
      else (s.markAtomic (s.reqWho q) (slice q.req.addr.toNat 56 0)).drainFor (.phys q.loc) n
    let m := s.placeWord q.core q.loc n
    let v := atomApply q.op q.uns (8 * n) m (q.req.data.toNat % 2 ^ (8 * n)) (q.req.cmp.toNat % 2 ^ (8 * n))
    let s := s.putWord (s.ownOf q.ref q.serial true) q.core q.loc n v
    let s := if q.core.isNone then s.keepHot engine (q.loc / 64) q.ten (slice q.req.addr.toNat 56 0) else s
    match q.pend with
    | none => s
    | some id =>
      if q.port = hostPort ∧ q.ref.slot = noSlot then
        { s with host := { s.host with out := s.host.out ++ [.completion id false (leBytes n m)] } }
      else if q.port ≥ 9 ∧ q.ref.slot = noSlot + 1 then
        { s with fabric := { s.fabric with out := s.fabric.out ++ [.response q.ref.core q.req.addr (leBytes n m)] } }
      else s.modPend q.ref id fun p => p.served q.req.lane m

/-- An engine serves its next request. -/
def State.claspStep (s : State) (engine : Nat) : State :=
  let qs := mgetD s.clasp.reqs engine []
  match nextRequest qs (mgetD s.clasp.rr engine 0) with
  | none => s
  | some q =>
    let rest := qs.erase q
    let s := { s with clasp := { s.clasp with
      reqs := if rest.isEmpty then mdel s.clasp.reqs engine else mset s.clasp.reqs engine rest,
      rr := mset s.clasp.rr engine q.port } }
    s.claspServe engine q

/-! ### Issuing (R229 to R234) -/

/-- Where one request goes, or why it does not. -/
def State.atomPlace (s : State) (o : Origin) (a n : Nat) : State × Except PutMiss WordAt :=
  match s.path o .atomic a n with
  | some (.spad c off _) => (s, .ok (.spad c off))
  | _ => match s.place o .atomic a n with
    | (s, .ok (.phys k)) => (s, .ok (.mem k))
    | (s, .ok (.peer d va)) => (s, .ok (.peer d va))
    | (s, .error e) => (s, .error e)

/-- The places of requests, lane after lane. -/
def State.atomPlaces (s : State) (o : Origin) (n : Nat) : List Req → State × List (Req × Except PutMiss WordAt)
  | [] => (s, [])
  | q :: r =>
    let x := s.atomPlace o q.addr.toNat n
    let y := x.1.atomPlaces o n r
    (y.1, (q, x.2) :: y.2)

/-- The core's buffered stores to a request's line drain before it leaves (R234). -/
def State.drainLine (s : State) (core : Nat) (w : WordAt) : State :=
  s.drainPub core fun e => match e.loc, w with
    | .phys a, .mem k => a / 64 == k / 64
    | .peer d a, .peer d' va => d == d' && a / 64 == va / 64
    | _, _ => false

/-- Send one request to its engine, or, with `back`, again to its place there; a PEER request leaves for its target, and one in the
neighbour tier is served in place. -/
def State.sendAtom (back : Bool) (o : Origin) (pend : Option Nat) (op : AtomOp) (uns wide : Bool) (serial : Nat) (s : State) (x : Req × WordAt) : State :=
  let s := s.drainLine o.r.core x.2
  match engineAt o x.2 with
  | some (e, port) =>
    let (core, loc) := match x.2 with
      | .spad c off => (some c, off)
      | .mem k => (none, k)
      | .peer _ va => (none, va)
    let q : ClaspReq := { port := port, ref := o.r, pend := pend, ten := o.ten, op := op, uns := uns, wide := wide, req := x.1,
                          core := core, loc := loc, pool := false, serial := serial }
    if back then s.claspBack e q else s.claspIn e q
  | none => match x.2 with
    | .peer d va =>
      if isPeerKey d then s.peerOut (d % 512) (BitVec.ofNat 64 va)
      else
        let n := if wide then 8 else 4
        let s := (s.markAtomic o.who (slice x.1.addr.toNat 56 0)).drainFor (.peer d va) n
        let m := ofLe (s.readLoc (.peer d va) n)
        let v := atomApply op uns (8 * n) m (x.1.data.toNat % 2 ^ (8 * n)) (x.1.cmp.toNat % 2 ^ (8 * n))
        let s := s.writeOwn (s.ownOf o.r serial true) (.peer d va) (leBytes n v) false
        (match pend with
         | some id => s.modPend o.r id fun p => p.served x.1.lane m
         | none => s)
    | _ => s

/-- The placed requests. -/
def placedOnly (xs : List (Req × Except PutMiss WordAt)) : List (Req × WordAt) :=
  xs.filterMap fun x => match x.2 with
    | .ok w => some (x.1, w)
    | .error _ => none

/-- The requests that met a fault, and the first wait. -/
def atomFaults (xs : List (Req × Except PutMiss WordAt)) : List (Req × Nat) :=
  xs.filterMap fun x => match x.2 with
    | .error (.fault c) => some (x.1, c)
    | _ => none
/-- The wait of the first request that must wait. -/
def atomWait (xs : List (Req × Except PutMiss WordAt)) : Option HoldWhy :=
  firstSome (fun x => match x.2 with
    | .error .lock => some .lock
    | .error (.remote _) => some .lock
    | .error .overlap => some .log
    | _ => none) xs

/-- Is a request of a pend at an engine? -/
def State.atEngine (s : State) (r : GRef) (id lane : Nat) : Bool :=
  s.clasp.reqs.any fun e => e.2.any fun q => q.ref == r && q.pend == some id && q.req.lane == lane

/-- An ATOM's request on a remote-owned page is forwarded to the device that owns it (R400, R402). -/
def forwarded (ten : Nat) (x : Req × Except PutMiss WordAt) : Req × Except PutMiss WordAt :=
  match x.2 with
  | .error (.remote d) => (x.1, .ok (.peer (peerKey ten d) (slice x.1.addr.toNat 56 0)))
  | _ => x

/-- Send the requests of an outstanding ATOM that are not on their way, at issue or again (R228, R363); with `back` to their places in
the port order. -/
def State.serveAtom (s : State) (r : GRef) (id : Nat) (back : Bool := false) : State :=
  match (s.group? r).bind fun g => (g.pend.find? fun p => p.id == id).map fun p => (g, p) with
  | none => s
  | some (g, p) => match p.kind with
    | .atom _ op uns _ wide left _ =>
      let n := if wide then 8 else 4
      let o := s.origin r g
      match s.atomPlaces o n (left.filter fun q => !s.atEngine r id q.lane) with
      | (s, xs) =>
        let xs := xs.map (forwarded g.ten)
        let s := (placedOnly xs).foldl (State.sendAtom back o (some id) op uns wide (if back then p.issued else s.ticket)) s
        let set (w : Option HoldWhy) (s : State) : State :=
          s.modPend r id fun p => match p.kind with
            | .atom _ op uns sc wide left f => { p with kind := .atom w op uns sc wide left f }
            | _ => p
        match atomFaults xs, atomWait xs with
        | [], none => (set none s).unhold r id
        | [], some w => (set (some w) s).accessWait r id w
        | fs, _ => (set (some .record) s).accessFault r g p fs
    | _ => s

/-- Perform an ATOM's requests that have left for another device at its engine, when their answers arrive (R231, R402); one
forwarded for a page that has come meanwhile is made here. -/
def State.peerAtoms (s : State) (r : GRef) (id : Nat) : State :=
  match (s.group? r).bind fun g => (g.pend.find? fun p => p.id == id).map fun p => (g, p) with
  | none => s
  | some (g, p) => match p.kind with
    | .atom none op uns _ wide left _ =>
      let n := if wide then 8 else 4
      let o := s.origin r g
      let s := (left.filter fun q => !s.atEngine r id q.lane).foldl (fun s q =>
        let x := s.atomPlace o q.addr.toNat n
        match (forwarded g.ten (q, x.2)).2 with
        | .ok (.peer d va) =>
          let m := creadLe (x.1.peerView d) va n
          let v := atomApply op uns (8 * n) m (q.data.toNat % 2 ^ (8 * n)) (q.cmp.toNat % 2 ^ (8 * n))
          (x.1.writeLoc (.peer d va) (leBytes n v) false).modPend r id fun p => p.served q.lane m
        | _ => x.1) s
      s.serveAtom r id true
    | _ => s

/-- A PEER ATOM or RED of a scope narrower than .pe (R231). -/
def peerNarrow (sc : BitVec 4) (a : Nat) : Bool := pathOf a == 7 && sc.toNat < 8

/-- The checks of ATOM and RED in a lane. -/
def State.atomFailure (s : State) (o : Origin) (n : Nat) (sc : BitVec 4) (x : Nat × Nat) :
    Option (Nat × Nat × Nat × DWord × DWord) :=
  match s.accessFailure o .atomic n x with
  | some e => some e
  | none => if peerNarrow sc x.2 then some (x.1, 0x0a, 0, BitVec.ofNat 64 x.2, 0) else none

/-- The bytes of the word: b64 or b32. -/
def atomBytes (f : Form) : Nat := if accessBytes f = 8 then 8 else 4

/-- ATOM (R230): D returns the old word; a scalar D of several requests holds the old word of the one served last
(assumption 30). -/
def Ctx.atom (op : AtomOp) (f : Form) (c : Ctx) (s : State) : Res :=
  let n := atomBytes f
  let o := s.origin c.r c.g
  let once := isS f.d && isUni f.b && isUni f.c
  let ls := c.askers f once
  let reqs := ls.map fun l =>
    (⟨l, BitVec.ofNat 64 (c.addr f (l % 64)), n, BitVec.ofNat 64 (c.g.read c.tk f.lit (8 * n) (l % 64) f.c),
      BitVec.ofNat 64 (c.g.read c.tk none (8 * n) (l % 64) f.d)⟩ : Req)
  match c.failed f (reqs.filterMap fun q => s.atomFailure o n f.scope (q.lane, q.addr.toNat)) with
  | some r => r
  | none =>
    let id := c.g.nextId
    let dests := loadDests c.g f (c.on f.guard)
    let ivs := if c.g.lpass && isV f.d then
        ((c.on f.guard).map fun l => landLoupe c.g f l false (.bytes (List.replicate n 0) false)).flatten else []
    let kind := PendKind.atom none op (f.imm.getLsbD 0) f.scope (n == 8) reqs f
    let s := c.start f (s.releases c.r.core) kind dests (dests.map fun _ => 0)
    .next ((s.modPend c.r id fun p => { p with ivs := ivs }).serveAtom c.r id)

/-- Send one RED to its engine, or to its target device. -/
def Ctx.sendRed (c : Ctx) (all : LaneMask) (o : Origin) (red : Nat) (uns wide : Bool) (sc : BitVec 4) (s : State) (x : Put × Req × WordAt) : State :=
  match x.2.2 with
  | .peer d _ =>
    if isPeerKey d then (s.drainLine c.r.core x.2.2).sendPeer (c.logEntry all 2 sc red uns (x.1, .ok (.phys 0)))
    else State.sendAtom false o none (redOp red) uns wide c.tk s (x.2.1, x.2.2)
  | w => State.sendAtom false o none (redOp red) uns wide c.tk s (x.2.1, w)

/-- RED (R230): scratchpad requests go at once; when a GEN or PEER request faults, all of them retire into the side
log (R364). -/
def Ctx.red (red : Nat) (f : Form) (c : Ctx) (s : State) : Res :=
  let n := atomBytes f
  let o := s.origin c.r c.g
  let once := isS f.d && isUni f.b
  let all := maskOf (c.notOff f.guard)
  let uns := f.imm.getLsbD 0
  let xs := (c.askers f once).map fun l =>
    let v := c.g.read c.tk f.lit (8 * n) (l % 64) f.d
    ((⟨l, c.addr f (l % 64), leBytes n v, false⟩ : Put),
     (⟨l, BitVec.ofNat 64 (c.addr f (l % 64)), n, BitVec.ofNat 64 v, 0⟩ : Req))
  match c.failed f (xs.filterMap fun x => s.atomFailure o n f.scope (x.1.lane, x.1.addr)) with
  | some r => r
  | none =>
    match (s.releases c.r.core).atomPlaces o n (xs.map (·.2)) with
    | (s1, ps) =>
      let zs := (xs.map (·.1)).zip ps
      let good := zs.filterMap fun z => match z.2.2 with
        | .ok w => some (z.1, z.2.1, w)
        | .error _ => none
      let send := fun (s : State) z => c.sendRed all o red uns (n == 8) f.scope s z
      if good.length = zs.length then .next (good.foldl send s1)
      else if c.sys then
        match atomFaults ps with
        | (q, _) :: _ => .next (s1.doubleFault c.r.core c.r.qtr 0x11 c.pc q.addr)
        | [] => .stall s1
      else
        let retire := zs.filter fun z => buffered z.1.addr
        if !s.logFits c.r.core retire.length then .stall s
        else
          let s2 := (good.filter fun z => !buffered z.1.addr).foldl send s1
          .next (s2.logIn c.r.core (retire.map fun z => c.logEntry all 2 f.scope red uns
            (z.1, match z.2.2 with | .ok _ => .ok (.phys 0) | .error e => .error e)))

/-- The translation of a pool object's lines at issue: a fault or a wait (R363). -/
def State.poolProbe (s : State) (o : Origin) (id : Nat) : List Nat → State × Except Miss Unit
  | [] => (s, .ok ())
  | a :: r => match s.place o .atomic a 1 with
    | (s, .ok _) => s.poolProbe o id r
    | (s, .error (.fault c)) => (s, .error (.fault c a))
    | (s, .error .lock) => (s, .error (.wait .lock))
    | (s, .error (.remote _)) => (s, .error (.wait .lock))
    | (s, .error .overlap) => (s, .error (.wait .log))

/-- Lines of a pool object within its capability, at most the header and 512 bytes of map. -/
def poolLines (c : Cap) : List Nat :=
  if pathOf c.base = 0 then (List.range (ceilDiv (min c.len 576) 64)).map fun i => (c.base + 64 * i) % 2 ^ 64 else []

/-- Send an outstanding POOL request to its engine, at issue or again. -/
def State.servePool (s : State) (r : GRef) (id : Nat) : State :=
  match (s.group? r).bind fun g => (g.pend.find? fun p => p.id == id).map fun p => (g, p) with
  | none => s
  | some (g, p) => match p.kind with
    | .pool _ free c blk =>
      let o := s.origin r g
      let set (w : Option HoldWhy) (s : State) : State := s.modPend r id fun p => { p with kind := .pool w free c blk }
      if s.atEngine r id onceLane then s
      else match s.poolProbe o id (poolLines c) with
        | (s, .error (.fault sub a)) =>
          (set (some .record) s).accessFault r g p [(⟨onceLane, BitVec.ofNat 64 a, 64, 0, 0⟩, sub)]
        | (s, .error (.wait w)) => (set (some w) s).accessWait r id w
        | (s, .ok _) => match s.atomPlace o c.base 1 with
          | (s, .ok w) =>
            let s := (set none s).unhold r id
            let s := (poolLines c).foldl (fun s a => match (s.atomPlace o a 1).2 with
              | .ok w => s.drainLine r.core w
              | .error _ => s) s
            (match engineAt o w with
             | some (e, port) => s.claspIn e
                 { port := port, ref := r, pend := some id, ten := o.ten, op := .add, uns := false, wide := false,
                   req := ⟨onceLane, BitVec.ofNat 64 c.base, 64, 0, 0⟩,
                   core := (match w with | .spad k _ => some k | _ => none),
                   loc := (match w with | .spad _ off => off | .mem k => k | .peer _ va => va), pool := true, serial := s.ticket }
             -- a pool in the neighbour tier: its home engine is on the other device, and it is served in place
             | none => s.poolServe r id)
          | (s, .error _) => s
    | _ => s

/-- POOL.A and POOL.F (R236, R237). -/
def Ctx.pool (free : Bool) (f : Form) (c : Ctx) (s : State) : Res :=
  let cp := c.g.cap c.tk (f.a.num / 2)
  let blk := if free then c.g.cap c.tk (f.b.num / 2) else Cap.null
  let k := cp.check 7 1 64 0
  let o := s.origin c.r c.g
  let id := c.g.nextId
  if k != 0 then c.trapOn f 0x0b k 0 (f.a.num / 2)
  else if cp.base % 64 != 0 then c.trapOn f 0x09 0 cp.base 0
  else if !([0, 2, 4].contains (pathOf cp.base)) || (s.path o .atomic cp.base 1).isNone then c.trapOn f 0x0a 0 cp.base 0
  else
    let dests := (if free then [] else [Reg.scalar f.d.num, Reg.scalar (f.d.num + 1)]) ++ c.predDests f f.c.num
    let s := c.start f s (.pool none free cp blk) dests (dests.map fun _ => 0)
    .next ((s.modPend c.r id fun p => { p with capTag := if free then none else some (f.d.num / 2, false) }).servePool c.r id)

/-! ### Meanings -/

/-- ATOM's rules (R229). -/
def atomRules (f : Form) : Rules :=
  let w := 8 * atomBytes f
  { Rules.once true (dstF (isDst w)) (srcF isS) (srcF isAny) (srcF (isSrc w)) 64 with und := true }
/-- RED's rules. -/
def redRules (f : Form) : Rules :=
  Rules.once false (srcF (isSrc (8 * atomBytes f))) (srcF isS) (srcF isAny) none 64
/-- Issue an ATOM. -/
def State.issueAtom (s : State) (op : AtomOp) (f : Form) : Host.Outcome State Fault Refusal :=
  s.issueForm (atomRules f) f (Ctx.atom op f)
/-- Issue a RED. -/
def State.issueRed (s : State) (n : Nat) (f : Form) : Host.Outcome State Fault Refusal :=
  s.issueForm (redRules f) f (Ctx.red n f)

/-- ATOM.add (R230). -/
def execAtomAdd (f : Form) (s : State) : Host.Outcome State Fault Refusal := s.issueAtom .add f
/-- ATOM.fadd (R230). -/
def execAtomFadd (f : Form) (s : State) : Host.Outcome State Fault Refusal := s.issueAtom .fadd f
/-- ATOM.min (R230). -/
def execAtomMin (f : Form) (s : State) : Host.Outcome State Fault Refusal := s.issueAtom .min f
/-- ATOM.max (R230). -/
def execAtomMax (f : Form) (s : State) : Host.Outcome State Fault Refusal := s.issueAtom .max f
/-- ATOM.and (R230). -/
def execAtomAnd (f : Form) (s : State) : Host.Outcome State Fault Refusal := s.issueAtom .and f
/-- ATOM.or (R230). -/
def execAtomOr (f : Form) (s : State) : Host.Outcome State Fault Refusal := s.issueAtom .or f
/-- ATOM.xor (R230). -/
def execAtomXor (f : Form) (s : State) : Host.Outcome State Fault Refusal := s.issueAtom .xor f
/-- ATOM.xchg (R230). -/
def execAtomXchg (f : Form) (s : State) : Host.Outcome State Fault Refusal := s.issueAtom .xchg f
/-- ATOM.cas (R230). -/
def execAtomCas (f : Form) (s : State) : Host.Outcome State Fault Refusal := s.issueAtom .cas f
/-- RED.add (R230). -/
def execRedAdd (f : Form) (s : State) : Host.Outcome State Fault Refusal := s.issueRed 0 f
/-- RED.fadd (R230). -/
def execRedFadd (f : Form) (s : State) : Host.Outcome State Fault Refusal := s.issueRed 1 f
/-- RED.min (R230). -/
def execRedMin (f : Form) (s : State) : Host.Outcome State Fault Refusal := s.issueRed 2 f
/-- RED.max (R230). -/
def execRedMax (f : Form) (s : State) : Host.Outcome State Fault Refusal := s.issueRed 3 f
/-- RED.and (R230). -/
def execRedAnd (f : Form) (s : State) : Host.Outcome State Fault Refusal := s.issueRed 4 f
/-- RED.or (R230). -/
def execRedOr (f : Form) (s : State) : Host.Outcome State Fault Refusal := s.issueRed 5 f
/-- RED.xor (R230). -/
def execRedXor (f : Form) (s : State) : Host.Outcome State Fault Refusal := s.issueRed 6 f
/-- POOL.A (R236, R237). -/
def execPoolA (f : Form) (s : State) : Host.Outcome State Fault Refusal :=
  s.issueForm (Rules.once true (dstF isS2) (srcF isS2) none (srcF isP) 64) f (Ctx.pool false f)
/-- POOL.F (R236, R237). -/
def execPoolF (f : Form) (s : State) : Host.Outcome State Fault Refusal :=
  s.issueForm (Rules.once true none (srcF isS2) (srcF isS2) (srcF isP) 64) f (Ctx.pool true f)

/-- HOT_LINE_WRITEBACK (R232): a memory-side engine writes a hot line back; memory holds its bytes already. -/
def execHotLineWriteback (engine line : Nat) (s : State) : Host.Outcome State Fault Refusal :=
  .next { s with clasp := { s.clasp with hot := mset s.clasp.hot engine (sdel (mgetD s.clasp.hot engine []) line) } }

end Sys2Proof.Machine
end

