-- ==== Sys2Proof/Machine/Capability.lean ====
section
/-! DEFINITION. The capability instructions: CNAR, CPERM, CGET, CCHK and CMINT (R86 to R91). -/

namespace Sys2Proof.Machine

open Sys2Proof

/-- The capability that an even scalar operand names. -/
def Ctx.capOf (c : Ctx) (o : Opnd) : Cap := c.g.cap c.tk (o.num / 2)
/-- A number operand. -/
def Ctx.number (f : Form) (c : Ctx) (o : Opnd) : Nat := c.g.read c.tk f.lit 64 0 o
/-- IMM. -/
def immOf (f : Form) : Nat := f.imm.toNat

/-- Make a uniform effect, or, when no thread is at T, make the tiles of the threads at U undecided (R320). -/
def Ctx.uniform (f : Form) (c : Ctx) (s : State) (k : Unit → Res) : Res :=
  if (c.on f.guard).isEmpty then c.done s (c.g, c.maybe f.guard) else k ()

/-- The capability that CNAR computes (R87). -/
def narrowed (a : Cap) (b n imm : Nat) : Cap :=
  let relay := bit imm 23
  capOf ((a.base + b) % 2 ^ 64) (n % 2 ^ 40) a.perm (if relay then slice imm 15 12 else a.esz)
    (if relay then slice imm 11 0 else a.pitch) (a.tag && (!relay || slice imm 15 12 ≤ 4))

/-- CNAR (R87). -/
def Ctx.cnar (f : Form) (c : Ctx) (s : State) : Res :=
  c.uniform f s fun _ =>
    let a := c.capOf f.a
    let b := c.number f f.b
    let n := c.number f f.c
    if a.tag && decide (b + n > a.len) then c.trapOn f 0x0b 4 0 (f.a.num / 2)
    else .next (s.setGroup c.r (c.g.setCap c.tk (f.d.num / 2) (narrowed a b n (immOf f))))

/-- The capability that CPERM writes (R88). -/
def permMasked (a : Cap) (m : Nat) : Cap := capOf a.base a.len (a.perm &&& m % 256) a.esz a.pitch a.tag

/-- CPERM (R88). -/
def Ctx.cperm (f : Form) (c : Ctx) (s : State) : Res :=
  c.uniform f s fun _ =>
    .next (s.setGroup c.r (c.g.setCap c.tk (f.d.num / 2) (permMasked (c.capOf f.a) (c.number f f.b))))

/-- The field that CGET reads (R89). -/
def capField (a : Cap) : Nat → Nat
  | 0 => a.base
  | 1 => a.len
  | 2 => a.perm
  | 3 => a.esz
  | 4 => 64 * a.pitch
  | 5 => b2n a.tag
  | _ => (a.base + a.len) % 2 ^ 64

/-- CGET (R89). -/
def Ctx.cget (f : Form) (c : Ctx) (s : State) : Res :=
  c.uniform f s fun _ =>
    .next (s.setGroup c.r (c.g.setScalar c.tk f.d.num (BitVec.ofNat 64 (capField (c.capOf f.a) (immOf f % 8)))))

/-- CCHK (R90): the sub-cause of the first failure, or 0. -/
def Ctx.cchk (f : Form) (c : Ctx) (s : State) : Res :=
  c.uniform f s fun _ =>
    let k := (c.capOf f.a).check (immOf f % 256) 1 (c.number f f.c) (c.number f f.b)
    .next (s.setGroup c.r (c.g.setScalar c.tk f.d.num (BitVec.ofNat 64 k)))

/-- The capability that CMINT forms (R91). -/
def minted (a b n : Nat) : Cap := ⟨BitVec.ofNat 128 (a % 2 ^ 64 + b % 2 ^ 40 * 2 ^ 64 + n % 2 ^ 24 * 2 ^ 104), true⟩

/-- CMINT (R91). -/
def Ctx.cmint (f : Form) (c : Ctx) (s : State) : Res :=
  let a := c.number f f.a
  let b := c.number f f.b
  let n := c.number f f.c
  if b / 2 ^ 40 ≠ 0 ∨ n / 2 ^ 24 ≠ 0 ∨ !(minted a b n).formed then c.trapOn f 0x0b 2 0 (f.d.num / 2)
  else .next (s.setGroup c.r (c.g.setCap c.tk (f.d.num / 2) (minted a b n)))

/-- CNAR (R87). -/
def execCnar (f : Form) (s : State) : Host.Outcome State Fault Refusal :=
  s.issueForm (Rules.plain (dstF isS2) (srcF isS2) (srcF isUni) (srcF isUni) 64) f (Ctx.cnar f)
/-- CPERM (R88). -/
def execCperm (f : Form) (s : State) : Host.Outcome State Fault Refusal :=
  s.issueForm (Rules.plain (dstF isS2) (srcF isS2) (srcF isUni) none 64) f (Ctx.cperm f)
/-- CGET (R89). -/
def execCget (f : Form) (s : State) : Host.Outcome State Fault Refusal :=
  s.issueForm (Rules.plain (dstF isS) (srcF isS2) none none 64) f (Ctx.cget f)
/-- CCHK (R90). -/
def execCchk (f : Form) (s : State) : Host.Outcome State Fault Refusal :=
  s.issueForm (Rules.plain (dstF isS) (srcF isS2) (srcF isUni) (srcF isUni) 64) f (Ctx.cchk f)
/-- CMINT (R91). -/
def execCmint (f : Form) (s : State) : Host.Outcome State Fault Refusal :=
  s.issueForm { Rules.plain (dstF isS2) (srcF isUni) (srcF isUni) (srcF isUni) 64 with priv := true } f (Ctx.cmint f)

end Sys2Proof.Machine
end

