-- ==== Sys2Proof/Machine/Loupe.lean ====
section
/-! DEFINITION. Loupe passes: a group's start and its batches, LFILL, LSPLIT, IVPT, IVLO, IVHI and LSUM (R15, R28, R311 to
R316, R319, R330 to R334). -/

namespace Sys2Proof.Machine

open Sys2Proof

/-! ### Group start and batches -/

/-- The group as at group start (R15, R28): every thread at the entry clause, the identity word in s46, argument k in
ck. -/
def Group.begin (g : Group) (entry : DWord) (args : List Cap) : Group :=
  let half (k : Nat) (c : Cap) : Nat × DWord := (k, BitVec.ofNat 64 (if k % 2 = 0 then c.bits.toNat % 2 ^ 64 else c.bits.toNat / 2 ^ 64))
  let ks := (args.zip (List.range args.length)).map fun x => [half (2 * x.2) x.1, half (2 * x.2 + 1) x.1]
  { g with
      scal := lset (ks.flatten.foldl (fun l x => lset l x.1 x.2) (List.replicate 48 0)) 46 (BitVec.ofNat 64 (g.gidx % 32)),
      ctag := (List.range args.length).foldl (fun m k => m ||| (1#24 <<< k)) 0,
      latches := List.replicate 3 Latch.empty,
      threads := List.replicate 64 { Thread.start with pc := entry } }

/-- What a lane takes from the queue: entry, rectangle, element, mode (R314). -/
structure Item where
  entry : Nat
  rect  : Rect
  elem  : Nat
  point : Bool
deriving DecidableEq, Repr

/-- Has a tile work that is not yet taken? -/
def Tile.hasWork (t : Tile) : Bool := if t.point then t.next < t.rect.count else !t.taken

/-- Take up to n whole interval tiles in FIFO order, up to the first point entry with work (R314, step 1). -/
def takeIntervals : Nat → List Tile → List Tile × List Item
  | _, [] => ([], [])
  | 0, ts => (ts, [])
  | n + 1, t :: ts =>
    if !t.hasWork then
      let r := takeIntervals (n + 1) ts
      (t :: r.1, r.2)
    else if t.point then (t :: ts, [])
    else
      let r := takeIntervals n ts
      ({ t with taken := true } :: r.1, ⟨t.id, t.rect, 0, false⟩ :: r.2)

/-- Take up to n elements of point entries in FIFO order, up to the first interval entry with work (R314, step 1). -/
def takePoints : Nat → List Tile → List Tile × List Item
  | _, [] => ([], [])
  | n, t :: ts =>
    if n = 0 then (t :: ts, [])
    else if !t.hasWork then
      let r := takePoints n ts
      (t :: r.1, r.2)
    else if !t.point then (t :: ts, [])
    else
      let k := min n (t.rect.count - t.next)
      let r := takePoints (n - k) ts
      ({ t with next := t.next + k, open_ := t.open_ + k } :: r.1,
       ((List.range k).map fun i => ⟨t.id, t.rect.elem (t.next + i), t.next + i, true⟩) ++ r.2)

/-- Take n first tiles from the cursor, each with a free entry (R313, R314, step 2). -/
def Grid.takeFirst (x : Grid) : Nat → Grid × List Item
  | 0 => (x, [])
  | n + 1 =>
    let l := x.loupe
    let rect := x.firstTile l.cursor
    let id := l.freeId
    let r := ({ x with loupe := { l with tiles := l.tiles ++ [⟨id, rect, 0, false, true, 0, 0⟩], cursor := l.cursor + 1 } } : Grid).takeFirst n
    (r.1, ⟨id, rect, 0, false⟩ :: r.2)

/-- What a group finds when it takes a batch. -/
inductive Batch where
  | run (x : Grid) (items : List Item)
  | wait
  | finished

/-- Take a batch (R314). -/
def Grid.takeBatch (x : Grid) : Batch :=
  let l := x.loupe
  match l.tiles.find? Tile.hasWork with
  | some t =>
    let r := if t.point then takePoints 64 l.tiles else takeIntervals 64 l.tiles
    .run { x with loupe := { l with tiles := r.1 } } r.2
  | none =>
    if l.cursor < x.tileCount then
      (if l.free = 0 then .wait
       else
        let r := x.takeFirst (min 64 (min l.free (x.tileCount - l.cursor)))
        .run r.1 r.2)
    else .finished

/-- A thread that has an item: its rectangle in v0 and v1, KIND S (R319). -/
def Item.thread (entry : DWord) (i : Item) : Thread :=
  let w (n : Nat) : Word := BitVec.ofNat 32 n
  { Thread.start with
      pc := entry, lv := true, point := i.point, entry := i.entry, elem := i.elem, rect := i.rect,
      stack := [(0, w i.rect.x0), (1, w i.rect.x1), (2, w i.rect.y0), (3, w i.rect.y1)],
      hid := [(0, ⟨0, false, false⟩), (2, ⟨0, false, false⟩)] }

/-- A group at the start of a batch: lanes without an item start exited (R314). -/
def Group.batch (g : Group) (entry : DWord) (args : List Cap) (items : List Item) : Group :=
  let g := g.begin entry args
  { g with threads := (List.range 64).map fun l => match items[l]? with
      | some i => i.thread entry
      | none => { Thread.start with pc := entry, live := false } }

/-- Threads that have ended and still hold fills: they wait for a page or for an ERET. -/
def Group.filling (g : Group) : List Nat := allLanes.filter fun l => (g.thread l).lv && !(g.thread l).live

/-- A Loupe group takes a batch, waits for a free entry, or retires (R314). -/
def State.takeBatch (s : State) (r : GRef) : State :=
  match s.group? r with
  | none => s
  | some g => match s.gridOf g with
    | none => s
    | some x => match x.takeBatch with
      | .run x' items =>
        let s := s.modGrid g.part g.handle fun _ => x'
        ((s.setGroup r (g.batch (BitVec.ofNat 64 (x.word 1)) x.args items)).makeReady r).fillTurns r.core r.qtr
      | .wait => (s.setGroup r { g with st := .batchWait }).fillTurns r.core r.qtr
      | .finished => s.retireGroup r

/-- May the tenant of a group go on: it is not frozen, nor being frozen (R368)? -/
def State.thawed (s : State) (g : Group) : Bool :=
  !g.frozen && (match s.tenant? g.ten with
    | some t => !t.frozen && !t.freezing
    | none => true)

/-- The batch of a group: held fills that waited are tried again; when the group has drained, it takes a batch. -/
def State.batchStart (s : State) (r : GRef) : State :=
  match s.group? r with
  | none => s
  | some g =>
    if !g.lpass || !s.thawed g then s
    else
      let s := g.filling.foldl (fun s l => s.performFills r l 5) s
      match s.group? r with
      | none => s
      | some g =>
        if (g.st == .draining || g.st == .batchWait) && g.flags.all (· == 0) && g.filling.isEmpty then s.takeBatch r else s

/-- LOUPE_BATCH_START (R314). -/
def execLoupeBatchStart (r : GRef) (s : State) : Host.Outcome State Fault Refusal := .next (s.batchStart r)

/-! ### LFILL and LSPLIT (R331, R332) -/

/-- An instruction that only a Loupe grid has: elsewhere its own check finds it illegal (R331, R129). -/
def State.issueLoupe (s : State) (ru : Rules) (f : Form) (body : Ctx → State → Res) :
    Host.Outcome State Fault Refusal :=
  s.issueForm ru f fun c s => if c.g.lpass then body c s else c.trapOn f 0x01 0 0 0

/-- What an LFILL's checks find in a thread: it is held, the tile is undecided, or a trap. -/
inductive FillCheck where
  | hold
  | und
  | trap (cause sub addr info : Nat)
deriving DecidableEq, Repr

/-- The paths of LFILL and LSUM. -/
def loupePath (a : Nat) : Bool := [0, 2, 4].contains (pathOf a)

/-- A trap in point mode, an undecided tile in interval mode. -/
def strictly (point : Bool) (cause sub addr info : Nat) : FillCheck := if point then .trap cause sub addr info else .und

/-- The checks of LFILL in one thread, in their order (R331): element size, path, capability, value, room. -/
def State.fillCheck (s : State) (o : Origin) (t : Thread) (cp : Cap) (cnum : Nat) (v : Iv) : FillCheck :=
  let e := 2 ^ cp.esz
  let r := t.rect
  let off := r.y0 * 64 * cp.pitch + r.x0 * e
  let first := (cp.base + off) % 2 ^ 64
  let last := (cp.base + off + (r.h - 1) * 64 * cp.pitch + r.w * e - 1) % 2 ^ 64
  let k := cp.check 2 r.h (r.w * e) off
  if cp.esz > 2 then .trap 0x0c 2 0 0
  else if !loupePath first || (s.path o .store first 1).isNone then .trap 0x0a 0 first 0
  else if k ≠ 0 then strictly t.point 0x0b k 0 cnum
  else if (s.path o .store last 1).isNone then .trap 0x0a 0 last 0
  else if !v.isPoint then .und
  else if t.fills.length ≥ 4 then strictly t.point 0x0c 3 0 0
  else .hold

/-- LFILL (R331). -/
def Ctx.lfill (f : Form) (c : Ctx) (s : State) : Res :=
  let o := s.origin c.r c.g
  let cp := c.capOf f.a
  let val (l : Nat) : Iv := c.g.readIv c.tk f.lit 32 l f.b
  let xs := (c.on f.guard).map fun l => (l, s.fillCheck o (c.g.thread l) cp (f.a.num / 2) (val l))
  let bad := xs.filterMap fun x => match x.2 with
    | .trap cause sub addr info => some (x.1, cause, sub, BitVec.ofNat 64 addr, BitVec.ofNat 64 info)
    | _ => none
  match firstFailure bad with
  | some r => r
  | none =>
    let und := (c.set.filter fun l => (c.maybe f.guard).contains l || xs.contains (l, .und))
    let held := (xs.filter fun x => x.2 == .hold).map (·.1)
    let g := c.g.modThreads held fun l t =>
      { t with fills := t.fills ++ [⟨cp, BitVec.ofNat 32 (val l).lo, c.pc, c.len, false⟩] }
    c.done s (g, und)

/-- LFILL (R331). -/
def execLfill (f : Form) (s : State) : Host.Outcome State Fault Refusal :=
  s.issueLoupe (Rules.plain none (srcF isS2) (srcF isAny) none 64) f (Ctx.lfill f)
/-- LSPLIT (R332): in point mode it has no effect. -/
def execLsplit (f : Form) (s : State) : Host.Outcome State Fault Refusal :=
  s.issueLoupe (Rules.plain none none none none 64) f fun c s => .next (s.undecide c.r (c.notOff f.guard))

/-! ### IVPT, IVLO, IVHI (R333) -/

/-- IVPT (R333): T for a point, F otherwise. -/
def ivptOp : AluP := ⟨fun _ => true, fun _ => .tri .f⟩

/-- The KIND of an end: A's, or S where A has none. -/
def endKind (i : Iv) : Nat := if i.kind < 4 then i.kind else 0

/-- IVLO and IVHI at a width (R333): the end as a point of A's KIND. -/
def endOp (w : Nat) (hi : Bool) : Alu :=
  { dw := w, kind := fun vs => (vs.map endKind).headD 0, pt := fun vs => vs.headD 0,
    iv := fun vs => match vs with
      | v :: _ => .val (Iv.pt (endKind v) (if hi then v.hi else v.lo))
      | [] => .und }

/-- The width at which IVLO and IVHI copy: a scalar whole, a vector's word (R333). -/
def endWidth (f : Form) : Nat := if isS f.d then 64 else 32
/-- The rules of IVLO and IVHI. -/
def endRules (f : Form) : Rules :=
  Rules.plain (dstF fun o => isV o || isS o) (srcF (if isS f.d then isUni else isAny)) none none (endWidth f)

/-- IVPT (R333). -/
def execIvpt (f : Form) (s : State) : Host.Outcome State Fault Refusal :=
  s.issueForm (Rules.plain (dstF isP) (srcF isAny) none none 32) f fun c s => c.done s (c.aluP f [(f.a, 32)] ivptOp)
/-- IVLO (R333). -/
def execIvlo (f : Form) (s : State) : Host.Outcome State Fault Refusal :=
  s.issueForm (endRules f) f fun c s => c.done s (c.alu f [(f.a, endWidth f)] (endOp (endWidth f) false))
/-- IVHI (R333). -/
def execIvhi (f : Form) (s : State) : Host.Outcome State Fault Refusal :=
  s.issueForm (endRules f) f fun c s => c.done s (c.alu f [(f.a, endWidth f)] (endOp (endWidth f) true))

/-! ### LSUM (R330, R334) -/

/-- NBLK of a source of some bytes. -/
def sumBlocks (src : Cap) : Nat := ceilDiv src.len 1024

/-- The checks of LSUM, in their order (R334). -/
def State.sumCheck (s : State) (o : Origin) (dst src : Cap) (dn sn : Nat) : Check :=
  let n := 16 + 8 * sumBlocks src
  let on (c : Cap) (len : Nat) : Bool :=
    loupePath c.base && s.rangeOn o c.base ((c.base + len - 1) % 2 ^ 64)
  firstCheck [
    failIf (src.check 1 1 src.len 0 != 0) (0x0b, src.check 1 1 src.len 0, 0, sn),
    failIf (src.esz != 2 || src.pitch != 0 || src.len == 0 || src.len % 4 != 0) (0x0c, 3, 0, 0),
    failIf (dst.check 2 1 n 0 != 0) (0x0b, dst.check 2 1 n 0, 0, dn),
    failIf (!on src src.len) (0x0a, 0, src.base, 0),
    failIf (!on dst n) (0x0a, 0, dst.base, 0)]

/-- LSUM (R334). -/
def Ctx.lsum (f : Form) (c : Ctx) (s : State) : Res :=
  let o := s.origin c.r c.g
  let dst := c.capOf f.a
  let src := c.capOf f.b
  match s.sumCheck o dst src (f.a.num / 2) (f.b.num / 2) with
  | some (cause, sub, addr, info) => c.trapOn f cause sub addr info
  | none =>
    let id := c.g.nextId
    let owns := s.ownsAt o dst.base (16 + 8 * sumBlocks src)
    .next ((c.start f s (.lsum none dst src (BitVec.ofNat 2 f.mod.toNat) 0) [] []).modPend c.r id fun p => { p with owns := owns })

/-- A summary entry (R330): the least and the greatest element in KIND's order; for KIND F with a NaN the NaN entry. -/
def sumEntry (kind : Nat) (es : List Nat) : Nat :=
  if kind = 2 ∧ es.any (fun e => (fp32.unpack e).isNan) then 0x7fc000007fc00000
  else
    let pick (gt : Bool) (a b : Nat) : Nat :=
      if gt then (if ordKey kind 32 b > ordKey kind 32 a then b else a)
      else (if ordKey kind 32 b < ordKey kind 32 a then b else a)
    (es.drop 1).foldl (pick false) (es.headD 0) + (es.drop 1).foldl (pick true) (es.headD 0) * 2 ^ 32

/-- The header of a summary (R330): KIND, NBLK and SBASE. -/
def sumHeader (kind : Nat) (src : Cap) : List Byte :=
  leBytes 8 (kind * 2 ^ 32 + sumBlocks src % 2 ^ 32) ++ leBytes 8 src.base

/-- What one block of LSUM does: read it, write the header before the first, write its entry. -/
def State.sumBlock (s : State) (o : Origin) (me : GRef × Nat) (dst src : Cap) (kind b : Nat) : State × Option EGot :=
  let n := min 1024 (src.len - 1024 * b)
  match s.engineRead o (src.base + 1024 * b) n with
  | (s, .bytes bs) =>
    let es := (List.range (n / 4)).map fun i => ofLe ((bs.drop (4 * i)).take 4)
    let h := if b = 0 then s.engineWrite o dst.base (sumHeader kind src) (some me) else (s, none)
    (match h with
     | (s, none) => s.engineWrite o (dst.base + 16 + 8 * b) (leBytes 8 (sumEntry kind es)) (some me)
     | x => x)
  | (s, e) => (s, some e)

/-- One block of an outstanding LSUM; while its record is unserved or its tenant is frozen it stands still. -/
def State.sumStep (s : State) (r : GRef) (id : Nat) : State :=
  match (s.group? r).bind fun g => (g.pend.find? fun p => p.id == id).map fun p => (g, p) with
  | none => s
  | some (g, p) => match p.kind with
    | .lsum why dst src kind b =>
      if why == some .record || !s.thawed g || (s.core r.core).halted then s
      else
        let put (s : State) (w : Option HoldWhy) (b : Nat) : State :=
          s.modPend r id fun p => { p with kind := .lsum w dst src kind b }
        let on (s : State) : State :=
          if b + 1 < sumBlocks src then put s none (b + 1) else s.modPend r id fun p => p.finish []
        (match s.sumBlock (s.engineOrigin r g.ten g.team) (r, id) dst src kind.toNat b with
         | (s, none) => on s
         | (s, some (.fault c a)) => (put s (some .record) b).engineFault g.ten r c p.len p.pc a 4 0
         | (s, some (.wait w)) => put s (some w) b
         | (s, some _) => on s)
    | _ => s

/-- LSUM (R334). -/
def execLsum (f : Form) (s : State) : Host.Outcome State Fault Refusal :=
  s.issueForm (Rules.once true none (srcF isS2) (srcF isS2) none 64) f (Ctx.lsum f)
/-- LSUM_BLOCK (R334). -/
def execLsumBlock (r : GRef) (id : Nat) (s : State) : Host.Outcome State Fault Refusal := .next (s.sumStep r id)

end Sys2Proof.Machine
end

