-- ==== Sys2Proof/Machine/Sync.lean ====
section
/-! DEFINITION. The synchronisation instructions: barrier objects and the team barrier, PHASE, FENCE, FOPD and TOKWT,
and the operations that wait at another core's barrier unit (R21, R274 to R289). -/

namespace Sys2Proof.Machine

open Sys2Proof

/-! ### Objects (R275, R279) -/

/-- The object that A + B names: its core and offset, or the trap of R279. -/
def Ctx.object (f : Form) (c : Ctx) (s : State) : Except (Nat × Nat) (Nat × Nat) :=
  let a := (c.g.read c.tk f.lit 64 0 f.a + c.g.read c.tk f.lit 64 0 f.b) % 2 ^ 64
  let o := s.origin c.r c.g
  match (if pathOf a = 2 ∨ pathOf a = 4 then s.path o .load a 1 else none) with
  | some (.spad k off _) => if a % 16 = 0 then .ok (k, off) else .error (0x09, a)
  | _ => .error (0x0a, a)

/-- Run an operation on the object that A + B names. -/
def Ctx.onObject (f : Form) (c : Ctx) (s : State) (k : Nat → Nat → Res) : Res :=
  match c.object f s with
  | .error (cause, a) => c.trapOn f cause 0 a 0
  | .ok (core, off) => k core off

/-- A source operand of 64 bits. -/
def Ctx.val (f : Form) (c : Ctx) (o : Opnd) : Nat := c.g.read c.tk f.lit 64 0 o

/-- One operation at a core's barrier unit. -/
def State.barDo (s : State) (core : Nat) : BarOp → State
  | .init off n => s.barInit core off n
  | .arrive off => s.barArrive core off
  | .expect off n => s.barExpect core off n
  | .test off q st r id =>
    let code := s.barStatus core off q
    s.modPend r id fun p => if st then p.finish [BitVec.ofNat 64 code] else p.finishAll (code == 0)
  | .wait off q r id =>
    match s.barStatus core off q with
    | 0 => s.modPend r id fun p => p.finishAll true
    | 1 => s.modPend r id fun p => { p with kind := .bwait (some (core, off)) q 0 }
    | _ => s.modPend r id fun p => p.finishAll false

/-- An operation leaves for a barrier unit: on the issuing core's own scratchpad it takes effect in program order, on
another core's it waits there in arrival order (R275), and an arrival there is a release (R293). -/
def Ctx.barSend (c : Ctx) (core : Nat) (op : BarOp) (s : State) : State :=
  if core = c.r.core then s.barDo core op
  else (s.releases c.r.core).modCore core fun k => { k with barq := k.barq ++ [op] }

/-- BINIT (R280). -/
def Ctx.binit (f : Form) (c : Ctx) (s : State) : Res :=
  c.onObject f s fun core off =>
    let n := c.val f f.c
    if n = 0 ∨ n > 4095 then c.trapOn f 0x0c 3 0 0 else .next (c.barSend core (.init off n) s)

/-- BARV (R281). -/
def Ctx.barv (f : Form) (c : Ctx) (s : State) : Res :=
  if f.a = .zero then .next (s.teamArrive c.r)
  else c.onObject f s fun core off => .next (c.barSend core (.arrive off) s)

/-- BEXP (R282). -/
def Ctx.bexp (f : Form) (c : Ctx) (s : State) : Res :=
  c.onObject f s fun core off => .next (c.barSend core (.expect off (c.val f f.c)) s)

/-- The generation of the group's last BARV, when it has not completed yet (R283). -/
def State.teamPending (s : State) (r : GRef) (g : Group) : Option Nat :=
  match g.bgen, s.team r g with
  | some n, some t => if t.gen > n then none else some n
  | _, _ => none

/-- BWAIT (R283). -/
def Ctx.bwait (f : Form) (c : Ctx) (s : State) : Res :=
  let dests := c.predDests f f.d.num
  let id := c.g.nextId
  if f.a = .zero then
    if c.waitsFull true then .stall s
    else match s.teamPending c.r c.g with
      | none => .next ((c.start f s (.bwait none false 0) dests []).modPend c.r id fun p => p.finishAll true)
      | some n => .next (c.start f s (.bwait none false n) dests [])
  else c.onObject f s fun core off =>
    if c.waitsFull true then .stall s
    else
      let q := bit (c.val f f.c) 0
      .next (c.barSend core (.wait off q c.r id) (c.start f s (.bsent core off q) dests []))

/-- BTRY (R284). -/
def Ctx.btry (f : Form) (c : Ctx) (s : State) : Res :=
  let st := f.imm.getLsbD 0
  let dests := if st then [Reg.scalar f.d.num] else c.predDests f f.d.num
  c.onObject f s fun core off =>
    if c.waitsFull true then .stall s
    else
      let q := bit (c.val f f.c) 0
      .next (c.barSend core (.test off q st c.r c.g.nextId) (c.start f s (.btry core off q st) dests []))

/-! ### PHASE, FENCE, FOPD (R286 to R288) -/

/-- Note the ticket of issue in the operation that has just been added. -/
def State.stampPend (s : State) (r : GRef) (id : Nat) : State := s.modPend r id fun p => { p with since := s.ticket }

/-- PHASE: the group's next phase opens; its buffered stores drain where the scope asks for it (R286, R292). -/
def Ctx.phase (f : Form) (c : Ctx) (s : State) : Res :=
  if c.waitsFull false then .stall s
  else
    let s := (c.start f s (.phase f.scope) [] []).stampPend c.r c.g.nextId
    let s := s.modGroup c.r fun g => { g with phase := g.phase + 1 }
    .next (if f.scope.toNat ≥ 4 then s.drainPub c.r.core fun e => e.ref == c.r else s)

/-- FENCE (R287). -/
def Ctx.fence (f : Form) (c : Ctx) (s : State) : Res := .next ((c.start f s .fence [] []).stampPend c.r c.g.nextId)

/-- FOPD (R288). -/
def Ctx.fopd (c : Ctx) (s : State) : Res := .next (s.modGroup c.r fun g => { g with fopd := s.ticket, fopdFar := g.covered })

/-- An ATOM or POOL request that is not complete. -/
def Pend.isAtomic (p : Pend) : Bool :=
  !p.done && (match p.kind with
    | .atom _ _ _ _ _ _ _ => true
    | .pool _ _ _ _ => true
    | _ => false)

/-- A load, LDK or LDC, or an ATOM or POOL request, that is not complete. -/
def Pend.isAccess (p : Pend) : Bool :=
  !p.done && (match p.born with
    | .load _ _ _ _ _ => true
    | .atom _ _ _ _ _ _ _ => true
    | .pool _ _ _ _ => true
    | _ => false)

/-- The REDs of a group, issued before a ticket, that are not performed: they wait at an engine or at a peer, or in the side log
(R305). -/
def State.redsOut (s : State) (r : GRef) (tk : Nat) : Bool :=
  (s.clasp.reqs.any fun e => e.2.any fun q => q.ref == r && q.pend.isNone && q.serial < tk)
    || (s.fabric.sent.any fun e => e.2.ref == r && e.2.kind == 2 && e.2.serial < tk)
    || (s.core r.core).log.any fun e => e.ref == r && e.kind == 2 && e.serial < tk

/-- Has the core's side log entries of a group from before a ticket? -/
def State.logsOut (s : State) (r : GRef) (tk : Nat) : Bool :=
  (s.core r.core).log.any fun e => e.ref == r && e.serial < tk

/-- May a PHASE complete (R286)? -/
def State.phaseMet (s : State) (r : GRef) (g : Group) (p : Pend) (sc : Nat) : Bool :=
  !(g.pend.any fun x => x.id < p.id && x.isAtomic) && !s.redsOut r p.since && !s.logsOut r p.since
    && (sc < 8 || !(s.fabric.sent.any fun e => e.2.ref == r && e.2.serial < p.since))

/-- May a FENCE complete (R287)? -/
def State.fenceMet (s : State) (r : GRef) (g : Group) (p : Pend) : Bool :=
  !(g.pend.any fun x => x.id < p.id && x.isAccess) && !s.redsOut r p.since

/-- A write's note at a boundary of scope code `sc` of its group: the writes from before a ticket are published to CON reads at .cl and
wider, to DAP reads at .ho and wider (R302, R303). -/
def Own.shown (gid : Gid) (tk sc : Nat) (o : Own) : Own :=
  if o.gid == gid && o.serial < tk then { o with con := o.con && sc < 4, dap := o.dap && sc < 7 } else o

/-- The boundary of a phase: the group's writes of it are published, and its CON reads see memory as it now is (R302, R303). -/
def State.phaseShow (s : State) (r : GRef) (tk sc : Nat) : State :=
  match s.group? r with
  | none => s
  | some g =>
    let gid := s.gidOf r g
    let note (e : OldByte) : OldByte := { e with own := e.own.map (Own.shown gid tk sc) }
    State.openGroup { s with memOld := s.memOld.map note } gid

/-! ### TOKWT (R98, R289) -/

/-- The dependence test of R98. -/
def depTest (token target : Word) : Bool := !(token - target).getLsbD 31

/-- A token of a partition. -/
def State.token (s : State) (part n : Nat) : Word := ((s.part? part).bind fun p => mget p.tokens n).getD 0

/-- TOKWT. -/
def Ctx.tokwt (f : Form) (c : Ctx) (s : State) : Res :=
  let n := c.val f f.a
  let v : Word := BitVec.ofNat 32 (c.val f f.b)
  let dests := c.predDests f f.d.num
  if n ≥ 4096 then c.trapOn f 0x0c 3 0 0
  else if c.waitsFull true then .stall s
  else
    let met := depTest (s.token c.g.part n) v
    let s := c.start f s (.tokwt n v) dests []
    .next (if f.imm.getLsbD 0 || met then s.modPend c.r c.g.nextId fun p => p.finishAll met else s)

/-- Complete the TOKWTs that a change of tokens satisfies; those of a frozen group stay outstanding (R368). -/
def State.pokeTokens (s : State) (part : Nat) : State :=
  { s with groups := s.groups.map fun x =>
      if x.2.part = part ∧ !x.2.frozen then (x.1, { x.2 with pend := x.2.pend.map fun p => match p.kind with
        | .tokwt n v => if depTest (s.token part n) v then p.finishAll true else p
        | _ => p })
      else x }

/-! ### Meanings -/

/-- Scalar, `zero` or literal. -/
def isSZL (o : Opnd) : Bool := isSZ o || o == .lit

/-- BINIT (R280). -/
def execBinit (f : Form) (s : State) : Host.Outcome State Fault Refusal :=
  s.issueForm (Rules.once false none (srcF isS) (srcF isSZL) (srcF isSL) 64) f (Ctx.binit f)
/-- BARV (R281). -/
def execBarv (f : Form) (s : State) : Host.Outcome State Fault Refusal :=
  s.issueForm (Rules.once false none (srcF isSZ) (if f.a = .zero then none else srcF isSZL) none 64) f (Ctx.barv f)
/-- BEXP (R282). -/
def execBexp (f : Form) (s : State) : Host.Outcome State Fault Refusal :=
  s.issueForm (Rules.once false none (srcF isS) (srcF isSZL) (srcF isSZL) 64) f (Ctx.bexp f)
/-- BWAIT (R283). -/
def execBwait (f : Form) (s : State) : Host.Outcome State Fault Refusal :=
  let opt := if f.a = .zero then none else srcF isSZL
  s.issueForm (Rules.once true (dstF isP) (srcF isSZ) opt opt 64) f (Ctx.bwait f)
/-- BTRY (R284). -/
def execBtry (f : Form) (s : State) : Host.Outcome State Fault Refusal :=
  s.issueForm (Rules.once true (dstF (if f.imm.getLsbD 0 then isS else isP)) (srcF isS) (srcF isSZL) (srcF isSZL) 64) f (Ctx.btry f)
/-- PHASE (R286). -/
def execPhase (f : Form) (s : State) : Host.Outcome State Fault Refusal :=
  s.issueForm { Rules.once true none none none none 64 with und := false } f (Ctx.phase f)
/-- FENCE (R287). -/
def execFence (f : Form) (s : State) : Host.Outcome State Fault Refusal :=
  s.issueForm { Rules.once true none none none none 64 with und := false } f (Ctx.fence f)
/-- FOPD (R288). -/
def execFopd (f : Form) (s : State) : Host.Outcome State Fault Refusal :=
  s.issueForm { Rules.once false none none none none 64 with und := false } f Ctx.fopd
/-- TOKWT (R289). -/
def execTokwt (f : Form) (s : State) : Host.Outcome State Fault Refusal :=
  s.issueForm (Rules.once true (dstF isP) (srcF isSL) (srcF isSZL) none 64) f (Ctx.tokwt f)

/-- BARRIER_UNIT_OPERATION (R275): a core's barrier unit performs the oldest operation that waits there. -/
def execBarrierUnitOperation (core : Nat) (s : State) : Host.Outcome State Fault Refusal :=
  match (s.core core).barq with
  | [] => .next s
  | op :: r => .next (if (s.core core).halted then s else (s.modCore core fun k => { k with barq := r }).barDo core op)

end Sys2Proof.Machine
end

