-- ==== Sys2Proof/Machine/Grids.lean ====
section
/-! DEFINITION. The life of grids and clusters: placement, admission, retirement, tokens, and the acquire deadlock break
(R26 to R47, R95, R97 to R108, R201, R215, R391). -/

namespace Sys2Proof.Machine

open Sys2Proof

/-! ### The launch record's fields (R92 to R97) -/

/-- CW. -/
def Grid.cw (x : Grid) : Nat := slice (x.word 2) 23 20
/-- CH. -/
def Grid.ch (x : Grid) : Nat := slice (x.word 2) 27 24
/-- GX. -/
def Grid.gx (x : Grid) : Nat := slice (x.word 2) 47 32
/-- GY. -/
def Grid.gy (x : Grid) : Nat := slice (x.word 2) 63 48
/-- LPASS. -/
def Grid.lpass (x : Grid) : Bool := bit (x.word 0) 38
/-- COOP. -/
def Grid.coop (x : Grid) : Bool := bit (x.word 0) 39
/-- CSCOPE. -/
def Grid.cscope (x : Grid) : Nat := slice (x.word 0) 43 40
/-- PMOFF. -/
def Grid.pmoff (x : Grid) : Nat := slice (x.word 5) 31 0
/-- Registers take two words in a Loupe pass (R31, R317). -/
def Grid.rw (x : Grid) : Nat := if x.lpass then 2 else 1

/-- A role word's fields: role, ORD, COUNT, PRO, FULL (R95). -/
structure RoleWord where
  role  : Nat
  ord   : Nat
  count : Nat
  pro   : Nat
  full  : Nat
deriving DecidableEq, Repr

/-- The present roles of a record in ascending ORD. -/
def rolesOf (w : Nat → Nat) : List RoleWord :=
  let one (i : Nat) : RoleWord :=
    let v := w (3 + i / 2) / 2 ^ (32 * (i % 2)) % 2 ^ 32
    ⟨i, slice v 25 24, slice v 31 26, slice v 11 0, slice v 23 12⟩
  osort (fun a b => a.ord < b.ord) (((List.range 4).map one).filter fun r => r.count != 0)

/-- A team's groups by GIDX: the role and the index in it (R32, R37). -/
def groupsOf (rs : List RoleWord) : List (RoleWord × Nat) :=
  (rs.map fun r => (List.range r.count).map fun i => (r, i)).flatten

/-- The groups of a grid's teams. -/
def Grid.groups (x : Grid) : List (RoleWord × Nat) := groupsOf (rolesOf x.word)

/-! ### Rectangles (R102, R107) -/

/-- A map entry's fields. -/
structure MapEntry where
  wave : Nat
  dev  : Nat
  zero : Bool
  y0   : Nat
  x0   : Nat
deriving DecidableEq, Repr

/-- A map entry of a word (R102). -/
def mapEntry (v : Nat) : MapEntry := ⟨slice v 31 24, slice v 23 16, slice v 15 8 == 0, slice v 7 4, slice v 3 0⟩

/-- The cores of a rectangle, by TIDX (R34). -/
def rectCores (x0 y0 w h : Nat) : List Nat := (List.range (w * h)).map fun t => 16 * (y0 + t / w) + x0 + t % w

/-- The configured extent of a partition on the device of an index (R107). -/
def Part.extent (p : Part) (dev : Nat) : List Nat := if dev = p.didx then p.cores else mgetD p.others dev []

/-- The rectangle conditions of R107. -/
def Part.rectOk (p : Part) (e : MapEntry) (w h : Nat) : Bool :=
  e.x0 + w ≤ 16 && e.y0 + h ≤ 16 && e.dev < p.ndev && e.zero && (rectCores e.x0 e.y0 w h).all (p.extent e.dev).contains

/-! ### Ends and tokens (R44, R98, R99) -/

/-- Add 1 to a token. -/
def Part.signal (p : Part) (n : Nat) : Part := { p with tokens := mset p.tokens n (mgetD p.tokens n 0 + 1) }

/-- The DONE tokens of a grid, TOK0 before TOK1. -/
def Grid.doneTokens (x : Grid) : List Nat :=
  let d := x.word 9
  (if bit d 15 then [slice d 11 0] else []) ++ (if bit d 31 then [slice d 27 16] else [])

/-- A boundary that releases to any core: the close of a grid at CSCOPE before its tokens (R44, R98, R293). -/
def State.releasesAll (s : State) : State := { s with cores := s.cores.map fun c => (c.1, { c.2 with released := s.ticket }) }

/-- The writes of an ended grid's groups are no group's own any more. -/
def State.closeGrid (s : State) (part handle : Nat) : State :=
  let mine (x : Gid) : Bool := x.part == part && x.handle == handle
  { s with opens := s.opens.filter fun x => !mine x.1,
           memOld := s.memOld.map fun e => if e.own.any fun o => mine o.gid then { e with own := none } else e }

/-- End a grid: its phase is closed, its tokens are signalled, and it goes to the ended ones (R98, R99). -/
def State.endGrid (s : State) (part handle : Nat) (st : GridState) : State :=
  match (s.part? part).bind fun p => p.grid? handle with
  | none => s
  | some x =>
    let s := (s.closeGrid part handle).releasesAll.modPart part fun p =>
      let p := x.doneTokens.foldl Part.signal p
      { p with grids := p.grids.filter (fun y => y.handle != handle),
               ended := ((handle, st, x.retired) :: p.ended).take 256 }
    s.pokeTokens part

/-- Has the device still to perform stores or reductions of a grid: in a side log, at an engine, or, where CSCOPE reaches other
devices, on the way to a peer? -/
def State.storesOut (s : State) (part handle ten cscope : Nat) : Bool :=
  let mine (e : LogEntry) : Bool := e.part == part && e.handle == handle
  s.cores.any (fun c => c.2.log.any mine || c.2.saved.any fun x => x.log.any mine)
    || s.clasp.reqs.any (fun e => e.2.any fun q => q.ten == ten && q.pend.isNone)
    || (cscope ≥ 8 && s.fabric.sent.any fun e => e.2.ten == ten)

/-- What a grid that may end becomes: its last cluster has retired (R44), or its admitted clusters have, after LCAN or a map entry
that failed (R99, R106). -/
def Grid.outcome (x : Grid) : Option GridState :=
  let live := x.clusters.any fun c => c.st == .admitted || c.st == .parked
  let waits := x.clusters.any fun c => c.st == .waiting
  match x.st with
  | .running => if live then none else if x.stop then some .cancelled else if waits then none else some .done
  | .cancelling => if live then none else some .cancelled
  | _ => none

/-- A grid that may end does, once its phase at CSCOPE can be closed (R44, R98). -/
def State.retireGrid (s : State) (part handle : Nat) : State :=
  match (s.part? part).bind fun p => p.grid? handle with
  | none => s
  | some x => match x.outcome with
    | none => s
    | some st => if s.storesOut part handle x.ten x.cscope then s else s.endGrid part handle st

/-- GRID_RETIRE (R44). -/
def execGridRetire (part handle : Nat) (s : State) : Host.Outcome State Fault Refusal := .next (s.retireGrid part handle)

/-! ### Start (R98, R101) -/

/-- Is a dependence word satisfied (R97, R98)? -/
def Part.depMet (p : Part) (d : Nat) : Bool :=
  !bit d 31 || depTest ((mget p.tokens (slice d 11 0)).getD 0) (BitVec.ofNat 32 (d / 2 ^ 32))

/-- The queued grids whose dependences are satisfied. -/
def Part.startable (p : Part) : List Grid :=
  p.grids.filter fun x => x.st == .queued && p.depMet (x.word 7) && p.depMet (x.word 8)

/-- Does a grid come before another in the launch order: higher PRIO, then earlier? -/
def Grid.before_ (x y : Grid) : Bool := x.prio > y.prio || (x.prio == y.prio && x.order < y.order)

/-- GRID_START (R101). -/
def execGridStart (part : Nat) (s : State) : Host.Outcome State Fault Refusal :=
  match s.part? part with
  | none => .next s
  | some p => match osort Grid.before_ p.startable with
    | [] => .next s
    | x :: _ => .next (s.modPart part fun p =>
        { (p.modGrid x.handle fun y => { y with st := .running, started := p.order }) with order := p.order + 1 })

/-! ### Admission (R103 to R106) -/

/-- Admissions of a tenant are stopped while it is frozen or being frozen (R368, R377). -/
def State.admits (s : State) (ten : Nat) : Bool :=
  match s.tenant? ten with
  | some t => !t.frozen && !t.freezing
  | none => true

/-- The groups of a team that go to a quarter (R30). -/
def Grid.inQuarter (x : Grid) (q : Nat) : List RoleWord :=
  ((x.groups.zip (List.range x.groups.length)).filter fun g => g.2 % 4 == q).map (·.1.1)

/-- Free tenant slots of a quarter. -/
def State.freeSlots (s : State) (core qtr : Nat) : List Nat := (List.range 63).filter fun k => (s.group? ⟨core, qtr, k⟩).isNone

/-- The shortfall of a quarter's oldest ACQ-waiting group (R103). -/
def State.oldestShort (s : State) (core qtr : Nat) : Nat := ((s.acqWaiting core qtr).head?.map (·.2.short)).getD 0

/-- Does a team fit on a core (R103, third condition)? -/
def State.teamFits (s : State) (x : Grid) (core : Nat) : Bool :=
  (s.core core).teams.length < 16
    && (List.range 4).all fun q =>
      let gs := x.inQuarter q
      gs.length ≤ (s.freeSlots core q).length
        && (gs.foldl (fun n r => n + r.pro * x.rw) 0) + s.oldestShort core q ≤ s.freeWords core q

/-- Does a running cluster of another tenant reach a core's scratchpad, though its team there has retired (R47)? -/
def State.heldScratch (s : State) (core ten : Nat) : Bool :=
  s.cores.any fun c => c.2.teams.any fun t => t.2.ten != ten && (rectCores t.2.x0 t.2.y0 t.2.w t.2.h).contains core

/-- Does a core meet R103's conditions for a team of a grid? A core whose scratchpad a running cluster of another tenant still
reaches stays that tenant's (R47, R201). -/
def State.coreMeets (s : State) (part : Nat) (x : Grid) (core : Nat) : Bool :=
  let k := s.core core
  k.inService && !k.halted && k.part == some part
    && !(k.teams.any fun t => (t.2.part == part && t.2.handle == x.handle) || t.2.ten != x.ten)
    && !s.heldScratch core x.ten && s.teamFits x core

/-- A core cleared of what an earlier tenant left (R201). -/
def Core.clearTenant (k : Core) (ten : Nat) : Core :=
  if k.lastTen == some ten || k.lastTen.isNone then { k with lastTen := some ten }
  else { k with lastTen := some ten, spad := [], stags := [], armed := [], acc := [], side := [], mat := [],
                chans := List.replicate 8 Channel.reset, sess := List.replicate 2 Session.reset }

/-- A group at admission, in its place of a team (R15, R28, R37). -/
def Grid.group (x : Grid) (part slot gidx age cycle : Nat) (strict : Bool) (r : RoleWord × Nat) : Group :=
  let g : Group :=
    { Group.start with
        ten := x.ten, part := part, handle := x.handle, team := slot, gidx := gidx, ridx := r.2,
        role := BitVec.ofNat 2 r.1.role, lpass := x.lpass, readyAt := cycle, age := age, pro := r.1.pro, full := r.1.full,
        allot := r.1.pro, strict := strict }
  g.begin (BitVec.ofNat 64 (x.word 1)) x.args

/-- Place one group: its quarter is GIDX mod 4 and its slot the lowest free one (R30). A Loupe group takes its first batch
(R314). -/
def State.placeGroup (s : State) (core : Nat) (g : Group) : State :=
  match s.freeSlots core (g.gidx % 4) with
  | [] => s
  | k :: _ =>
    let r : GRef := ⟨core, g.gidx % 4, k⟩
    let s := s.setGroup r { g with covered := s.ticket }
    let s := s.openGroup (s.gidOf r g)
    if g.lpass then s.takeBatch r else s

/-- The lowest free team slot of a core (R215). -/
def Core.freeTeam (k : Core) : Nat := ((List.range 16).find? fun i => (mget k.teams i).isNone).getD 0

/-- Put a team on a core: its place, its slice of the L1 TLB, its groups (R30, R201, R215). -/
def State.placeTeam (s : State) (t : Team) (core : Nat) (gs : List Group) : State :=
  let k := (s.core core).clearTenant t.ten
  let before := k.teams.map (·.1)
  let slot := k.freeTeam
  let k := ({ k with teams := mset k.teams slot t, nextAge := k.nextAge + gs.length }).reslice before
  let age := (s.core core).nextAge
  let s := if (s.core core).lastTen.any (· != t.ten) then s.forgetSpad core else s
  let s := s.setCore core k
  let s := (gs.zip (List.range gs.length)).foldl
    (fun s g => s.placeGroup core { g.1 with team := slot, age := age + g.2 }) s
  (List.range 4).foldl (fun s q => s.fillTurns core q) s

/-- The team of a cluster that stands on TIDX t. -/
def Grid.team (x : Grid) (part : Nat) (c : Cluster) (t : Nat) : Team :=
  { part := part, handle := x.handle, ten := x.ten, map := c.idx, tidx := t, w := x.cw, h := x.ch, dx := t % x.cw,
    dy := t / x.cw, x0 := c.x0, y0 := c.y0, wave := c.wave, cx := c.idx % x.gx, cy := c.idx / x.gx, gx := x.gx, gy := x.gy,
    ngrp := x.groups.length, spzcfg := 0, gen := 0, arrived := [], gone := [],
    waveIx := (x.clusters.filter fun d => d.wave == c.wave && d.idx < c.idx).length }

/-- A grid with one cluster replaced. -/
def Grid.putCluster (x : Grid) (c : Cluster) : Grid :=
  { x with clusters := x.clusters.map fun d => if d.idx == c.idx then c else d }

/-- Admit a cluster's teams onto its rectangle (R35). A cluster of another device is admitted there (assumption 23). -/
def State.placeCluster (s : State) (part : Nat) (x : Grid) (c : Cluster) : State :=
  let strict := ((s.tenant? x.ten).map (·.strict)).getD false
  let local_ := ((s.part? part).map fun p => c.dev == p.didx).getD false
  let s := s.modGrid part x.handle fun y => y.putCluster { c with st := .admitted, left := x.cw * x.ch }
  if local_ then
    ((rectCores c.x0 c.y0 x.cw x.ch).zip (List.range (x.cw * x.ch))).foldl (fun s ct =>
      s.placeTeam (x.team part c ct.2) ct.1
        ((x.groups.zip (List.range x.groups.length)).map fun g => x.group part 0 g.2 0 s.cycle strict g.1)) s
  else s

/-- Does a cluster meet R103's three conditions at this instant? -/
def State.clusterMeets (s : State) (part : Nat) (x : Grid) (c : Cluster) : Bool :=
  match s.part? part with
  | none => false
  | some p => c.dev != p.didx || (rectCores c.x0 c.y0 x.cw x.ch).all (s.coreMeets part x)

/-- May clusters of a grid be admitted at all? -/
def State.gridOpen (s : State) (x : Grid) : Bool := x.st == .running && !x.stop && s.admits x.ten

/-- Does a cluster's wave have its turn: every cluster of a lower wave has been admitted (R103)? -/
def Grid.waveOpen (x : Grid) (c : Cluster) : Bool := c.st == .waiting && !(x.clusters.any fun d => d.st == .waiting && d.wave < c.wave)

/-- The clusters of the grids of a partition that wait, in the order in which free cores are offered (R103, R104). -/
def State.offered (s : State) (p : Part) : List (Grid × Cluster) :=
  let before (x y : Grid) : Bool := x.prio > y.prio || (x.prio == y.prio && x.started < y.started)
  ((osort before (p.grids.filter s.gridOpen)).map fun x => (x.clusters.filter x.waveOpen).map fun c => (x, c)).flatten

/-- The cores that some clusters of a grid take, with the index of their device. -/
def Grid.places (x : Grid) (cs : List Cluster) : List (Nat × Nat) :=
  (cs.map fun c => (rectCores c.x0 c.y0 x.cw x.ch).map fun k => (c.dev, k)).flatten

/-- Does the first waiting grid, a cooperative one, hold back cores that some clusters of a lower-placed grid would take (R104)? -/
def heldBack (os : List (Grid × Cluster)) (x : Grid) (cs : List Cluster) : Bool :=
  match os with
  | [] => false
  | (y, _) :: _ => y.coop && y.handle != x.handle && (x.places cs).any (y.places y.clusters).contains

/-- Admit clusters one after another; `none` when one does not meet R103. -/
def State.admitAll (s : State) (part : Nat) (x : Grid) : List Cluster → Option State
  | [] => some s
  | c :: cs => if s.clusterMeets part x c then (s.placeCluster part x c).admitAll part x cs else none

/-- Could an offered cluster be admitted now: it fits, of a cooperative grid every cluster at once, and nothing holds its cores back
(R103 to R105)? -/
def State.admissible (s : State) (part : Nat) (os : List (Grid × Cluster)) (y : Grid × Cluster) : Bool :=
  if y.1.coop then
    (y.1.clusters.all fun c => c.st == .waiting) && !heldBack os y.1 y.1.clusters && (s.admitAll part y.1 y.1.clusters).isSome
  else !heldBack os y.1 [y.2] && s.clusterMeets part y.1 y.2

/-- Is a cluster the next to be offered: no cluster before it could be admitted, and no cooperative grid holds its cores back? -/
def State.nextAdmitted (s : State) (part : Nat) (p : Part) (handle idx : Nat) : Bool :=
  let os := s.offered p
  let it (y : Grid × Cluster) : Bool := y.1.handle == handle && y.2.idx == idx
  match os.find? fun y => it y || s.admissible part os y with
  | some y => it y && !y.1.coop && !heldBack os y.1 [y.2]
  | none => false

/-- The launch engine's translation of a tenant: it uses the L2 TLB of quad 0 (assumption 24). -/
def State.launchWho (s : State) (ten : Nat) : Who := ⟨ten, false, ((s.tenant? ten).map (·.root)).getD 0, 0, none⟩

/-- A read of memory for a tenant on the GEN path by the launch engine. -/
def State.launchBytes (s : State) (ten a n : Nat) : State × Got :=
  if a ≥ 2 ^ 57 then (s, .fault 1)
  else match s.translate (s.launchWho ten) .load a with
    | (s, .ok l) => (s, .bytes (s.readLoc l n) (n == 16 && s.tagAt l))
    | (s, .fault c) => (s, .fault c)
    | (s, .wait w) => (s, .wait w)
    | (s, .remote _) => (s, .wait .lock)

/-- What the re-read of a cluster's map entry gives (R106): the cluster with the rectangle that was read, a wait, or a
failure. -/
inductive Reread where
  | cluster (c : Cluster)
  | wait
  | bad
deriving DecidableEq, Repr

/-- Read a cluster's map entry again at admission. -/
def State.reread (s : State) (p : Part) (x : Grid) (c : Cluster) : State × Reread :=
  match s.launchBytes x.ten ((x.base.toNat + x.pmoff + 4 * c.idx) % 2 ^ 64) 4 with
  | (s, .bytes bs _) =>
    let e := mapEntry (ofLe bs)
    (s, if p.rectOk e x.cw x.ch then .cluster { c with dev := e.dev, x0 := e.x0, y0 := e.y0 } else .bad)
  | (s, .fault _) => (s, .bad)
  | (s, .wait _) => (s, .wait)

/-- CLUSTER_ADMISSION (R103). A cluster of another device that has been admitted retires by the same event: its device has
reported it (assumption 23). -/
def execClusterAdmission (part handle idx : Nat) (s : State) : Host.Outcome State Fault Refusal :=
  match s.part? part with
  | none => .next s
  | some p => match p.grid? handle with
    | none => .next s
    | some x => match x.clusters.find? fun c => c.idx == idx with
      | none => .next s
      | some c =>
        if c.st == .admitted && c.dev != p.didx then
          .next (s.modGrid part handle fun y => { y with
            clusters := y.clusters.map (fun d => if d.idx == idx then { d with st := .retired, left := 0 } else d),
            retired := y.retired + 1 })
        else if !s.nextAdmitted part p handle idx then .next s
        else match s.reread p x c with
          | (s, .wait) => .next s
          | (s, .bad) => .next (s.modGrid part handle fun y => { y with stop := true })
          | (s, .cluster c) =>
            .next (if s.clusterMeets part x c && !heldBack (s.offered p) x [c] then s.placeCluster part x c
                   else s.modGrid part handle fun y => y.putCluster c)

/-- Read every map entry of a cooperative grid again. -/
def State.rereadAll (s : State) (p : Part) (x : Grid) : List Cluster → State × Option (Option (List Cluster))
  | [] => (s, some (some []))
  | c :: cs => match s.reread p x c with
    | (s, .wait) => (s, none)
    | (s, .bad) => (s, some none)
    | (s, .cluster c) => match s.rereadAll p x cs with
      | (s, some (some r)) => (s, some (some (c :: r)))
      | y => y

/-- COOPERATIVE_ADMISSION (R105): all clusters at one instant, or none. -/
def execCooperativeAdmission (part handle : Nat) (s : State) : Host.Outcome State Fault Refusal :=
  match s.part? part with
  | none => .next s
  | some p => match p.grid? handle with
    | none => .next s
    | some x =>
      let os := s.offered p
      if !x.coop || !s.gridOpen x || !(x.clusters.all fun c => c.st == .waiting) || heldBack os x x.clusters
          || (os.takeWhile fun y => y.1.handle != handle).any (s.admissible part os) then .next s
      else match s.rereadAll p x x.clusters with
        | (s, none) => .next s
        | (s, some none) => .next (s.modGrid part handle fun y => { y with stop := true })
        | (s, some (some cs)) => match (if heldBack os x cs then none else s.admitAll part x cs) with
          | some s => .next s
          | none => .next (s.modGrid part handle fun y => cs.foldl Grid.putCluster y)

/-! ### The acquire deadlock break (R41, R108, R391) -/

/-- Bytes of the SPILL area that a group takes: its register stack and 1,024 more (R108). -/
def spillBytes (rw full : Nat) : Nat := 256 * (full * rw) + 1024

/-- One team's total in the SPILL area. -/
def Grid.spillTeam (x : Grid) : Nat := x.groups.foldl (fun n g => n + spillBytes x.rw g.1.full) 0

/-- The address of a group's SPILL area (R108). -/
def Grid.spillAt (x : Grid) (t : Team) (gidx : Nat) : Nat :=
  let spill := capOfWords (BitVec.ofNat 64 (x.word 12)) (BitVec.ofNat 64 (x.word 13)) true
  spill.base + (t.waveIx * x.cw * x.ch + t.tidx) * x.spillTeam
    + ((x.groups.take gidx).foldl (fun n g => n + spillBytes x.rw g.1.full) 0)

/-- A lane's slice of the spilled stack: the resident words, and thread record L in its last 32 bytes (R391). -/
def State.spillLane (s : State) (r : GRef) (g : Group) (l : Nat) : List Byte :=
  let t := g.thread l
  let full := g.full * g.regWords
  let words := ((List.range g.words).map fun i => leBytes 4 (g.stored s.ticket l (t.rb + i)).toNat).flatten
  words ++ List.replicate (4 * full - 32 - words.length) 0
    ++ ((List.range 4).map fun k => leBytes 8 (s.recordWord r g (128 + 4 * l + k))).flatten

/-- The bytes of a group's SPILL area. -/
def State.spillImage (s : State) (r : GRef) (g : Group) : List Byte :=
  (allLanes.map (s.spillLane r g)).flatten ++ ((List.range 128).map fun i => leBytes 8 (s.recordWord r g i)).flatten

/-- May the youngest group of a quarter be spilled: every tenant group of the quarter is in ACQ-wait, none can be satisfied,
and the youngest one's flags are 0 (R41, R108)? -/
def State.breakable (s : State) (core qtr : Nat) : Option (GRef × Group) :=
  let gs := (s.coreGroups core).filter fun x => x.1.qtr == qtr
  if gs.isEmpty || gs.any (fun x => x.2.st != .acqWait || x.2.frozen)
      || gs.any (fun x => x.2.short ≤ s.freeWords core qtr) then none
  else match (s.acqWaiting core qtr).getLast? with
    | some x => if x.2.flags.all (· == 0) then some x else none
    | none => none

/-- Spill a group: its slot and words become free (R108). A write that meets a translation fault or a wait leaves the group where
it is (assumption 25). -/
def State.spill (s : State) (x : GRef × Group) : State :=
  match s.gridOf x.2, s.team x.1 x.2 with
  | some gr, some t =>
    let s := s.drainPub x.1.core fun e => e.ref == x.1
    let g := { x.2 with st := .spilled }
    (match s.engineWrite (s.engineOrigin x.1 x.2.ten x.2.team) (gr.spillAt t x.2.gidx) (s.spillImage x.1 g) with
     | (s, some _) => s
     | (s, none) =>
       let s := s.modCore x.1.core fun k => { k with spilled := mset k.spilled (64 * x.1.qtr + x.1.slot) g }
       (s.delGroup x.1).serveAcq x.1.core x.1.qtr)
  | _, _ => s

/-- ACQUIRE_DEADLOCK_BREAK (R108). -/
def execAcquireDeadlockBreak (core qtr : Nat) (s : State) : Host.Outcome State Fault Refusal :=
  match s.breakable core qtr with
  | none => .next s
  | some x => .next (s.spill x)

/-- Doubleword i of bytes. -/
def dwAt (bs : List Byte) (i : Nat) : Nat := ofLe ((bs.drop (8 * i)).take 8)

/-- A spilled group's words as read back: points in point mode and in an ordinary grid, the full range of KIND X in interval mode
(R391). -/
def Thread.refill (lpass : Bool) (words : Nat) (bs : List Byte) (t : Thread) : Thread :=
  let word (i : Nat) : Word := BitVec.ofNat 32 (ofLe ((bs.drop (4 * i)).take 4))
  let st := (List.range words).map fun i => (t.rb + i, word i)
  { t with stack := st,
           hid := if lpass && !t.point then (st.filter fun x => (x.1 - t.wb) % 2 == 0).map fun x => (x.1, ⟨3, true, false⟩)
                  else [] }

/-- The group that a SPILL area holds, over what the device keeps of it: its place, its Loupe items and held LFILLs (R391,
R392). -/
def Group.refilled (g : Group) (bs : List Byte) : Group :=
  let full := g.full * g.regWords
  let tail := bs.drop (256 * full)
  let g := (List.range 128).foldl (fun g i => g.setRecordWord true true i (dwAt tail i)) g
  let g := allLanes.foldl (fun g l =>
    let b := bs.drop (4 * full * (l + 1) - 32)
    (List.range 4).foldl (fun g k => g.setRecordWord true true (128 + 4 * l + k) (dwAt b k)) g) g
  let g := g.modThreads allLanes fun l t => t.refill g.lpass g.words (bs.drop (4 * full * l))
  { g with allot := g.pro, acqf := false, latches := g.latches.map fun l => { l with lanes := 0, vals := [], his := [], hids := [] } }

/-- The oldest spilled group of a quarter whose slot and prologue allotment fit. -/
def State.refillable (s : State) (core qtr : Nat) : Option (Nat × Group) :=
  let gs := (s.core core).spilled.filter fun x => x.1 / 64 == qtr && !x.2.frozen
    && (s.group? ⟨core, qtr, x.1 % 64⟩).isNone && x.2.pro * x.2.regWords ≤ s.freeWords core qtr && s.admits x.2.ten
  (osort (fun a b => a.2.age < b.2.age) gs).head?

/-- SPILLED_REFILL (R41): the group is ready at its ACQ. -/
def execSpilledRefill (core qtr : Nat) (s : State) : Host.Outcome State Fault Refusal :=
  match s.refillable core qtr with
  | none => .next s
  | some (k, g) =>
    let r : GRef := ⟨core, qtr, k % 64⟩
    match s.gridOf g, s.team r g with
    | some gr, some t =>
      (match s.engineRead (s.engineOrigin r g.ten g.team) (gr.spillAt t g.gidx) (spillBytes g.regWords g.full) with
       | (s, .bytes bs) =>
         let s := s.modCore core fun c => { c with spilled := mdel c.spilled k }
         .next (((s.setGroup r { g.refilled bs with st := .ready }).makeReady r).fillTurns core qtr)
       | (s, _) => .next s)
    | _, _ => .next s

end Sys2Proof.Machine
end

