-- ==== Sys2Proof/Machine/Encoding.lean ====
section
/-! DEFINITION. The encoding tables of the instruction words: what each major and function number uses of its
fields, and the framing rules of R129, check 1. Decoder, encoder and well-formedness all read these tables. -/

namespace Sys2Proof

/-- Which values a row's MOD field may hold (R121 and each instruction's table). -/
inductive ModRule where
  /-- must be zero. -/
  | zero
  /-- integer family: WID not 0b11; whether UNS and SAT are used. -/
  | int (uns sat : Bool)
  /-- integer family with COND 0 to 5. -/
  | cmp
  /-- WID 0b00 or 0b10 only (R176). -/
  | idx
  /-- floating family: whether RND and FTZ are used. -/
  | flt (rnd ftz : Bool)
  /-- FCMP: FTZ and any COND; RND must be 0 (R182). -/
  | fcmp
  /-- FCVT: KIND 0 to 5 (R188). -/
  | fcvt
  /-- CVT: KIND 0 to 3 (R194). -/
  | cvt
  /-- memory family: SIZE 0 to 4, SX only with b8 or b16 where the row uses it (R222). -/
  | mem (sx : Bool)
  /-- SIZE b32, or b64 where the row takes it (R229). -/
  | atom (wide : Bool)
  /-- CALLS: FR 1 to 3 in MOD[1:0] (R149). -/
  | calls
  /-- any value below n. -/
  | below (n : Nat)
deriving DecidableEq, Repr

/-- Whether a MOD value is one the rule allows. -/
def modOk : ModRule → Nat → Bool
  | .zero, m => m == 0
  | .int uns sat, m => m / 16 != 3 && (uns || !bit m 3) && (sat || !bit m 2) && m % 4 == 0
  | .cmp, m => m / 16 != 3 && m % 8 < 6
  | .idx, m => m == 0 || m == 32
  | .flt rnd ftz, m => (rnd || m / 16 == 0) && (ftz || !bit m 3) && m % 8 == 0
  | .fcmp, m => m / 16 == 0
  | .fcvt, m => m % 8 < 6
  | .cvt, m => m % 8 < 4
  | .mem sx, m => m / 8 < 5 && m % 4 == 0 && (!bit m 2 || (sx && (m / 8 == 1 || m / 8 == 2)))
  | .atom wide, m => m == 0 || (wide && m == 24)
  | .calls, m => m < 4 && m != 0
  | .below n, m => m < n

/-- What a row uses of its words: the operand fields, MOD, the assigned bits of IMM, whether it is
long-latency, whether it uses SLOT and SCOPE, whether H may be nonzero. -/
structure Row where
  d     : Bool
  a     : Bool
  b     : Bool
  c     : Bool
  mod   : ModRule
  imm   : Nat
  long  : Bool
  slot  : Bool
  scope : Bool
  hold  : Bool
deriving DecidableEq, Repr

/-- The base majors 0x08 to 0x20 (R126, R166, R178, R222). -/
def baseRow : Nat → Option Row
  | 8 => some ⟨true, true, true, false, .int true true, 0, false, false, false, true⟩  -- add
  | 9 => some ⟨true, true, true, false, .int true true, 0, false, false, false, true⟩  -- sub
  | 10 => some ⟨true, true, true, false, .int true true, 0, false, false, false, true⟩  -- mul
  | 11 => some ⟨true, true, true, true, .int true true, 0, false, false, false, true⟩  -- mad
  | 12 => some ⟨true, true, true, false, .int false false, 0, false, false, false, true⟩  -- and
  | 13 => some ⟨true, true, true, false, .int false false, 0, false, false, false, true⟩  -- or
  | 14 => some ⟨true, true, true, false, .int false false, 0, false, false, false, true⟩  -- xor
  | 15 => some ⟨true, true, true, false, .int false false, 0, false, false, false, true⟩  -- shl
  | 16 => some ⟨true, true, true, false, .int false false, 0, false, false, false, true⟩  -- shr
  | 17 => some ⟨true, true, true, false, .int false false, 0, false, false, false, true⟩  -- sar
  | 18 => some ⟨true, true, true, false, .int true false, 0, false, false, false, true⟩  -- min
  | 19 => some ⟨true, true, true, false, .int true false, 0, false, false, false, true⟩  -- max
  | 20 => some ⟨true, true, true, false, .cmp, 0, false, false, false, true⟩  -- cmp
  | 21 => some ⟨true, true, true, false, .int false false, 0, false, false, false, true⟩  -- sel
  | 22 => some ⟨true, true, false, false, .int false false, 0, false, false, false, true⟩  -- mov
  | 23 => some ⟨true, true, true, false, .int true false, 7, false, false, false, true⟩  -- lea
  | 24 => some ⟨true, true, true, false, .flt true true, 0, false, false, false, true⟩  -- fadd
  | 25 => some ⟨true, true, true, false, .flt true true, 0, false, false, false, true⟩  -- fmul
  | 26 => some ⟨true, true, true, true, .flt true true, 0, false, false, false, true⟩  -- fma
  | 27 => some ⟨true, true, true, false, .flt false true, 0, false, false, false, true⟩  -- fmin
  | 28 => some ⟨true, true, true, false, .flt false true, 0, false, false, false, true⟩  -- fmax
  | 29 => some ⟨true, true, true, false, .fcmp, 0, false, false, false, true⟩  -- fcmp
  | 30 => some ⟨true, true, true, false, .mem true, 0, true, false, false, true⟩  -- ld
  | 31 => some ⟨true, true, true, false, .mem false, 0, false, false, false, true⟩  -- st
  | 32 => some ⟨true, true, true, false, .mem true, 0, true, false, false, true⟩  -- ldc
  | _ => none

/-- Group XINT (R127). -/
def xintRow : Nat → Option Row
  | 1 => some ⟨true, true, true, true, .int false false, 0, false, false, false, true⟩  -- addc
  | 2 => some ⟨true, true, true, false, .int true false, 0, false, false, false, true⟩  -- mulh
  | 3 => some ⟨true, true, true, false, .int true true, 0, false, false, false, true⟩  -- div
  | 4 => some ⟨true, true, true, false, .int true true, 0, false, false, false, true⟩  -- rem
  | 5 => some ⟨true, true, false, false, .int false true, 0, false, false, false, true⟩  -- neg
  | 6 => some ⟨true, true, false, false, .int false true, 0, false, false, false, true⟩  -- abs
  | 7 => some ⟨true, true, false, false, .int false false, 0, false, false, false, true⟩  -- not
  | 8 => some ⟨true, true, true, false, .int false false, 0, false, false, false, true⟩  -- rot
  | 9 => some ⟨true, true, false, false, .int false false, 0, false, false, false, true⟩  -- popc
  | 10 => some ⟨true, true, false, false, .int false false, 0, false, false, false, true⟩  -- clz
  | 11 => some ⟨true, true, false, false, .int false false, 0, false, false, false, true⟩  -- brev
  | 12 => some ⟨true, true, true, true, .int true false, 0, false, false, false, true⟩  -- bfx
  | 13 => some ⟨true, true, true, true, .int false false, 0, false, false, false, true⟩  -- bfi
  | 14 => some ⟨true, true, true, true, .idx, 1, false, false, false, false⟩  -- idx
  | _ => none

/-- Group XFLT (R127). -/
def xfltRow : Nat → Option Row
  | 1 => some ⟨true, true, true, false, .flt true true, 0, false, false, false, true⟩  -- fsub
  | 2 => some ⟨true, true, false, false, .flt true true, 0, false, false, false, true⟩  -- frcp
  | 3 => some ⟨true, true, false, false, .flt true true, 0, false, false, false, true⟩  -- frsq
  | 4 => some ⟨true, true, false, false, .flt true true, 0, false, false, false, true⟩  -- fsqrt
  | 5 => some ⟨true, true, false, false, .flt true true, 0, false, false, false, true⟩  -- fex2
  | 6 => some ⟨true, true, false, false, .flt true true, 0, false, false, false, true⟩  -- flg2
  | 7 => some ⟨true, true, false, false, .flt true true, 0, false, false, false, true⟩  -- frnd
  | 8 => some ⟨true, true, false, false, .zero, 2047, false, false, false, true⟩  -- fclass
  | 16 => some ⟨true, true, true, true, .zero, 7, false, false, false, true⟩  -- vdot4
  | 17 => some ⟨true, true, true, true, .flt true true, 1, false, false, false, true⟩  -- hfma2
  | 18 => some ⟨true, true, true, false, .flt true true, 1, false, false, false, true⟩  -- hadd2
  | 19 => some ⟨true, true, true, false, .flt true true, 1, false, false, false, true⟩  -- hmul2
  | _ => none

/-- Group XCVT (R127). -/
def xcvtRow : Nat → Option Row
  | 1 => some ⟨true, true, false, false, .cvt, 0, false, true, false, true⟩  -- cvt
  | 2 => some ⟨true, true, true, false, .fcvt, 3, false, false, false, true⟩  -- fcvt
  | 3 => some ⟨true, true, false, false, .below 64, 0, false, false, false, true⟩  -- icvt
  | 4 => some ⟨true, true, true, false, .zero, 0, false, true, false, true⟩  -- rq
  | 5 => some ⟨true, true, false, false, .zero, 0, false, true, false, true⟩  -- pln
  | 6 => some ⟨true, true, false, false, .zero, 0, false, true, false, true⟩  -- unpl
  | _ => none

/-- Group XLANE (R127). -/
def xlaneRow : Nat → Option Row
  | 1 => some ⟨true, true, false, false, .below 2, 0, false, false, false, true⟩  -- rfl
  | 2 => some ⟨true, true, false, false, .zero, 0, false, false, false, true⟩  -- matchLanes
  | 16 => some ⟨true, false, false, true, .zero, 0, false, false, false, false⟩  -- voteAny
  | 17 => some ⟨true, false, false, true, .zero, 0, false, false, false, false⟩  -- voteAll
  | 18 => some ⟨true, false, false, true, .zero, 0, false, false, false, false⟩  -- voteBal
  | 32 => some ⟨true, true, true, false, .zero, 0, false, false, false, true⟩  -- shflIdx
  | 33 => some ⟨true, true, true, false, .zero, 0, false, false, false, true⟩  -- shflUp
  | 34 => some ⟨true, true, true, false, .zero, 0, false, false, false, true⟩  -- shflDn
  | 35 => some ⟨true, true, true, false, .zero, 0, false, false, false, true⟩  -- shflXor
  | 48 => some ⟨true, false, false, false, .zero, 0, false, false, false, false⟩  -- lmaskLt
  | 49 => some ⟨true, false, false, false, .zero, 0, false, false, false, false⟩  -- lmaskLe
  | 50 => some ⟨true, false, false, false, .zero, 0, false, false, false, false⟩  -- lmaskGt
  | 51 => some ⟨true, false, false, false, .zero, 0, false, false, false, false⟩  -- lmaskGe
  | 64 => some ⟨true, true, true, false, .zero, 0, false, false, false, true⟩  -- bcst
  | _ => none

/-- Group XCTL (R127). -/
def xctlRow : Nat → Option Row
  | 1 => some ⟨false, true, false, false, .calls, 0, false, false, false, true⟩  -- calls
  | 2 => some ⟨false, false, false, false, .zero, 0, false, false, false, false⟩  -- yield
  | 3 => some ⟨false, false, false, false, .zero, 65535, false, false, false, false⟩  -- trap
  | 4 => some ⟨false, false, false, false, .zero, 4095, false, false, false, false⟩  -- waitf
  | 5 => some ⟨false, false, false, false, .zero, 0, false, false, false, false⟩  -- acq
  | 6 => some ⟨false, false, false, false, .zero, 0, false, false, false, false⟩  -- rel
  | _ => none

/-- Group XMEM (R127). -/
def xmemRow : Nat → Option Row
  | 1 => some ⟨true, true, true, false, .zero, 0, true, false, false, true⟩  -- ldk
  | 2 => some ⟨true, true, true, false, .zero, 0, false, false, false, true⟩  -- stk
  | 16 => some ⟨true, true, true, true, .atom true, 0, true, false, true, true⟩  -- atomAdd
  | 17 => some ⟨true, true, true, true, .atom false, 0, true, false, true, true⟩  -- atomFadd
  | 18 => some ⟨true, true, true, true, .atom true, 1, true, false, true, true⟩  -- atomMin
  | 19 => some ⟨true, true, true, true, .atom true, 1, true, false, true, true⟩  -- atomMax
  | 20 => some ⟨true, true, true, true, .atom true, 0, true, false, true, true⟩  -- atomAnd
  | 21 => some ⟨true, true, true, true, .atom true, 0, true, false, true, true⟩  -- atomOr
  | 22 => some ⟨true, true, true, true, .atom true, 0, true, false, true, true⟩  -- atomXor
  | 23 => some ⟨true, true, true, true, .atom true, 0, true, false, true, true⟩  -- atomXchg
  | 24 => some ⟨true, true, true, true, .atom true, 0, true, false, true, true⟩  -- atomCas
  | 32 => some ⟨true, true, true, false, .atom true, 0, false, false, true, true⟩  -- redAdd
  | 33 => some ⟨true, true, true, false, .atom false, 0, false, false, true, true⟩  -- redFadd
  | 34 => some ⟨true, true, true, false, .atom true, 1, false, false, true, true⟩  -- redMin
  | 35 => some ⟨true, true, true, false, .atom true, 1, false, false, true, true⟩  -- redMax
  | 36 => some ⟨true, true, true, false, .atom true, 0, false, false, true, true⟩  -- redAnd
  | 37 => some ⟨true, true, true, false, .atom true, 0, false, false, true, true⟩  -- redOr
  | 38 => some ⟨true, true, true, false, .atom true, 0, false, false, true, true⟩  -- redXor
  | 48 => some ⟨true, true, false, true, .zero, 0, true, false, false, true⟩  -- poolA
  | 49 => some ⟨false, true, true, true, .zero, 0, true, false, false, true⟩  -- poolF
  | _ => none

/-- Group XCPY (R127). -/
def xcpyRow : Nat → Option Row
  | 1 => some ⟨false, true, true, false, .zero, 7, true, false, false, true⟩  -- cpy
  | 2 => some ⟨true, false, false, false, .zero, 4087, false, false, false, false⟩  -- cpwp
  | 3 => some ⟨true, true, false, false, .zero, 4087, true, false, false, true⟩  -- cpwt
  | 4 => some ⟨true, false, false, false, .zero, 7, true, false, false, false⟩  -- cpcan
  | _ => none

/-- Group XSYN (R127). -/
def xsynRow : Nat → Option Row
  | 1 => some ⟨false, true, true, true, .zero, 0, false, false, false, true⟩  -- binit
  | 2 => some ⟨false, true, true, false, .zero, 0, false, false, false, true⟩  -- barv
  | 3 => some ⟨false, true, true, true, .zero, 0, false, false, false, true⟩  -- bexp
  | 4 => some ⟨true, true, true, true, .zero, 0, true, false, false, true⟩  -- bwait
  | 5 => some ⟨true, true, true, true, .zero, 1, true, false, false, true⟩  -- btry
  | 6 => some ⟨false, false, false, false, .zero, 0, true, false, true, false⟩  -- phase
  | 7 => some ⟨false, false, false, false, .zero, 0, true, false, false, false⟩  -- fence
  | 8 => some ⟨false, false, false, false, .zero, 0, false, false, false, false⟩  -- fopd
  | 9 => some ⟨true, true, true, false, .zero, 1, true, false, false, true⟩  -- tokwt
  | _ => none

/-- Group XMTX (R127). -/
def xmtxRow : Nat → Option Row
  | 1 => some ⟨false, true, true, false, .zero, 0, true, false, false, true⟩  -- mma
  | 2 => some ⟨false, true, true, false, .zero, 0, true, false, false, true⟩  -- mmac
  | 3 => some ⟨false, true, true, false, .zero, 0, true, false, false, true⟩  -- msmx
  | 4 => some ⟨false, true, true, false, .zero, 0, true, false, false, true⟩  -- mdrn
  | 5 => some ⟨false, true, false, false, .zero, 0, true, false, false, true⟩  -- mzero
  | 6 => some ⟨false, true, true, false, .zero, 0, true, false, false, true⟩  -- mlda
  | 7 => some ⟨false, true, true, false, .zero, 0, true, false, false, true⟩  -- mside
  | _ => none

/-- Group XCAP (R127). -/
def xcapRow : Nat → Option Row
  | 1 => some ⟨true, true, true, true, .zero, 8454143, false, false, false, false⟩  -- cnar
  | 2 => some ⟨true, true, true, false, .zero, 0, false, false, false, false⟩  -- cperm
  | 3 => some ⟨true, true, false, false, .zero, 7, false, false, false, false⟩  -- cget
  | 4 => some ⟨true, true, true, true, .zero, 255, false, false, false, false⟩  -- cchk
  | 5 => some ⟨true, true, true, true, .zero, 0, false, false, false, false⟩  -- cmint
  | _ => none

/-- Group XLPE (R127). -/
def xlpeRow : Nat → Option Row
  | 1 => some ⟨false, true, true, false, .zero, 0, false, false, false, true⟩  -- lfill
  | 2 => some ⟨false, false, false, false, .zero, 0, false, false, false, false⟩  -- lsplit
  | 3 => some ⟨true, true, false, false, .zero, 0, false, false, false, true⟩  -- ivpt
  | 4 => some ⟨true, true, false, false, .zero, 0, false, false, false, true⟩  -- ivlo
  | 5 => some ⟨true, true, false, false, .zero, 0, false, false, false, true⟩  -- ivhi
  | 6 => some ⟨false, true, true, false, .below 3, 0, true, false, false, true⟩  -- lsum
  | _ => none

/-- Group XSTR (R127). -/
def xstrRow : Nat → Option Row
  | 1 => some ⟨true, true, true, false, .zero, 1, true, false, false, true⟩  -- sopen
  | 2 => some ⟨true, false, false, false, .zero, 1, true, false, false, false⟩  -- srun
  | 3 => some ⟨true, true, true, false, .zero, 1, true, false, false, true⟩  -- stopk
  | 4 => some ⟨true, false, false, false, .zero, 1, true, false, false, false⟩  -- sstat
  | _ => none

/-- Group XLCH (R127). -/
def xlchRow : Nat → Option Row
  | 1 => some ⟨true, true, false, false, .zero, 0, true, false, false, false⟩  -- launch
  | 2 => some ⟨true, true, false, false, .zero, 0, true, false, false, false⟩  -- lqry
  | 3 => some ⟨true, true, false, false, .zero, 0, true, false, false, false⟩  -- lcan
  | _ => none

/-- Group XSYS (R127). -/
def xsysRow : Nat → Option Row
  | 1 => some ⟨true, false, false, false, .zero, 4095, false, false, false, false⟩  -- sysrd
  | 2 => some ⟨false, true, false, false, .zero, 4095, false, false, false, true⟩  -- syswr
  | 3 => some ⟨false, false, false, false, .zero, 0, false, false, false, false⟩  -- eret
  | 4 => some ⟨false, true, false, false, .zero, 7, true, false, false, true⟩  -- tlbi
  | 5 => some ⟨true, true, false, false, .zero, 3, false, false, false, true⟩  -- slog
  | 6 => some ⟨true, true, false, false, .zero, 0, true, false, false, true⟩  -- freeze
  | 7 => some ⟨true, true, true, false, .zero, 1, true, false, false, true⟩  -- thaw
  | 8 => some ⟨true, true, true, false, .zero, 0, true, false, false, true⟩  -- winsp
  | 9 => some ⟨true, true, true, false, .zero, 0, true, false, false, true⟩  -- winfl
  | 10 => some ⟨true, true, false, false, .zero, 1, true, false, false, true⟩  -- halt
  | _ => none

/-- The row of a major and function number (R126, R127). -/
def rowOf (op fn : Nat) : Option Row :=
  match op with
  | 48 => xintRow fn
  | 49 => xfltRow fn
  | 50 => xcvtRow fn
  | 51 => xlaneRow fn
  | 52 => xctlRow fn
  | 53 => xmemRow fn
  | 54 => xcpyRow fn
  | 55 => xsynRow fn
  | 56 => xmtxRow fn
  | 57 => xcapRow fn
  | 58 => xlpeRow fn
  | 59 => xstrRow fn
  | 60 => xlchRow fn
  | 61 => xsysRow fn
  | _ => if fn = 0 then baseRow op else none

/-- Is the operand a scalar of the upper half, which needs its high-scalar bit (R118)? -/
def Opnd.high : Opnd → Bool
  | .s n => n.val ≥ 24
  | _ => false

/-- The six-bit code of an operand (R7). -/
def Opnd.code : Opnd → Nat
  | .v n => n.val
  | .s n => 32 + n.val % 24
  | .l n => 56 + n.val
  | .zero => 59
  | .lane => 60
  | .lit => 61
  | .rsv h => if h then 63 else 62

/-- The operand that a code and a high-scalar bit name; `none` where the bit may not be set (R118). -/
def Opnd.ofCode (code : Nat) (x : Bool) : Option Opnd :=
  if h : code < 32 then (if x then none else some (.v ⟨code, h⟩))
  else if h : code < 56 then some (.s ⟨code - 32 + (if x then 24 else 0), by split <;> omega⟩)
  else if x then none
  else if code = 56 then some (.l 0)
  else if code = 57 then some (.l 1)
  else if code = 58 then some (.l 2)
  else if code = 59 then some .zero
  else if code = 60 then some .lane
  else if code = 61 then some .lit
  else some (.rsv (code != 62))

/-- Operand fields that a row uses only in some forms: B of FCVT (R178), B and C beside a team barrier (R278),
A of SLOG and HALT and B of THAW (R372). -/
def useB (op fn : Nat) (r : Row) (f : Form) : Bool :=
  if op = 0x32 ∧ fn = 2 then f.mod.toNat % 8 ≥ 4
  else if op = 0x37 ∧ (fn = 2 ∨ fn = 4) then f.a != .zero
  else if op = 0x3d ∧ fn = 7 then f.imm.toNat % 2 == 0
  else r.b
/-- As `useB`, for C. -/
def useC (op fn : Nat) (r : Row) (f : Form) : Bool :=
  if op = 0x37 ∧ fn = 4 then f.a != .zero else r.c
/-- As `useB`, for A. -/
def useA (op fn : Nat) (r : Row) (f : Form) : Bool :=
  if op = 0x3d ∧ fn = 5 then f.imm.toNat % 4 == 1
  else if op = 0x3d ∧ fn = 10 then f.imm.toNat % 2 == 1
  else r.a

/-- Rules on IMM beside the assigned bits: LEA's scale (R166), FCLASS's MASK (R185), FCVT's HI and SAT (R188),
CGET's selector (R89), the reserved selectors of TLBI and SLOG and the SUP of TLBI.all (R372, R375). -/
def immRule (op fn : Nat) (f : Form) : Bool :=
  let i := f.imm.toNat
  let k := f.mod.toNat % 8
  if op = 23 then i < 7
  else if op = 0x31 ∧ fn = 8 then bit i 10 || i == 0
  else if op = 0x32 ∧ fn = 2 then (!bit i 1 || k == 2 || k == 3) && (!bit i 0 || (k != 2 && k != 3))
  else if op = 0x39 ∧ fn = 3 then i < 7
  else if op = 0x3d ∧ fn = 4 then i % 4 != 3 && (i % 4 != 2 || i == 2)
  else if op = 0x3d ∧ fn = 5 then i != 3
  else true

/-- The code point of an unused operand field, 0 (R117). -/
def Opnd.unused : Opnd := .v 0

/-- The framing rules that an unpacked word must satisfy beside its length (R129, check 1): unused fields zero,
MOD, SCOPE, SLOT, FS and IMM as the row has them, no hold without an A read, a literal that is used. WAITF has
no guard (R145). -/
def framed (op fn : Nat) (r : Row) (f : Form) : Bool :=
  (r.d || f.d == Opnd.unused) && (useA op fn r f || f.a == Opnd.unused) && (useB op fn r f || f.b == Opnd.unused)
  && (useC op fn r f && f.ext || f.c == Opnd.unused)
  && modOk r.mod f.mod.toNat && (r.scope || f.scope == 0) && f.scope.toNat < 11 && (r.slot || f.slot == 0)
  && (r.long || !f.fs) && (f.imm.toNat &&& r.imm) == f.imm.toNat && immRule op fn f
  && (f.hold == 0 || (r.hold && useA op fn r f))
  && (f.lit.isNone || f.d == .lit || f.a == .lit || f.b == .lit || f.c == .lit)
  && (f.ext || (f.mod == 0 && f.scope == 0 && f.slot == 0 && !f.fs && f.imm == 0
       && !f.d.high && !f.a.high && !f.b.high))
  && (op != 0x34 || fn != 4 || f.guard == ⟨false, 0⟩)

/-- May a word of this major and length stand (R125, R128, R145)? Extended groups need W1 and W2; XCTL has no
form with a literal. -/
def lenOk (op : Nat) (ext : Bool) (lit : Bool) : Bool :=
  if op < 0x30 then true else ext && (op != 0x34 || !lit)

end Sys2Proof
end

