-- ==== Sys2Proof/WellFormed.lean ====
section
/-! DEFINITION. Which terms of `Instr` are well-formed: an instruction that its words can carry, with the
framing rules of R129 (check 1) kept; an event that names units the device has. -/

namespace Sys2Proof

/-- An instruction's major, function number and fields, where the words of R116 carry them. Control transfers of
the base majors have layouts of their own (R125), and the device's events have no words. -/
def Instr.fields : Instr → Option (Nat × Nat × Form)
  | .add f => some (8, 0, f)
  | .addExtended f => some (8, 0, f)
  | .sub f => some (9, 0, f)
  | .subExtended f => some (9, 0, f)
  | .mul f => some (10, 0, f)
  | .mulExtended f => some (10, 0, f)
  | .mad f => some (11, 0, f)
  | .madExtended f => some (11, 0, f)
  | .and f => some (12, 0, f)
  | .andExtended f => some (12, 0, f)
  | .or f => some (13, 0, f)
  | .orExtended f => some (13, 0, f)
  | .xor f => some (14, 0, f)
  | .xorExtended f => some (14, 0, f)
  | .shl f => some (15, 0, f)
  | .shlExtended f => some (15, 0, f)
  | .shr f => some (16, 0, f)
  | .shrExtended f => some (16, 0, f)
  | .sar f => some (17, 0, f)
  | .sarExtended f => some (17, 0, f)
  | .min f => some (18, 0, f)
  | .minExtended f => some (18, 0, f)
  | .max f => some (19, 0, f)
  | .maxExtended f => some (19, 0, f)
  | .cmp f => some (20, 0, f)
  | .cmpExtended f => some (20, 0, f)
  | .sel f => some (21, 0, f)
  | .selExtended f => some (21, 0, f)
  | .mov f => some (22, 0, f)
  | .movExtended f => some (22, 0, f)
  | .lea f => some (23, 0, f)
  | .leaExtended f => some (23, 0, f)
  | .fadd f => some (24, 0, f)
  | .faddExtended f => some (24, 0, f)
  | .fmul f => some (25, 0, f)
  | .fmulExtended f => some (25, 0, f)
  | .fma f => some (26, 0, f)
  | .fmaExtended f => some (26, 0, f)
  | .fmin f => some (27, 0, f)
  | .fminExtended f => some (27, 0, f)
  | .fmax f => some (28, 0, f)
  | .fmaxExtended f => some (28, 0, f)
  | .fcmp f => some (29, 0, f)
  | .fcmpExtended f => some (29, 0, f)
  | .ld f => some (30, 0, f)
  | .ldExtended f => some (30, 0, f)
  | .st f => some (31, 0, f)
  | .stExtended f => some (31, 0, f)
  | .ldc f => some (32, 0, f)
  | .ldcExtended f => some (32, 0, f)
  | .addc f => some (48, 1, f)
  | .mulh f => some (48, 2, f)
  | .div f => some (48, 3, f)
  | .rem f => some (48, 4, f)
  | .neg f => some (48, 5, f)
  | .abs f => some (48, 6, f)
  | .not f => some (48, 7, f)
  | .rot f => some (48, 8, f)
  | .popc f => some (48, 9, f)
  | .clz f => some (48, 10, f)
  | .brev f => some (48, 11, f)
  | .bfx f => some (48, 12, f)
  | .bfi f => some (48, 13, f)
  | .idx f => some (48, 14, f)
  | .fsub f => some (49, 1, f)
  | .frcp f => some (49, 2, f)
  | .frsq f => some (49, 3, f)
  | .fsqrt f => some (49, 4, f)
  | .fex2 f => some (49, 5, f)
  | .flg2 f => some (49, 6, f)
  | .frnd f => some (49, 7, f)
  | .fclass f => some (49, 8, f)
  | .vdot4 f => some (49, 16, f)
  | .hfma2 f => some (49, 17, f)
  | .hadd2 f => some (49, 18, f)
  | .hmul2 f => some (49, 19, f)
  | .cvtTo f => some (50, 1, f)
  | .cvtFr f => some (50, 1, f)
  | .cvtBlk f => some (50, 1, f)
  | .cvtUblk f => some (50, 1, f)
  | .fcvt f => some (50, 2, f)
  | .icvt f => some (50, 3, f)
  | .rq f => some (50, 4, f)
  | .pln f => some (50, 5, f)
  | .unpl f => some (50, 6, f)
  | .rfl f => some (51, 1, f)
  | .matchLanes f => some (51, 2, f)
  | .voteAny f => some (51, 16, f)
  | .voteAll f => some (51, 17, f)
  | .voteBal f => some (51, 18, f)
  | .shflIdx f => some (51, 32, f)
  | .shflUp f => some (51, 33, f)
  | .shflDn f => some (51, 34, f)
  | .shflXor f => some (51, 35, f)
  | .lmaskLt f => some (51, 48, f)
  | .lmaskLe f => some (51, 49, f)
  | .lmaskGt f => some (51, 50, f)
  | .lmaskGe f => some (51, 51, f)
  | .bcst f => some (51, 64, f)
  | .calls f => some (52, 1, f)
  | .yield f => some (52, 2, f)
  | .trap f => some (52, 3, f)
  | .waitf f => some (52, 4, f)
  | .acq f => some (52, 5, f)
  | .rel f => some (52, 6, f)
  | .ldk f => some (53, 1, f)
  | .stk f => some (53, 2, f)
  | .atomAdd f => some (53, 16, f)
  | .atomFadd f => some (53, 17, f)
  | .atomMin f => some (53, 18, f)
  | .atomMax f => some (53, 19, f)
  | .atomAnd f => some (53, 20, f)
  | .atomOr f => some (53, 21, f)
  | .atomXor f => some (53, 22, f)
  | .atomXchg f => some (53, 23, f)
  | .atomCas f => some (53, 24, f)
  | .redAdd f => some (53, 32, f)
  | .redFadd f => some (53, 33, f)
  | .redMin f => some (53, 34, f)
  | .redMax f => some (53, 35, f)
  | .redAnd f => some (53, 36, f)
  | .redOr f => some (53, 37, f)
  | .redXor f => some (53, 38, f)
  | .poolA f => some (53, 48, f)
  | .poolF f => some (53, 49, f)
  | .cpy f => some (54, 1, f)
  | .cpwp f => some (54, 2, f)
  | .cpwt f => some (54, 3, f)
  | .cpcan f => some (54, 4, f)
  | .binit f => some (55, 1, f)
  | .barv f => some (55, 2, f)
  | .bexp f => some (55, 3, f)
  | .bwait f => some (55, 4, f)
  | .btry f => some (55, 5, f)
  | .phase f => some (55, 6, f)
  | .fence f => some (55, 7, f)
  | .fopd f => some (55, 8, f)
  | .tokwt f => some (55, 9, f)
  | .mma f => some (56, 1, f)
  | .mmac f => some (56, 2, f)
  | .msmx f => some (56, 3, f)
  | .mdrn f => some (56, 4, f)
  | .mzero f => some (56, 5, f)
  | .mlda f => some (56, 6, f)
  | .mside f => some (56, 7, f)
  | .cnar f => some (57, 1, f)
  | .cperm f => some (57, 2, f)
  | .cget f => some (57, 3, f)
  | .cchk f => some (57, 4, f)
  | .cmint f => some (57, 5, f)
  | .lfill f => some (58, 1, f)
  | .lsplit f => some (58, 2, f)
  | .ivpt f => some (58, 3, f)
  | .ivlo f => some (58, 4, f)
  | .ivhi f => some (58, 5, f)
  | .lsum f => some (58, 6, f)
  | .sopen f => some (59, 1, f)
  | .srun f => some (59, 2, f)
  | .stopk f => some (59, 3, f)
  | .sstat f => some (59, 4, f)
  | .launch f => some (60, 1, f)
  | .lqry f => some (60, 2, f)
  | .lcan f => some (60, 3, f)
  | .sysrd f => some (61, 1, f)
  | .syswr f => some (61, 2, f)
  | .eret f => some (61, 3, f)
  | .tlbiPage f => some (61, 4, f)
  | .tlbiTen f => some (61, 4, f)
  | .tlbiAll f => some (61, 4, f)
  | .slogSt f => some (61, 5, f)
  | .slogRd f => some (61, 5, f)
  | .slogDh f => some (61, 5, f)
  | .freeze f => some (61, 6, f)
  | .thaw f => some (61, 7, f)
  | .thawIp f => some (61, 7, f)
  | .winsp f => some (61, 8, f)
  | .winfl f => some (61, 9, f)
  | .haltGrid f => some (61, 10, f)
  | .haltTen f => some (61, 10, f)
  | .nop => none
  | .nopExtended => none
  | .br _ _ => none
  | .brWide _ _ => none
  | .bru _ _ => none
  | .bruWide _ _ => none
  | .jmp _ _ _ => none
  | .jmpExtended _ _ _ => none
  | .call _ _ _ => none
  | .callWide _ _ _ => none
  | .ret _ => none
  | .retExtended _ => none
  | .exit _ => none
  | .exitExtended _ => none
  | .barrelTurn => none
  | .quantumExpiry _ => none
  | .longLatencyCompletion _ _ => none
  | .acquireDeadlockBreak _ _ => none
  | .spilledRefill _ _ => none
  | .gridRetire _ _ => none
  | .gridStart _ => none
  | .clusterAdmission _ _ _ => none
  | .cooperativeAdmission _ _ => none
  | .coreWithdraw _ _ => none
  | .parkedResume _ _ => none
  | .publicationBufferDrain _ => none
  | .sideLogReplay _ => none
  | .faultRecordWrite _ _ => none
  | .systemGroupService _ _ => none
  | .claspRequest _ => none
  | .hotLineWriteback _ _ => none
  | .pageMoveRequest _ _ _ => none
  | .pageMoveComplete _ _ => none
  | .engineCompress _ _ => none
  | .copySector _ _ _ => none
  | .matrixOperationStart _ => none
  | .matrixUnit _ => none
  | .matrixOperationComplete _ => none
  | .mmacQuarterEnqueue _ => none
  | .barrierUnitOperation _ => none
  | .strandBlock _ _ => none
  | .loupeBatchStart _ => none
  | .freezeReachCore _ _ => none
  | .reconvergenceTimeout _ _ => none
  | .freezeComplete _ => none
  | .peerRequest _ => none
  | .resolvedMessage _ _ => none
  | .remoteTimeout _ _ => none
  | .pagePull _ _ => none
  | .pullService _ _ _ => none
  | .pullRefusalTimeout _ _ => none
  | .forwardedAtomic _ => none
  | .routeSwitch _ _ => none
  | .migration _ _ => none
  | .managerRequest _ _ _ _ => none
  | .haltNotice _ => none
  | .coreRepair _ _ => none
  | .voltageReplan => none
  | .hostRead _ _ => none
  | .hostWrite _ _ => none
  | .hostAtomicop _ _ _ _ _ _ => none
  | .hostFaultService => none
  | .caphi _ _ => none
  | .hostLaunchOutcome _ => none
  | .crst => none
  | .attestationSign => none
  | .hostRegisterWrite _ _ => none
  | .atsInvalidateRequest _ _ => none
  | .pageRequestResponse _ _ _ => none
  | .computeReset => none
  | .computeResetComplete => none
  | .fullReset => none
  | .powerGood => none
  | .bringupStepEnd => none
  | .attestationReportSigned => none
  | .atsTranslationCompletion _ _ _ => none
  | .partitionCreate _ _ _ _ => none
  | .lsumBlock _ _ => none
  | .peerRetryResponse _ _ => none
  | .peerRefusalResponse _ _ => none

/-- Is it an event of the device, which no instruction word encodes? -/
def Instr.isEvent : Instr → Bool
  | .nop => false
  | .nopExtended => false
  | .br _ _ => false
  | .brWide _ _ => false
  | .bru _ _ => false
  | .bruWide _ _ => false
  | .jmp _ _ _ => false
  | .jmpExtended _ _ _ => false
  | .call _ _ _ => false
  | .callWide _ _ _ => false
  | .ret _ => false
  | .retExtended _ => false
  | .exit _ => false
  | .exitExtended _ => false
  | .add _ => false
  | .addExtended _ => false
  | .sub _ => false
  | .subExtended _ => false
  | .mul _ => false
  | .mulExtended _ => false
  | .mad _ => false
  | .madExtended _ => false
  | .and _ => false
  | .andExtended _ => false
  | .or _ => false
  | .orExtended _ => false
  | .xor _ => false
  | .xorExtended _ => false
  | .shl _ => false
  | .shlExtended _ => false
  | .shr _ => false
  | .shrExtended _ => false
  | .sar _ => false
  | .sarExtended _ => false
  | .min _ => false
  | .minExtended _ => false
  | .max _ => false
  | .maxExtended _ => false
  | .cmp _ => false
  | .cmpExtended _ => false
  | .sel _ => false
  | .selExtended _ => false
  | .mov _ => false
  | .movExtended _ => false
  | .lea _ => false
  | .leaExtended _ => false
  | .fadd _ => false
  | .faddExtended _ => false
  | .fmul _ => false
  | .fmulExtended _ => false
  | .fma _ => false
  | .fmaExtended _ => false
  | .fmin _ => false
  | .fminExtended _ => false
  | .fmax _ => false
  | .fmaxExtended _ => false
  | .fcmp _ => false
  | .fcmpExtended _ => false
  | .ld _ => false
  | .ldExtended _ => false
  | .st _ => false
  | .stExtended _ => false
  | .ldc _ => false
  | .ldcExtended _ => false
  | .addc _ => false
  | .mulh _ => false
  | .div _ => false
  | .rem _ => false
  | .neg _ => false
  | .abs _ => false
  | .not _ => false
  | .rot _ => false
  | .popc _ => false
  | .clz _ => false
  | .brev _ => false
  | .bfx _ => false
  | .bfi _ => false
  | .idx _ => false
  | .fsub _ => false
  | .frcp _ => false
  | .frsq _ => false
  | .fsqrt _ => false
  | .fex2 _ => false
  | .flg2 _ => false
  | .frnd _ => false
  | .fclass _ => false
  | .vdot4 _ => false
  | .hfma2 _ => false
  | .hadd2 _ => false
  | .hmul2 _ => false
  | .cvtTo _ => false
  | .cvtFr _ => false
  | .cvtBlk _ => false
  | .cvtUblk _ => false
  | .fcvt _ => false
  | .icvt _ => false
  | .rq _ => false
  | .pln _ => false
  | .unpl _ => false
  | .rfl _ => false
  | .matchLanes _ => false
  | .voteAny _ => false
  | .voteAll _ => false
  | .voteBal _ => false
  | .shflIdx _ => false
  | .shflUp _ => false
  | .shflDn _ => false
  | .shflXor _ => false
  | .lmaskLt _ => false
  | .lmaskLe _ => false
  | .lmaskGt _ => false
  | .lmaskGe _ => false
  | .bcst _ => false
  | .calls _ => false
  | .yield _ => false
  | .trap _ => false
  | .waitf _ => false
  | .acq _ => false
  | .rel _ => false
  | .ldk _ => false
  | .stk _ => false
  | .atomAdd _ => false
  | .atomFadd _ => false
  | .atomMin _ => false
  | .atomMax _ => false
  | .atomAnd _ => false
  | .atomOr _ => false
  | .atomXor _ => false
  | .atomXchg _ => false
  | .atomCas _ => false
  | .redAdd _ => false
  | .redFadd _ => false
  | .redMin _ => false
  | .redMax _ => false
  | .redAnd _ => false
  | .redOr _ => false
  | .redXor _ => false
  | .poolA _ => false
  | .poolF _ => false
  | .cpy _ => false
  | .cpwp _ => false
  | .cpwt _ => false
  | .cpcan _ => false
  | .binit _ => false
  | .barv _ => false
  | .bexp _ => false
  | .bwait _ => false
  | .btry _ => false
  | .phase _ => false
  | .fence _ => false
  | .fopd _ => false
  | .tokwt _ => false
  | .mma _ => false
  | .mmac _ => false
  | .msmx _ => false
  | .mdrn _ => false
  | .mzero _ => false
  | .mlda _ => false
  | .mside _ => false
  | .cnar _ => false
  | .cperm _ => false
  | .cget _ => false
  | .cchk _ => false
  | .cmint _ => false
  | .lfill _ => false
  | .lsplit _ => false
  | .ivpt _ => false
  | .ivlo _ => false
  | .ivhi _ => false
  | .lsum _ => false
  | .sopen _ => false
  | .srun _ => false
  | .stopk _ => false
  | .sstat _ => false
  | .launch _ => false
  | .lqry _ => false
  | .lcan _ => false
  | .sysrd _ => false
  | .syswr _ => false
  | .eret _ => false
  | .tlbiPage _ => false
  | .tlbiTen _ => false
  | .tlbiAll _ => false
  | .slogSt _ => false
  | .slogRd _ => false
  | .slogDh _ => false
  | .freeze _ => false
  | .thaw _ => false
  | .thawIp _ => false
  | .winsp _ => false
  | .winfl _ => false
  | .haltGrid _ => false
  | .haltTen _ => false
  | .barrelTurn => true
  | .quantumExpiry _ => true
  | .longLatencyCompletion _ _ => true
  | .acquireDeadlockBreak _ _ => true
  | .spilledRefill _ _ => true
  | .gridRetire _ _ => true
  | .gridStart _ => true
  | .clusterAdmission _ _ _ => true
  | .cooperativeAdmission _ _ => true
  | .coreWithdraw _ _ => true
  | .parkedResume _ _ => true
  | .publicationBufferDrain _ => true
  | .sideLogReplay _ => true
  | .faultRecordWrite _ _ => true
  | .systemGroupService _ _ => true
  | .claspRequest _ => true
  | .hotLineWriteback _ _ => true
  | .pageMoveRequest _ _ _ => true
  | .pageMoveComplete _ _ => true
  | .engineCompress _ _ => true
  | .copySector _ _ _ => true
  | .matrixOperationStart _ => true
  | .matrixUnit _ => true
  | .matrixOperationComplete _ => true
  | .mmacQuarterEnqueue _ => true
  | .barrierUnitOperation _ => true
  | .strandBlock _ _ => true
  | .loupeBatchStart _ => true
  | .freezeReachCore _ _ => true
  | .reconvergenceTimeout _ _ => true
  | .freezeComplete _ => true
  | .peerRequest _ => true
  | .resolvedMessage _ _ => true
  | .remoteTimeout _ _ => true
  | .pagePull _ _ => true
  | .pullService _ _ _ => true
  | .pullRefusalTimeout _ _ => true
  | .forwardedAtomic _ => true
  | .routeSwitch _ _ => true
  | .migration _ _ => true
  | .managerRequest _ _ _ _ => true
  | .haltNotice _ => true
  | .coreRepair _ _ => true
  | .voltageReplan => true
  | .hostRead _ _ => true
  | .hostWrite _ _ => true
  | .hostAtomicop _ _ _ _ _ _ => true
  | .hostFaultService => true
  | .caphi _ _ => true
  | .hostLaunchOutcome _ => true
  | .crst => true
  | .attestationSign => true
  | .hostRegisterWrite _ _ => true
  | .atsInvalidateRequest _ _ => true
  | .pageRequestResponse _ _ _ => true
  | .computeReset => true
  | .computeResetComplete => true
  | .fullReset => true
  | .powerGood => true
  | .bringupStepEnd => true
  | .attestationReportSigned => true
  | .atsTranslationCompletion _ _ _ => true
  | .partitionCreate _ _ _ _ => true
  | .lsumBlock _ _ => true
  | .peerRetryResponse _ _ => true
  | .peerRefusalResponse _ _ => true

/-- A core's number is below 256, a quarter's below 4 (R1). -/
def unitOk (core qtr : Nat) : Bool := core < 256 && qtr < 4

/-- A group's place: a slot of a quarter of a core (R30). -/
def refOk (r : GRef) : Bool := unitOk r.core r.qtr && r.slot < 64

/-- The units that an event names exist (R1, R109, R233, R238, R339). -/
def Instr.eventOk : Instr → Bool
  | .quantumExpiry r => refOk r
  | .longLatencyCompletion r _ => refOk r
  | .acquireDeadlockBreak c q => unitOk c q
  | .spilledRefill c q => unitOk c q
  | .publicationBufferDrain c => c < 256
  | .sideLogReplay c => c < 256
  | .faultRecordWrite c q => unitOk c q
  | .systemGroupService c q => unitOk c q
  | .claspRequest e => e < 96
  | .hotLineWriteback e _ => e < 32
  | .copySector c ch r => c < 256 && ch < 8 && r < 12
  | .matrixOperationStart c => c < 256
  | .matrixUnit c => c < 256
  | .matrixOperationComplete c => c < 256
  | .mmacQuarterEnqueue c => c < 256
  | .barrierUnitOperation c => c < 256
  | .strandBlock c s => c < 256 && s < 2
  | .loupeBatchStart r => refOk r
  | .freezeReachCore _ c => c < 256
  | .reconvergenceTimeout _ c => c < 256
  | .remoteTimeout r _ => refOk r
  | .managerRequest c q _ _ => unitOk c q
  | .haltNotice c => c < 256
  | .coreRepair c s => c < 256 && s < 16
  | .caphi b _ => b < 8
  | .hostLaunchOutcome b => b < 8
  | .lsumBlock r _ => refOk r
  | .peerRetryResponse r _ => refOk r
  | .peerRefusalResponse r _ => refOk r
  | .partitionCreate p n d _ => p < 65536 && 0 < n && n < 256 && d < n
  | _ => true

/-- An instruction's form belongs to its constructor: the base-length word of a base major has neither W1 and W2
nor a literal, the extended rows have one of them (R126, R128); a row that a field selects has that field. -/
def Instr.shapeOk : Instr → Bool
  | .add f => !f.ext && f.lit.isNone
  | .addExtended f => f.ext || f.lit.isSome
  | .sub f => !f.ext && f.lit.isNone
  | .subExtended f => f.ext || f.lit.isSome
  | .mul f => !f.ext && f.lit.isNone
  | .mulExtended f => f.ext || f.lit.isSome
  | .mad f => !f.ext && f.lit.isNone
  | .madExtended f => f.ext || f.lit.isSome
  | .and f => !f.ext && f.lit.isNone
  | .andExtended f => f.ext || f.lit.isSome
  | .or f => !f.ext && f.lit.isNone
  | .orExtended f => f.ext || f.lit.isSome
  | .xor f => !f.ext && f.lit.isNone
  | .xorExtended f => f.ext || f.lit.isSome
  | .shl f => !f.ext && f.lit.isNone
  | .shlExtended f => f.ext || f.lit.isSome
  | .shr f => !f.ext && f.lit.isNone
  | .shrExtended f => f.ext || f.lit.isSome
  | .sar f => !f.ext && f.lit.isNone
  | .sarExtended f => f.ext || f.lit.isSome
  | .min f => !f.ext && f.lit.isNone
  | .minExtended f => f.ext || f.lit.isSome
  | .max f => !f.ext && f.lit.isNone
  | .maxExtended f => f.ext || f.lit.isSome
  | .cmp f => !f.ext && f.lit.isNone
  | .cmpExtended f => f.ext || f.lit.isSome
  | .sel f => !f.ext && f.lit.isNone
  | .selExtended f => f.ext || f.lit.isSome
  | .mov f => !f.ext && f.lit.isNone
  | .movExtended f => f.ext || f.lit.isSome
  | .lea f => !f.ext && f.lit.isNone
  | .leaExtended f => f.ext || f.lit.isSome
  | .fadd f => !f.ext && f.lit.isNone
  | .faddExtended f => f.ext || f.lit.isSome
  | .fmul f => !f.ext && f.lit.isNone
  | .fmulExtended f => f.ext || f.lit.isSome
  | .fma f => !f.ext && f.lit.isNone
  | .fmaExtended f => f.ext || f.lit.isSome
  | .fmin f => !f.ext && f.lit.isNone
  | .fminExtended f => f.ext || f.lit.isSome
  | .fmax f => !f.ext && f.lit.isNone
  | .fmaxExtended f => f.ext || f.lit.isSome
  | .fcmp f => !f.ext && f.lit.isNone
  | .fcmpExtended f => f.ext || f.lit.isSome
  | .ld f => !f.ext && f.lit.isNone
  | .ldExtended f => f.ext || f.lit.isSome
  | .st f => !f.ext && f.lit.isNone
  | .stExtended f => f.ext || f.lit.isSome
  | .ldc f => !f.ext && f.lit.isNone
  | .ldcExtended f => f.ext || f.lit.isSome
  | .cvtTo f => f.mod.toNat % 8 == 0
  | .cvtFr f => f.mod.toNat % 8 == 1
  | .cvtBlk f => f.mod.toNat % 8 == 2
  | .cvtUblk f => f.mod.toNat % 8 == 3
  | .tlbiPage f => f.imm.toNat % 4 == 0
  | .tlbiTen f => f.imm.toNat % 4 == 1
  | .tlbiAll f => f.imm.toNat % 4 == 2
  | .slogSt f => f.imm.toNat % 4 == 0
  | .slogRd f => f.imm.toNat % 4 == 1
  | .slogDh f => f.imm.toNat % 4 == 2
  | .thaw f => f.imm.toNat % 2 == 0
  | .thawIp f => f.imm.toNat % 2 == 1
  | .haltGrid f => f.imm.toNat % 2 == 0
  | .haltTen f => f.imm.toNat % 2 == 1
  | .call _ fr _ => fr != 0
  | .callWide _ fr _ => fr != 0
  | .jmp _ _ a => !a.high
  | _ => true

/-- Well-formedness: the form fits the constructor and the framing rules of its row hold (R129, check 1); an event
names units that exist. -/
def Instr.wf (i : Instr) : Bool :=
  i.shapeOk && i.eventOk && (match i.fields with
    | some (op, fn, f) => lenOk op f.ext f.lit.isSome
      && (match rowOf op fn with
        | some r => framed op fn r f
        | none => false)
    | none => true)

end Sys2Proof
end

