-- ==== Sys2Proof/Decode.lean ====
section
/-! DEFINITION. The decoder, total on any bytes, and the encoder, from the tables of R115 to R128. -/

namespace Sys2Proof

/-- The instruction of a base major in its base-length word (LEN 0b00). -/
def baseCtor : Nat → Option (Form → Instr)
  | 8 => some .add
  | 9 => some .sub
  | 10 => some .mul
  | 11 => some .mad
  | 12 => some .and
  | 13 => some .or
  | 14 => some .xor
  | 15 => some .shl
  | 16 => some .shr
  | 17 => some .sar
  | 18 => some .min
  | 19 => some .max
  | 20 => some .cmp
  | 21 => some .sel
  | 22 => some .mov
  | 23 => some .lea
  | 24 => some .fadd
  | 25 => some .fmul
  | 26 => some .fma
  | 27 => some .fmin
  | 28 => some .fmax
  | 29 => some .fcmp
  | 30 => some .ld
  | 31 => some .st
  | 32 => some .ldc
  | _ => none

/-- The instruction of a base major in its other forms (LEN 0b01, 0b10, 0b11). -/
def wideCtor : Nat → Option (Form → Instr)
  | 8 => some .addExtended
  | 9 => some .subExtended
  | 10 => some .mulExtended
  | 11 => some .madExtended
  | 12 => some .andExtended
  | 13 => some .orExtended
  | 14 => some .xorExtended
  | 15 => some .shlExtended
  | 16 => some .shrExtended
  | 17 => some .sarExtended
  | 18 => some .minExtended
  | 19 => some .maxExtended
  | 20 => some .cmpExtended
  | 21 => some .selExtended
  | 22 => some .movExtended
  | 23 => some .leaExtended
  | 24 => some .faddExtended
  | 25 => some .fmulExtended
  | 26 => some .fmaExtended
  | 27 => some .fminExtended
  | 28 => some .fmaxExtended
  | 29 => some .fcmpExtended
  | 30 => some .ldExtended
  | 31 => some .stExtended
  | 32 => some .ldcExtended
  | _ => none

/-- The instructions of group XINT (R127). -/
def xintCtor : Nat → Option (Form → Instr)
  | 1 => some .addc
  | 2 => some .mulh
  | 3 => some .div
  | 4 => some .rem
  | 5 => some .neg
  | 6 => some .abs
  | 7 => some .not
  | 8 => some .rot
  | 9 => some .popc
  | 10 => some .clz
  | 11 => some .brev
  | 12 => some .bfx
  | 13 => some .bfi
  | 14 => some .idx
  | _ => none

/-- The instructions of group XFLT (R127). -/
def xfltCtor : Nat → Option (Form → Instr)
  | 1 => some .fsub
  | 2 => some .frcp
  | 3 => some .frsq
  | 4 => some .fsqrt
  | 5 => some .fex2
  | 6 => some .flg2
  | 7 => some .frnd
  | 8 => some .fclass
  | 16 => some .vdot4
  | 17 => some .hfma2
  | 18 => some .hadd2
  | 19 => some .hmul2
  | _ => none

/-- The instructions of group XCVT (R127). -/
def xcvtCtor : Nat → Option (Form → Instr)
  | 1 => some (fun f => match f.mod.toNat % 8 with | 0 => .cvtTo f | 1 => .cvtFr f | 2 => .cvtBlk f | _ => .cvtUblk f)
  | 2 => some .fcvt
  | 3 => some .icvt
  | 4 => some .rq
  | 5 => some .pln
  | 6 => some .unpl
  | _ => none

/-- The instructions of group XLANE (R127). -/
def xlaneCtor : Nat → Option (Form → Instr)
  | 1 => some .rfl
  | 2 => some .matchLanes
  | 16 => some .voteAny
  | 17 => some .voteAll
  | 18 => some .voteBal
  | 32 => some .shflIdx
  | 33 => some .shflUp
  | 34 => some .shflDn
  | 35 => some .shflXor
  | 48 => some .lmaskLt
  | 49 => some .lmaskLe
  | 50 => some .lmaskGt
  | 51 => some .lmaskGe
  | 64 => some .bcst
  | _ => none

/-- The instructions of group XCTL (R127). -/
def xctlCtor : Nat → Option (Form → Instr)
  | 1 => some .calls
  | 2 => some .yield
  | 3 => some .trap
  | 4 => some .waitf
  | 5 => some .acq
  | 6 => some .rel
  | _ => none

/-- The instructions of group XMEM (R127). -/
def xmemCtor : Nat → Option (Form → Instr)
  | 1 => some .ldk
  | 2 => some .stk
  | 16 => some .atomAdd
  | 17 => some .atomFadd
  | 18 => some .atomMin
  | 19 => some .atomMax
  | 20 => some .atomAnd
  | 21 => some .atomOr
  | 22 => some .atomXor
  | 23 => some .atomXchg
  | 24 => some .atomCas
  | 32 => some .redAdd
  | 33 => some .redFadd
  | 34 => some .redMin
  | 35 => some .redMax
  | 36 => some .redAnd
  | 37 => some .redOr
  | 38 => some .redXor
  | 48 => some .poolA
  | 49 => some .poolF
  | _ => none

/-- The instructions of group XCPY (R127). -/
def xcpyCtor : Nat → Option (Form → Instr)
  | 1 => some .cpy
  | 2 => some .cpwp
  | 3 => some .cpwt
  | 4 => some .cpcan
  | _ => none

/-- The instructions of group XSYN (R127). -/
def xsynCtor : Nat → Option (Form → Instr)
  | 1 => some .binit
  | 2 => some .barv
  | 3 => some .bexp
  | 4 => some .bwait
  | 5 => some .btry
  | 6 => some .phase
  | 7 => some .fence
  | 8 => some .fopd
  | 9 => some .tokwt
  | _ => none

/-- The instructions of group XMTX (R127). -/
def xmtxCtor : Nat → Option (Form → Instr)
  | 1 => some .mma
  | 2 => some .mmac
  | 3 => some .msmx
  | 4 => some .mdrn
  | 5 => some .mzero
  | 6 => some .mlda
  | 7 => some .mside
  | _ => none

/-- The instructions of group XCAP (R127). -/
def xcapCtor : Nat → Option (Form → Instr)
  | 1 => some .cnar
  | 2 => some .cperm
  | 3 => some .cget
  | 4 => some .cchk
  | 5 => some .cmint
  | _ => none

/-- The instructions of group XLPE (R127). -/
def xlpeCtor : Nat → Option (Form → Instr)
  | 1 => some .lfill
  | 2 => some .lsplit
  | 3 => some .ivpt
  | 4 => some .ivlo
  | 5 => some .ivhi
  | 6 => some .lsum
  | _ => none

/-- The instructions of group XSTR (R127). -/
def xstrCtor : Nat → Option (Form → Instr)
  | 1 => some .sopen
  | 2 => some .srun
  | 3 => some .stopk
  | 4 => some .sstat
  | _ => none

/-- The instructions of group XLCH (R127). -/
def xlchCtor : Nat → Option (Form → Instr)
  | 1 => some .launch
  | 2 => some .lqry
  | 3 => some .lcan
  | _ => none

/-- The instructions of group XSYS (R127). -/
def xsysCtor : Nat → Option (Form → Instr)
  | 1 => some .sysrd
  | 2 => some .syswr
  | 3 => some .eret
  | 4 => some (fun f => match f.imm.toNat % 4 with | 0 => .tlbiPage f | 1 => .tlbiTen f | _ => .tlbiAll f)
  | 5 => some (fun f => match f.imm.toNat % 4 with | 0 => .slogSt f | 1 => .slogRd f | _ => .slogDh f)
  | 6 => some .freeze
  | 7 => some (fun f => if f.imm.toNat % 2 = 0 then .thaw f else .thawIp f)
  | 8 => some .winsp
  | 9 => some .winfl
  | 10 => some (fun f => if f.imm.toNat % 2 = 0 then .haltGrid f else .haltTen f)
  | _ => none

/-- The instructions of the extended groups (R127). -/
def extCtor (op fn : Nat) : Option (Form → Instr) :=
  match op with
  | 48 => xintCtor fn
  | 49 => xfltCtor fn
  | 50 => xcvtCtor fn
  | 51 => xlaneCtor fn
  | 52 => xctlCtor fn
  | 53 => xmemCtor fn
  | 54 => xcpyCtor fn
  | 55 => xsynCtor fn
  | 56 => xmtxCtor fn
  | 57 => xcapCtor fn
  | 58 => xlpeCtor fn
  | 59 => xstrCtor fn
  | 60 => xlchCtor fn
  | 61 => xsysCtor fn
  | _ => none

/-- Why bytes are no instruction. Every reason but `tooShort` is the illegal-instruction trap (R129). -/
inductive Reject where
  /-- fewer bytes than LEN asks for. -/
  | tooShort
  /-- OP 0x00 in an instruction position (R122, R128). -/
  | header
  /-- a reserved major (R126). -/
  | reservedMajor
  /-- a length that the major does not have (R125, R128). -/
  | badLength
  /-- a function number that the group does not list (R127). -/
  | unassignedFn
  /-- a high-scalar bit that may not be set (R118). -/
  | highScalar
  /-- W2[31:28] or another must-be-zero bit of W1 or W2. -/
  | mustBeZero
  /-- a field value that the row forbids, or a missing literal. -/
  | framing
deriving DecidableEq, Repr

/-- The four words that LEN may bring beside the base word, and the literal. -/
structure Words where
  len  : Nat
  base : Nat
  w1   : Nat
  w2   : Nat
  lit  : Nat
deriving DecidableEq, Repr

/-- The bytes of an instruction by its LEN (R115). -/
def lenBytes : Nat → Nat
  | 0 => 4
  | 3 => 20
  | _ => 12

/-- Frame an instruction from its bytes: LEN alone fixes the words (R115). -/
def frameWords (bs : List Byte) : Except Reject Words :=
  let w0 := ofLe (bs.take 4)
  let len := w0 % 4
  if bs.length < lenBytes len then .error .tooShort
  else
    let w (k : Nat) : Nat := ofLe ((bs.drop (4 * k)).take 4)
    match len with
    | 0 => .ok ⟨0, w0, 0, 0, 0⟩
    | 1 => .ok ⟨1, w0, w 1, w 2, 0⟩
    | 2 => .ok ⟨2, w0, 0, 0, w 1 + 4294967296 * w 2⟩
    | _ => .ok ⟨3, w0, w 1, w 2, w 3 + 4294967296 * w 4⟩

/-- Does the LEN bring W1 and W2? -/
def hasExt (len : Nat) : Bool := len % 2 == 1
/-- Does the LEN bring a literal? -/
def hasLit (len : Nat) : Bool := len ≥ 2

/-- The guard of a base word (R116). -/
def guardOf (w0 : Nat) : Guard := ⟨bit w0 29, ⟨slice w0 28 26, Nat.mod_lt _ (by decide)⟩⟩

/-- Unpack the fields of R116; the high-scalar bits go into the operands (R118). -/
def unpack (w : Words) : Except Reject Form :=
  if bit w.w2 31 || bit w.w2 30 || bit w.w2 29 || bit w.w2 28 then .error .mustBeZero
  else
    match Opnd.ofCode (slice w.base 13 8) (bit w.w2 24), Opnd.ofCode (slice w.base 19 14) (bit w.w2 25),
        Opnd.ofCode (slice w.base 25 20) (bit w.w2 26), Opnd.ofCode (slice w.w1 17 12) (bit w.w2 27) with
    | some d, some a, some b, some c =>
      .ok { ext := hasExt w.len, hold := BitVec.ofNat 2 (slice w.base 31 30), guard := guardOf w.base, d := d, a := a,
            b := b, c := c, mod := BitVec.ofNat 6 (slice w.w1 31 26), scope := BitVec.ofNat 4 (slice w.w1 25 22),
            slot := BitVec.ofNat 3 (slice w.w1 21 19), fs := bit w.w1 18, imm := BitVec.ofNat 24 (slice w.w2 23 0),
            lit := if hasLit w.len then some (BitVec.ofNat 64 w.lit) else none }
    | _, _, _, _ => .error .highScalar

/-- Decode an instruction with the field layout of R116. -/
def decodeFields (op : Nat) (w : Words) : Except Reject Instr :=
  let fn := if hasExt w.len then slice w.w1 11 0 else 0
  if !lenOk op (hasExt w.len) (hasLit w.len) then .error .badLength
  else match rowOf op fn with
  | none => .error (if op < 0x30 ∧ baseRow op = none then .reservedMajor else .unassignedFn)
  | some r =>
    match unpack w with
    | .error e => .error e
    | .ok f =>
      if !framed op fn r f then .error .framing
      else
        let ctor := if op < 0x30 then (if w.len = 0 then baseCtor op else wideCtor op) else extCtor op fn
        match ctor with
        | some k => .ok (k f)
        | none => .error .unassignedFn

/-- W1 and W2 of a control transfer: only IMM may be nonzero, where an offset stands there (R125). -/
def ctlTail (w : Words) (imm : Bool) : Bool := w.w1 == 0 && (if imm then w.w2 < 16777216 else w.w2 == 0)

/-- BR and BRU (R125): OFF in [25:8], in IMM or in the literal. -/
def decodeBranch (w : Words) (near : Guard → BitVec 18 → Instr) (far : Guard → WideOff → Instr) : Except Reject Instr :=
  let g := guardOf w.base
  if slice w.base 31 30 ≠ 0 then .error .mustBeZero
  else match w.len with
  | 0 => .ok (near g (BitVec.ofNat 18 (slice w.base 25 8)))
  | 1 => if slice w.base 25 8 = 0 ∧ ctlTail w true then .ok (far g (.imm (BitVec.ofNat 24 w.w2))) else .error .mustBeZero
  | 2 => if slice w.base 25 8 = 0 then .ok (far g (.lit (BitVec.ofNat 64 w.lit))) else .error .mustBeZero
  | _ => .error .badLength

/-- CALL (R125): OFF in [25:10], in IMM or in the literal, and the frame FR, of which 0b00 is illegal. -/
def decodeCall (w : Words) : Except Reject Instr :=
  let g := guardOf w.base
  let fr := slice w.base 9 8
  if slice w.base 31 30 ≠ 0 then .error .mustBeZero
  else if fr = 0 then .error .framing
  else match w.len with
  | 0 => .ok (.call g (BitVec.ofNat 2 fr) (BitVec.ofNat 16 (slice w.base 25 10)))
  | 1 => if slice w.base 25 10 = 0 ∧ ctlTail w true then .ok (.callWide g (BitVec.ofNat 2 fr) (.imm (BitVec.ofNat 24 w.w2)))
    else .error .mustBeZero
  | 2 => if slice w.base 25 10 = 0 then .ok (.callWide g (BitVec.ofNat 2 fr) (.lit (BitVec.ofNat 64 w.lit)))
    else .error .mustBeZero
  | _ => .error .badLength

/-- JMP (R125): a target in A, whose high-scalar bit stands in W2. -/
def decodeJmp (w : Words) : Except Reject Instr :=
  if w.len ≥ 2 then .error .badLength
  else if slice w.base 13 8 ≠ 0 ∨ slice w.base 25 20 ≠ 0 ∨ w.w1 ≠ 0 ∨ (w.w2 ≠ 0 ∧ w.w2 ≠ 33554432) then .error .mustBeZero
  else match Opnd.ofCode (slice w.base 19 14) (bit w.w2 25) with
  | none => .error .highScalar
  | some a =>
    let h := BitVec.ofNat 2 (slice w.base 31 30)
    .ok (if w.len = 0 then .jmp h (guardOf w.base) a else .jmpExtended h (guardOf w.base) a)

/-- RET and EXIT (R125): no operands. -/
def decodeBare (w : Words) (near far : Guard → Instr) : Except Reject Instr :=
  if w.len ≥ 2 then .error .badLength
  else if slice w.base 25 8 ≠ 0 ∨ slice w.base 31 30 ≠ 0 ∨ !ctlTail w false then .error .mustBeZero
  else .ok ((if w.len = 0 then near else far) (guardOf w.base))

/-- NOP (R145): not even a guard. -/
def decodeNop (w : Words) : Except Reject Instr :=
  if w.len ≥ 2 then .error .badLength
  else if slice w.base 31 8 ≠ 0 ∨ !ctlTail w false then .error .mustBeZero
  else .ok (if w.len = 0 then .nop else .nopExtended)

/-- Decode the framed words (R126). -/
def decodeWords (w : Words) : Except Reject Instr :=
  match slice w.base 7 2 with
  | 0 => .error .header
  | 1 => decodeNop w
  | 2 => decodeBranch w .br .brWide
  | 3 => decodeBranch w .bru .bruWide
  | 4 => decodeJmp w
  | 5 => decodeCall w
  | 6 => decodeBare w .ret .retExtended
  | 7 => decodeBare w .exit .exitExtended
  | op => decodeFields op w

/-- The decoder: the instruction that bytes begin with, and its length in bytes; or why there is none. -/
def decode (bs : List Byte) : Except Reject (Instr × Nat) :=
  match frameWords bs with
  | .error e => .error e
  | .ok w => match decodeWords w with
    | .error e => .error e
    | .ok i => .ok (i, lenBytes w.len)

/-- The instruction that the decoder reads from a word whose bits are numbered as the opcode table numbers
them; the bits above are zero. -/
def decodeTableWord (nbits w : Nat) : Option Instr :=
  match decode (leBytes 20 (w % 2 ^ nbits)) with
  | .ok (i, _) => some i
  | .error _ => none

/-- The LEN bits of a form. -/
def Form.len (f : Form) : Nat := b2n f.ext + (if f.lit.isSome then 2 else 0)

/-- The guard's bits in a base word. -/
def guardBits (g : Guard) : Nat := b2n g.neg * 536870912 + g.pred.val * 67108864

/-- The base word of R116. -/
def packBase (op : Nat) (f : Form) : Nat :=
  f.hold.toNat * 1073741824 + guardBits f.guard + f.b.code * 1048576 + f.a.code * 16384 + f.d.code * 256 + op * 4 + f.len

/-- W1 of R116. -/
def packW1 (fn : Nat) (f : Form) : Nat :=
  f.mod.toNat * 67108864 + f.scope.toNat * 4194304 + f.slot.toNat * 524288 + b2n f.fs * 262144 + f.c.code * 4096 + fn

/-- W2 of R116. -/
def packW2 (f : Form) : Nat :=
  b2n f.c.high * 134217728 + b2n f.b.high * 67108864 + b2n f.a.high * 33554432 + b2n f.d.high * 16777216 + f.imm.toNat

/-- The words of an instruction with the layout of R116, as bytes. -/
def packForm (op fn : Nat) (f : Form) : List Byte :=
  leBytes 4 (packBase op f) ++ (if f.ext then leBytes 4 (packW1 fn f) ++ leBytes 4 (packW2 f) else [])
    ++ (match f.lit with | some l => leBytes 8 l.toNat | none => [])

/-- The words of a control transfer with a wide offset. -/
def packWide (base : Nat) : WideOff → List Byte
  | .imm o => leBytes 4 (base + 1) ++ leBytes 4 0 ++ leBytes 4 o.toNat
  | .lit o => leBytes 4 (base + 2) ++ leBytes 8 o.toNat

/-- The encoder: an instruction's bytes, from the tables of R116, R125 and R127. An event has none. -/
def encode (i : Instr) : List Byte :=
  match i with
  | .nop => leBytes 4 4
  | .nopExtended => leBytes 4 5 ++ leBytes 8 0
  | .br g o => leBytes 4 (guardBits g + o.toNat * 256 + 8)
  | .brWide g o => packWide (guardBits g + 8) o
  | .bru g o => leBytes 4 (guardBits g + o.toNat * 256 + 12)
  | .bruWide g o => packWide (guardBits g + 12) o
  | .jmp h g a => leBytes 4 (h.toNat * 1073741824 + guardBits g + a.code * 16384 + 16)
  | .jmpExtended h g a =>
    leBytes 4 (h.toNat * 1073741824 + guardBits g + a.code * 16384 + 17) ++ leBytes 4 0 ++ leBytes 4 (b2n a.high * 33554432)
  | .call g fr o => leBytes 4 (guardBits g + o.toNat * 1024 + fr.toNat * 256 + 20)
  | .callWide g fr o => packWide (guardBits g + fr.toNat * 256 + 20) o
  | .ret g => leBytes 4 (guardBits g + 24)
  | .retExtended g => leBytes 4 (guardBits g + 25) ++ leBytes 8 0
  | .exit g => leBytes 4 (guardBits g + 28)
  | .exitExtended g => leBytes 4 (guardBits g + 29) ++ leBytes 8 0
  | i => match i.fields with
    | some (op, fn, f) => packForm op fn f
    | none => []

end Sys2Proof
end

