-- ==== Sys2Proof/Machine/Barrel.lean ====
section
/-! DEFINITION. The barrel turn: the grouping stage, clause headers, instruction fetch and decoding; quantum expiry
(R115, R122, R130, R132 to R135, R141, R363). -/

namespace Sys2Proof.Machine

open Sys2Proof

/-- What a fetch gives. -/
inductive Fetched where
  | bytes (bs : List Byte)
  | fault (sub : Nat) (addr : DWord)
  | wait (why : HoldWhy)
deriving DecidableEq, Repr

/-- Fetch one word: a CON read that needs X (R130). Only GEN addresses hold code (R115); how a fetch at another address ends the
manual does not say: here as one of a page that is not present (assumption 89). -/
def State.fetchWord (s : State) (o : Origin) (a : DWord) : State × Fetched :=
  if slice a.toNat 63 57 ≠ 0 then (s, .fault 1 a)
  else match s.readVa o .fetch a.toNat 4 with
    | (s, .bytes bs _) => (s, .bytes bs)
    | (s, .fault c) => (s, .fault c a)
    | (s, .wait w) => (s, .wait w)

/-- Fetch n words from an address on. -/
def State.fetchWords (s : State) (o : Origin) (a : DWord) : Nat → State × Fetched
  | 0 => (s, .bytes [])
  | n + 1 => match s.fetchWord o a with
    | (s, .bytes bs) => match s.fetchWords o (a + 4) n with
      | (s, .bytes r) => (s, .bytes (bs ++ r))
      | x => x
    | x => x

/-- A fetch that faults or waits holds the group (R134, R363): a fault writes a record of cause 0x13. -/
def State.fetchHold (s : State) (r : GRef) (g : Group) (mask : LaneMask) : Fetched → State
  | .bytes _ => s
  | .wait why => s.holdGroup r (.fetchHeld why)
  | .fault sub a =>
    if r.slot = 63 then s.doubleFault r.core r.qtr 0x13 a a
    else (s.holdGroup r (.fetchHeld .record)).report r.core r.qtr (groupRecord g.ten r 0x13 sub 0 a 0 mask a 0)

/-- A clause header's fields (R116). -/
def hdrWait (w : Nat) : BitVec 12 := BitVec.ofNat 12 (slice w 19 8)
/-- SETA. -/
def hdrSeta (w : Nat) : Nat := slice w 23 20
/-- SETB. -/
def hdrSetb (w : Nat) : Nat := slice w 27 24
/-- COUNT. -/
def hdrCount (w : Nat) : Nat := slice w 31 28 + 1

/-- A SETA or SETB that no header may hold (R122). -/
def badSet (n : Nat) : Bool := n == 12 || n == 13 || n == 14

/-- The group with its issuing set past a header: the context is latched, the operations of WAIT are covered (R122,
R140). -/
def Group.enterClause (tk : Nat) (g : Group) (set : List Nat) (w : Nat) : Group :=
  (g.cover tk (hdrWait w)).modThreads set fun _ t =>
    { t with pc := t.pc + 4, cpos := 0, left := some (hdrCount w), seta := BitVec.ofNat 4 (hdrSeta w),
             setb := BitVec.ofNat 4 (hdrSetb w) }

/-- Read the instruction at the issuing set's PC and latch it; bytes that are no instruction raise the
illegal-instruction trap (R122, R126 to R129). -/
def State.readInstr (s : State) (r : GRef) (g : Group) (set : List Nat) : State :=
  let o := s.origin r g
  let pc := (g.thread (set.headD 0)).pc
  match s.fetchWord o pc with
  | (s, .bytes b0) =>
    let len := ofLe b0 % 4
    (match s.fetchWords o (pc + 4) (lenBytes len / 4 - 1) with
     | (s, .bytes rest) => (match decode (b0 ++ rest) with
       | .ok (i, _) => { s with issue := some i, ilen := BitVec.ofNat 2 len }
       | .error _ => s.trapGroup r g 0x01 0 (BitVec.ofNat 2 len) pc pc (maskOf set) 0 0)
     | (s, x) => s.fetchHold r g (maskOf set) x)
  | (s, x) => s.fetchHold r g (maskOf set) x

/-- The clause position of a thread whose PC an ERET has set to a word that could not be read yet: the check of R124 is still to be
made on it (R374). -/
def targetDue : Nat := 32

/-- The issuing set stands at a header (R122): its checks, the wait, and then the clause's first instruction in the
same turn (R132). -/
def State.startClause (s : State) (r : GRef) (g : Group) (set : List Nat) (w : Nat) : State :=
  let lead := g.thread (set.headD 0)
  let pc := lead.pc
  if w % 256 ≠ 0 ∧ lead.cpos = targetDue then
    s.trapGroup r g 0x04 0 (BitVec.ofNat 2 w) pc pc (maskOf set) 0 pc
  else if w % 256 ≠ 0 ∨ badSet (hdrSeta w) ∨ badSet (hdrSetb w) then
    s.trapGroup r g 0x01 0 (BitVec.ofNat 2 w) pc pc (maskOf set) 0 0
  else if g.clear (hdrWait w) then
    let g := g.enterClause s.ticket set w
    (s.setGroup r g).readInstr r g set
  else (s.modGroup r fun g => { g with st := .waiting (hdrWait w) false }).fillTurns r.core r.qtr

/-! ### The clause of a thread that THAW has restored (assumption 12) -/

/-- The word at an address when it can be read now. -/
def State.wordAt (s : State) (o : Origin) (a : DWord) : Option Nat :=
  match s.fetchWord o a with
  | (_, .bytes b) => some (ofLe b)
  | _ => none

/-- The address after n instructions from an address on. -/
def State.afterInstrs (s : State) (o : Origin) : Nat → DWord → Option DWord
  | 0, a => some a
  | n + 1, a => match s.wordAt o a with
    | some w => if w / 4 % 64 = 0 then none else s.afterInstrs o n (a + BitVec.ofNat 64 (lenBytes (w % 4)))
    | none => none

/-- Does the clause that begins with a header at `h` have its position `cpos` at a thread's PC, in the thread's context? The
instructions still to come in it. -/
def State.clauseFrom (s : State) (o : Origin) (t : Thread) (h : DWord) : Option Nat :=
  match s.wordAt o h with
  | none => none
  | some w =>
    if w % 256 = 0 ∧ hdrSeta w = t.seta.toNat ∧ hdrSetb w = t.setb.toNat ∧ t.cpos ≤ hdrCount w
        ∧ s.afterInstrs o t.cpos (h + 4) = some t.pc then some (hdrCount w - t.cpos)
    else none

/-- The instructions still to come in the clause of a restored thread: an image holds the position and the context but not the header's
place, so the nearest header before the PC is taken that fits them; at position 0 a word that is a header is the one that is due. -/
def State.clauseLeft (s : State) (o : Origin) (t : Thread) : Option Nat :=
  if t.cpos = 0 ∧ (s.wordAt o t.pc).any (fun w => w % 256 == 0) then some 0
  else firstSome (fun k => s.clauseFrom o t (t.pc - BitVec.ofNat 64 (4 * (k + 1)))) (List.range (5 * t.cpos + 1))

/-- A group whose issuing set's clause is known again, where the code before it can be read. -/
def State.knowClause (s : State) (r : GRef) (g : Group) (set : List Nat) : Group :=
  let t := g.thread (set.headD 0)
  match t.left with
  | some _ => g
  | none => match s.clauseLeft (s.origin r g) t with
    | none => g
    | some n => g.modThreads set fun _ t => { t with left := some n }

/-- Issue of a ready group up to the reading of its instruction. The leader's count says for the whole issuing set whether a header is
due (assumption 90). -/
def State.beginIssue (s : State) (r : GRef) (g : Group) : State :=
  let set := g.issuingSet
  match set with
  | [] => s
  | l :: _ =>
    let known := (g.thread l).left.isSome
    let g := if known then g else s.knowClause r g set
    let s := if known then s else s.setGroup r g
    let t := g.thread l
    match t.left with
    | some (_ + 1) => s.readInstr r g set
    | some 0 => match s.fetchWord (s.origin r g) t.pc with
      | (s, .bytes b) => s.startClause r g set (ofLe b)
      | (s, x) => s.fetchHold r g (maskOf set) x
    | none => match s.fetchWord (s.origin r g) t.pc with
      | (s, .bytes b) => if ofLe b % 256 = 0 || 16 ≤ t.cpos then s.startClause r g set (ofLe b) else s.readInstr r g set
      | (s, x) => s.fetchHold r g (maskOf set) x

/-- Is a group fully reconverged: one PC and one depth over every live thread (R368)? -/
def Group.converged (g : Group) : Bool := g.issuingSet.length == g.liveLanes.length

/-- The time that a remote access has been refused for stands still while its group is frozen (R366): on halting and on resuming, the
cycle of its first refusal becomes the time since, and back. -/
def Pend.turnClock (cycle : Nat) (p : Pend) : Pend :=
  match p.kind with
  | .load (some .peer) _ _ _ _ => { p with since := turn p.since }
  | .atom (some .peer) _ _ _ _ _ _ => { p with since := turn p.since }
  | _ => p
where
  /-- a time that runs, or, while frozen, the time run so far and one; 0 where no refusal has come. -/
  turn (since : Nat) : Nat := if since = 0 then 0 else cycle + 1 - since

/-- Halt a group for a FREEZE, where it stands (R368). -/
def State.haltGroup (s : State) (r : GRef) (g : Group) (forced : Bool) : State :=
  ((s.modGroup r fun g => { g with frozen := true, forced := forced, pend := g.pend.map (Pend.turnClock s.cycle) }).modTenant g.ten fun t =>
    { t with halted := t.halted + 1, forced := t.forced + b2n forced }).fillTurns r.core r.qtr

/-- A FREEZE of the group's tenant has reached its core (R369). -/
def State.freezeHere (s : State) (r : GRef) (g : Group) : Bool :=
  match s.tenant? g.ten with
  | some t => r.slot != 63 && t.freezing && !t.reach.contains r.core
  | none => false

/-- BARREL_TURN (R132): in its turn a ready active group issues one instruction. This event goes as far as reading the
instruction; the step then runs it in the same turn. A turn just handed over stays empty once (R135). A group that a FREEZE has
reached halts before its next issue once it is fully reconverged (R368). In the first two steps of bring-up nothing issues (R420). -/
def execBarrelTurn (s : State) : Host.Outcome State Fault Refusal :=
  let t := s.cycle % 8
  if (s.core s.turn.core).halted || !(s.core s.turn.core).inService || s.resetting || s.host.step < 2 then .next s
  else if (s.quarter s.turn.core s.turn.qtr).gap.getD t false then
    .next (s.modQuarter s.turn.core s.turn.qtr fun q => { q with gap := lput false q.gap t false })
  else match s.turnRef with
    | none => .next s
    | some r => match s.group? r with
      | none => .next s
      | some g =>
        .next (if !g.canIssue then s
          else if s.freezeHere r g && g.converged then s.haltGroup r g false else s.beginIssue r g)

/-- QUANTUM_EXPIRY (R135): a group that has owned its turn for 56 rotations while a ready group is pending goes to the
pending set as ready. The end of a barrel turn makes the event due at once. -/
def execQuantumExpiry (r : GRef) (s : State) : Host.Outcome State Fault Refusal :=
  let q := s.quarter r.core r.qtr
  match q.active.findIdx? (· == some r.slot) with
  | none => .next s
  | some t => .next (if q.owned.getD t 0 < 56 || (s.readyPending r.core r.qtr).isEmpty then s else s.handOver r)

end Sys2Proof.Machine
end

