-- ==== Sys2Proof/Machine/Launch.lean ====
section
/-! DEFINITION. Launch records: their checks and acceptance, LAUNCH, LQRY and LCAN, the doorbells of the host's launch window,
and the creation of a partition (R92 to R100, R105, R108 to R114, R311, R405, R418). -/

namespace Sys2Proof.Machine

open Sys2Proof

/-! ### The checks of R111 -/

/-- Is a number in a range? -/
def within (lo hi n : Nat) : Bool := lo ≤ n && n ≤ hi

/-- Do the present roles keep R95? -/
def rolesOk (lpass : Bool) (rs : List RoleWord) : Bool :=
  let ords := rs.map (·.ord)
  within 1 32 (rs.foldl (fun n r => n + r.count) 0) && ords.eraseDups.length == ords.length
    && rs.all fun r => r.count ≤ 32 && r.pro ≥ 32 && r.full ≥ r.pro && r.pro % 8 == 0 && r.full % 8 == 0
      && r.full ≤ (if lpass then 1008 else 2016)

/-- Does some quarter's sum of prologue allotments exceed 2,016 words (R111)? -/
def quartersOver (lpass : Bool) (rs : List RoleWord) : Bool :=
  let gs := groupsOf rs
  (List.range 4).any fun q =>
    ((gs.zip (List.range gs.length)).filter (fun g => g.2 % 4 == q)).foldl
      (fun n g => n + g.1.1.pro * (if lpass then 2 else 1)) 0 > Config.quarterWords

/-- Does the LOUPE word keep R96 and R311? -/
def loupeOk (lpass : Bool) (v : Nat) : Bool :=
  if !lpass then v == 0
  else
    slice v 31 28 == 0 && slice v 19 16 == 0 && slice v 11 1 == 0 && slice v 15 12 ≤ 8 && slice v 47 32 ≥ 1
      && slice v 63 48 ≥ 1 && (bit v 0 || (slice v 63 48 == 1 && slice v 27 24 == 0))

/-- Do the fields of a record keep R92 to R97 and R311? -/
def recordOk (w : Nat → Nat) : Bool :=
  let h := w 0
  let sh := w 2
  let lp := bit h 38
  slice h 63 56 == 1 && slice h 55 49 == 0 && slice h 48 44 ≤ 16 && within 6 10 (slice h 43 40) && slice h 34 32 == 0
    && slice (w 1) 63 60 == 0 && slice (w 1) 1 0 == 0
    && slice sh 63 48 ≥ 1 && slice sh 47 32 ≥ 1 && slice sh 31 28 == 0 && within 1 12 (slice sh 27 24)
    && within 1 12 (slice sh 23 20) && slice sh 27 24 * slice sh 23 20 ≤ 12 && slice sh 19 0 == 0
    && rolesOk lp (rolesOf w) && slice (w 5) 63 32 == 0 && slice (w 5) 1 0 == 0 && loupeOk lp (w 6)
    && slice (w 7) 30 12 == 0 && slice (w 8) 30 12 == 0 && slice (w 9) 63 32 == 0 && slice (w 9) 30 28 == 0
    && slice (w 9) 14 12 == 0 && w 10 == 0 && w 11 == 0

/-- What has been read of a launch: the record capability, the record's doublewords, SPILL and LOCK and the arguments with the
tags they count as having, the map's entries, and whether the argument table and the map lie inside the capability. -/
structure Reading where
  cap    : Cap
  dws    : List DWord
  spill  : Cap
  lock   : Cap
  args   : List Cap
  map    : List Nat
  argsIn : Bool
  mapIn  : Bool
deriving DecidableEq, Repr

/-- Doubleword k of the record. -/
def Reading.w (x : Reading) (k : Nat) : Nat := (x.dws.getD k 0).toNat

/-- A number rounded up to a multiple. -/
def roundUp (n m : Nat) : Nat := ceilDiv n m * m

/-- NW: the largest number of clusters that share one wave (R108). -/
def waveMax (es : List MapEntry) : Nat :=
  (List.range 256).foldl (fun n k => max n (es.filter fun e => e.wave == k).length) 0

/-- Bytes of one core part of an image, a multiple of 64 KiB (R387, R390). -/
def corePartBytes (lpass : Bool) (gs : List (RoleWord × Nat)) : Nat :=
  let rw := if lpass then 2 else 1
  roundUp (0x840000 + gs.foldl (fun n g => n + (256 + (if lpass then 64 else 0)) * (g.1.full * rw)) 0) 65536

/-- Bytes of a cluster section: its header and its core parts (R386). -/
def sectionBytes (lpass : Bool) (gs : List (RoleWord × Nat)) (cores : Nat) : Nat := 65536 + cores * corePartBytes lpass gs

/-- Bytes of the image before its cluster sections: header and directory, the Loupe part and the hot-line list (R384,
R392). -/
def imageHead (lpass : Bool) (nsec threads : Nat) : Nat :=
  roundUp (0x300 + 16 * nsec) 4096 + (if lpass then roundUp (32 + 16 * 4096 + 160 * threads) 4096 else 0) + 65536

/-- Bytes that LOCK must cover: the image of the largest wave (R108; assumption 22). -/
def lockBytes (lpass : Bool) (gs : List (RoleWord × Nat)) (cores nw : Nat) : Nat :=
  imageHead lpass nw (64 * gs.length * cores * nw) + nw * sectionBytes lpass gs cores

/-- Does a save area keep R108: tagged, on the GEN path, with R and W, of at least n bytes? -/
def saveOk (c : Cap) (n : Nat) : Bool := c.check 3 1 n 0 == 0 && pathOf c.base == 0

/-- Two rectangles of w by h share a core (R105). -/
def rectsMeet (w h : Nat) (a b : MapEntry) : Bool :=
  a.dev == b.dev && a.x0 < b.x0 + w && b.x0 < a.x0 + w && a.y0 < b.y0 + h && b.y0 < a.y0 + h

/-- No two entries of a list meet. -/
def apart (w h : Nat) : List MapEntry → Bool
  | [] => true
  | e :: es => !(es.any (rectsMeet w h e)) && apart w h es

/-- The code of R111 for a record that has been read: the first failure in the table's order, with the map's range tested before
BADSAVE. -/
def Reading.code (x : Reading) (p : Part) : Nat :=
  let w := x.w
  let lp := bit (w 0) 38
  let rs := rolesOf w
  let gs := groupsOf rs
  let cw := slice (w 2) 23 20
  let ch := slice (w 2) 27 24
  let es := x.map.map mapEntry
  let rw := if lp then 2 else 1
  let team := gs.foldl (fun n g => n + spillBytes rw g.1.full) 0
  if !recordOk w || quartersOver lp rs || !x.argsIn then 2
  else if x.args.any fun c => !c.tag then 3
  else if !x.mapIn then 5
  else if !saveOk x.spill (waveMax es * cw * ch * team) || !saveOk x.lock (lockBytes lp gs (cw * ch) (waveMax es)) then 4
  else if es.any fun e => !p.rectOk e cw ch then 5
  else if bit (w 0) 39 && (es.any (fun e => e.wave != (es.headD ⟨0, 0, true, 0, 0⟩).wave) || !apart cw ch es) then 6
  else if (p.grids.filter fun g => g.st == .queued && g.prio == slice (w 0) 37 35).length ≥ Config.queueGrids then 1
  else 0

/-! ### Acceptance (R99, R100) -/

/-- The handle after one: it wraps modulo 2^32 and skips 0. -/
def nextHandle (h : Nat) : Nat := if h + 1 < 2 ^ 32 then h + 1 else 1

/-- The first handle from h on whose grid is not live (R100). -/
def Part.freeHandle (p : Part) : Nat → Nat → Nat
  | 0, h => h
  | n + 1, h => if (p.grid? h).isSome then p.freeHandle n (nextHandle h) else h

/-- The grid of an accepted record. -/
def Reading.grid (x : Reading) (ten handle order : Nat) (by_ : Option GRef) : Grid :=
  let es := x.map.map mapEntry
  { handle := handle, st := .queued, ten := ten, prio := slice (x.w 0) 37 35, lrec := x.dws, args := x.args,
    base := BitVec.ofNat 64 x.cap.base, order := order, started := 0,
    clusters := (es.zip (List.range es.length)).map fun e => ⟨e.2, e.1.wave, e.1.dev, e.1.x0, e.1.y0, .waiting, 0⟩,
    retired := 0, stop := false, before := .queued, loupe := ⟨[], 0, 0, 0, 0, 0⟩, by_ := by_ }

/-- Apply R111 and queue the grid: the code and the handle. -/
def State.accept (s : State) (part ten : Nat) (x : Reading) (by_ : Option GRef) : State × Nat × Nat :=
  match s.part? part with
  | none => (s, 2, 0)
  | some p =>
    let k := x.code p
    if k ≠ 0 then (s, k, 0)
    else
      let h := p.freeHandle (p.grids.length + 1) p.next
      (s.modPart part fun p =>
        { p with grids := p.grids ++ [x.grid ten h p.order by_], next := nextHandle h, order := p.order + 1 }, 0, h)

/-! ### Reading a record -/

/-- What reading a launch gives. -/
inductive LGot where
  | ok (x : Reading)
  | fault (sub addr : Nat)
  | wait (why : HoldWhy)

/-- Who reads: a group through its own path, or the launch window for a tenant. -/
inductive Reader where
  | group (o : Origin)
  | window (ten : Nat)
deriving DecidableEq, Repr

/-- Read one aligned 16-byte granule. -/
def State.readGranule (s : State) (rd : Reader) (a : Nat) : State × Got :=
  match rd with
  | .group o => if a ≥ 2 ^ 57 then (s, .fault 1) else s.readTarget o .load a (.gen a) 16
  | .window ten => s.launchBytes ten a 16

/-- Read granules one after another. -/
def State.readGranules (s : State) (rd : Reader) (a : Nat) : Nat → State × Except (Option HoldWhy × Nat × Nat) (List (List Byte × Bool))
  | 0 => (s, .ok [])
  | n + 1 => match s.readGranule rd a with
    | (s, .bytes bs t) => match s.readGranules rd (a + 16) n with
      | (s, .ok r) => (s, .ok ((bs, t) :: r))
      | x => x
    | (s, .fault c) => (s, .error (none, c, a))
    | (s, .wait w) => (s, .error (some w, 0, a))

/-- Why a read did not succeed. -/
def missOf (e : Option HoldWhy × Nat × Nat) : LGot :=
  match e with
  | (some w, _, _) => .wait w
  | (none, c, a) => .fault c a

/-- The bytes of granules. -/
def flatBytes (gs : List (List Byte × Bool)) : List Byte := (gs.map (·.1)).flatten

/-- A capability in a granule, with the tag that a test gives it. -/
def granCap (tag : Cap → Bool → Bool) (x : List Byte × Bool) : Cap :=
  let c : Cap := ⟨BitVec.ofNat 128 (ofLe x.1), false⟩
  { c with tag := tag c x.2 }

/-- Read the record, then the argument table and the map where their ranges lie inside the capability (R100, R111). -/
def State.readLaunch (s : State) (rd : Reader) (cap : Cap) (tag : Cap → Bool → Bool) : State × LGot :=
  match s.readGranules rd cap.base 16 with
  | (s, .error e) => (s, missOf e)
  | (s, .ok rec) =>
    let dws := (List.range 32).map fun k => BitVec.ofNat 64 (dwAt (flatBytes rec) k)
    let w (k : Nat) : Nat := (dws.getD k 0).toNat
    let argc := slice (w 0) 48 44
    let n := 4 * (slice (w 2) 47 32 * slice (w 2) 63 48)
    let pm := slice (w 5) 31 0
    let argsIn := cap.check 1 1 (16 * argc) 0x100 == 0
    let mapIn := cap.check 1 1 n pm == 0
    let at_ (k : Nat) : Cap := granCap tag (rec.getD k ([], false))
    match s.readGranules rd (cap.base + 0x100) (if argsIn then argc else 0) with
    | (s, .error e) => (s, missOf e)
    | (s, .ok args) =>
      match s.readGranules rd (cap.base + pm / 16 * 16) (if mapIn then ceilDiv (pm % 16 + n) 16 else 0) with
      | (s, .error e) => (s, missOf e)
      | (s, .ok m) =>
        let bs := (flatBytes m).drop (pm % 16)
        (s, .ok { cap := cap, dws := dws, spill := at_ 6, lock := at_ 7, args := args.map (granCap tag),
                  map := if mapIn then (List.range (n / 4)).map fun i => ofLe ((bs.drop (4 * i)).take 4) else [],
                  argsIn := argsIn, mapIn := mapIn })

/-- The BASE tests of R100: a multiple of 256, on the GEN path. -/
def baseOk (c : Cap) : Bool := c.base % 256 == 0 && pathOf c.base == 0

/-! ### LAUNCH (R113) -/

/-- The result of LAUNCH and of a doorbell: status and handle. -/
def launchWord (code handle : Nat) : DWord := BitVec.ofNat 64 (code * 2 ^ 32 + handle)

/-- LAUNCH at issue: the capability check, and the phase that it closes at .pa. -/
def Ctx.launch (f : Form) (c : Ctx) (s : State) : Res :=
  let cp := c.capOf f.a
  let k := cp.check 1 1 0x100 0
  if k ≠ 0 then c.trapOn f 0x0b k 0 (f.a.num / 2)
  else
    let s := (c.start f s (.launch none cp) [.scalar f.d.num] []).stampPend c.r c.g.nextId
    let s := s.modGroup c.r fun g => { g with phase := g.phase + 1 }
    .next ((s.releases c.r.core).drainPub c.r.core fun e => e.ref == c.r)

/-- LAUNCH goes on once its phase is closed: it reads the record and applies R111; a read that meets a translation fault or a wait
holds the group as a load's does. -/
def State.serveLaunch (s : State) (r : GRef) (id : Nat) : State :=
  match (s.group? r).bind fun g => (g.pend.find? fun p => p.id == id).map fun p => (g, p) with
  | none => s
  | some (g, p) => match p.kind with
    | .launch _ cap =>
      let hold (s : State) (w : HoldWhy) : State := s.modPend r id fun p => { p with kind := .launch (some w) cap }
      let done (s : State) (k h : Nat) : State := (s.modPend r id fun p => p.finish [launchWord k h]).unhold r id
      if !baseOk cap then done s 2 0
      else match s.readLaunch (.group (s.origin r g)) cap (fun _ t => t) with
        | (s, .wait w) => (hold s w).accessWait r id w
        | (s, .fault c a) => (hold s .record).accessFault r g p [(readReq onceLane a 16, c)]
        | (s, .ok x) =>
          let y := s.accept g.part g.ten x (some r)
          done y.1 y.2.1 y.2.2
    | _ => s

/-- LAUNCH (R113). -/
def execLaunch (f : Form) (s : State) : Host.Outcome State Fault Refusal :=
  s.issueForm (Rules.once true (dstF isS) (srcF isS2) none none 64) f (Ctx.launch f)

/-! ### LQRY and LCAN (R99, R112, R114) -/

/-- The code of a grid's state. -/
def GridState.code : GridState → Nat
  | .gone => 0
  | .queued => 1
  | .running => 2
  | .cancelling => 3
  | .parked => 4
  | .done => 5
  | .cancelled => 6

/-- A grid's state and its retired clusters by its handle (R99). -/
def Part.stateOf (p : Part) (h : Nat) : GridState × Nat :=
  match p.grid? h with
  | some x => (x.st, x.retired)
  | none => match p.ended.find? fun e => e.1 == h with
    | some e => e.2
    | none => (.gone, 0)

/-- The handle in A. -/
def Ctx.handle (f : Form) (c : Ctx) : Nat := c.g.read c.tk f.lit 64 0 f.a % 2 ^ 32

/-- LQRY (R112). -/
def Ctx.lqry (f : Form) (c : Ctx) (s : State) : Res :=
  let x := ((s.part? c.g.part).map fun p => p.stateOf (c.handle f)).getD (.gone, 0)
  .next (c.start f s .ready [.scalar f.d.num]
    [BitVec.ofNat 64 ((if x.2 < 2 ^ 32 then x.2 else 2 ^ 32 - 1) * 2 ^ 32 + x.1.code)])

/-- A grid whose saved clusters are discarded and which admits no more. -/
def Grid.discard (x : Grid) : Grid :=
  { x with st := .cancelling, clusters := x.clusters.filter fun c => c.st != .parked }

/-- What LCAN does to a grid (R114). A PARKED grid ends once its phase can be closed (R98) and no cluster of it runs on
(assumption 46). -/
def State.cancelGrid (s : State) (part handle : Nat) : State :=
  match (s.part? part).bind fun p => p.grid? handle with
  | none => s
  | some x => match x.st with
    | .queued => s.endGrid part handle .cancelled
    | .running => s.modGrid part handle fun y => { y with st := .cancelling }
    | .parked => (s.modGrid part handle Grid.discard).retireGrid part handle
    | _ => s

/-- LCAN (R114): the state before it acted. -/
def Ctx.lcan (f : Form) (c : Ctx) (s : State) : Res :=
  let x := ((s.part? c.g.part).map fun p => p.stateOf (c.handle f)).getD (.gone, 0)
  .next ((c.start f s .ready [.scalar f.d.num] [BitVec.ofNat 64 x.1.code]).cancelGrid c.g.part (c.handle f))

/-- The rules of LQRY and LCAN. -/
def handleRules : Rules := Rules.once true (dstF isS) (srcF isSZL) none none 64

/-- LQRY (R112). -/
def execLqry (f : Form) (s : State) : Host.Outcome State Fault Refusal := s.issueForm handleRules f (Ctx.lqry f)
/-- LCAN (R114). -/
def execLcan (f : Form) (s : State) : Host.Outcome State Fault Refusal := s.issueForm handleRules f (Ctx.lcan f)

/-! ### The launch window (R109, R110, R418) -/

/-- The partition that the launch window serves: the one with the lowest number (assumption 26). -/
def State.windowPart (s : State) : Option (Nat × Part) := s.parts.head?

/-- The host's doorbell changed. -/
def State.modBell (s : State) (n : Nat) (f : Doorbell → Doorbell) : State :=
  { s with host := { s.host with bells := lput Doorbell.reset s.host.bells n (f (s.host.bells.getD n Doorbell.reset)) } }

/-- CAPHI (R109, R110): the write submits; on a busy doorbell it is ignored. -/
def execCaphi (bell : Nat) (value : BitVec 64) (s : State) : Host.Outcome State Fault Refusal :=
  .next (s.modBell bell fun b => if b.busy then b else { b with caphi := value, busy := true, cut := s.resetting })

/-- The test that stands for the tag of what the host submits (R109). -/
def hostTag (root : Cap) (c : Cap) : Bool :=
  c.formed && root.base ≤ c.base && c.base + c.len ≤ root.base + root.len && c.perm &&& root.perm == c.perm

/-- A doorbell's outcome. -/
def State.bellDone (s : State) (n code handle : Nat) : State :=
  s.modBell n fun b => { b with busy := false, status := BitVec.ofNat 8 code, handle := BitVec.ofNat 32 handle, cut := false }

/-- The outcome of a submission: RESET, BADCAP, the BASE tests, NOREAD, and then R111 as for a device launch. While no partition
exists there is no launch root, and the outcome is BADCAP (assumption 97). It waits for the steps of bring-up that compute nothing
(R420). -/
def State.bellOutcome (s : State) (n : Nat) : State :=
  let b := s.host.bells.getD n Doorbell.reset
  if !b.busy then s
  else if b.cut then s.bellDone n 8 0
  else if s.host.step < 2 then s
  else match s.windowPart with
    | none => s.bellDone n 7 0
    | some (pid, p) =>
      let raw := capOfWords b.caplo b.caphi false
      let cap := { raw with tag := hostTag p.root raw }
      if cap.check 1 1 0x100 0 ≠ 0 then s.bellDone n 7 0
      else if !baseOk cap then s.bellDone n 2 0
      else match s.readLaunch (.window p.winTen) cap (fun c _ => hostTag p.root c) with
        | (s, .wait _) => s
        | (s, .fault _ _) => s.bellDone n 9 0
        | (s, .ok x) =>
          let y := s.accept pid p.winTen x none
          y.1.bellDone n y.2.1 y.2.2

/-- HOST_LAUNCH_OUTCOME (R111). -/
def execHostLaunchOutcome (bell : Nat) (s : State) : Host.Outcome State Fault Refusal := .next (s.bellOutcome bell)

/-! ### Partitions (R97, R100, R356, R397, R405) -/

/-- A quarter of a partition: its registers are what the partition manager sets (R356). -/
def Quarter.inPart (q : Quarter) (pid core k : Nat) : Quarter :=
  { q with sroot := Config.partReg pid 0x100 0, svec := Config.partReg pid 0x101 0,
           fqb := Config.partReg pid 0x104 (4 * core + k) &&& ~~~(8191#64) }

/-- A core of a partition. -/
def Core.inPart (c : Core) (pid core : Nat) : Core :=
  { c with part := some pid, inService := !c.halted,
           quarters := (List.range 4).map fun k => (c.quarter k).inPart pid core k }

/-- The tenant of a partition's launch window as the partition manager sets it up. -/
def windowTenant (pid : Nat) : Tenant :=
  { part := pid, root := (Config.partReg pid 0x208 0).toNat, strict := (Config.partReg pid 0x209 0).getLsbD 0,
    pasid := if (Config.partReg pid 0x20a 0).getLsbD 63 then some ((Config.partReg pid 0x20a 0).toNat % 2 ^ 20) else none,
    frozen := false, freezing := false, freezeAt := 0, reach := [], halted := 0, forced := 0 }

/-- A new partition: every token 0, handles from 1 (R97, R100); its root capability, its registers and its weights from 1 to 255
(R406) are the partition manager's. -/
def newPart (pid ndev didx : Nat) (cores : List Nat) : Part :=
  { ndev := ndev, didx := didx, cores := cores, tokens := [], next := 1, order := 0, grids := [], ended := [],
    root := { capOfWords (Config.partReg pid 0x200 0) (Config.partReg pid 0x201 0) true with tag := true },
    winTen := (Config.partReg pid 0x202 0).toNat % 65536, sroot := Config.partReg pid 0x100 0,
    svec := Config.partReg pid 0x101 0, rfq := Config.partReg pid 0x109 0,
    dirtyb := Config.partReg pid 0x10a 0 &&& 0x01ffffffffff0000,
    weight := (List.range 64).map fun r => (r, (Config.partReg pid 0x20b r).toNat % 255 + 1),
    near := Config.frameRange pid false, far := Config.frameRange pid true,
    ports := ((List.range ndev).map (Config.wayPorts pid)).flatten.eraseDups,
    switch := ((List.range ndev).map (Config.waySwitch pid)).flatten.eraseDups,
    others := ((List.range ndev).filter (· != didx)).map fun d => (d, Config.extent pid d) }

/-- Do two ranges of frames meet? -/
def rangesMeet (a b : Nat × Nat) : Bool := a.1 < b.1 + b.2 && b.1 < a.1 + a.2

/-- A partition without what one of the others owns: no two share a core, a frame, a port or a route (R405). -/
def Part.apart (p : Part) (others : List Part) : Part :=
  let own {α : Type} [BEq α] (f : Part → List α) (x : α) : Bool := !(others.any fun q => (f q).contains x)
  let frames (f : Part → List (Nat × Nat)) (x : Nat × Nat) : Bool := !(others.any fun q => (f q).any (rangesMeet x))
  { p with cores := p.cores.filter (own (·.cores)), near := p.near.filter (frames (·.near)), far := p.far.filter (frames (·.far)),
           ports := p.ports.filter (own (·.ports)), switch := p.switch.filter (own (·.switch)) }

/-- The route table with a partition's indexes entered: the ports and routes that it owns (R404). -/
def Fabric.enter (f : Fabric) (pid : Nat) (p : Part) : Fabric :=
  { f with ways := (List.range p.ndev).foldl (fun ws d =>
      lset ws d ⟨(Config.wayPorts pid d).filter p.ports.contains, (Config.waySwitch pid d).filter p.switch.contains⟩) f.ways }

/-- PARTITION_CREATE (R97, R404, R405): what another partition owns does not join it; the partition manager writes its routes. -/
def execPartitionCreate (pid ndev didx : Nat) (cores : List Nat) (s : State) : Host.Outcome State Fault Refusal :=
  let p := (newPart pid ndev didx cores).apart ((s.parts.filter fun q => q.1 != pid).map (·.2))
  let free := p.cores
  let s := { s with parts := mset s.parts pid p, fabric := s.fabric.enter pid p }
  let s := if (s.tenant? p.winTen).isSome then s else { s with tenants := mset s.tenants p.winTen (windowTenant pid) }
  .next (free.foldl (fun s c => s.modCore c fun k => k.inPart pid c) s)

end Sys2Proof.Machine
end

