-- ==== Sys2Proof/Machine/Completion.lean ====
section
/-! DEFINITION. What completes by itself: long-latency operations, buffered stores, side-log entries, PEER accesses with their
acknowledgements and refusals, fault records and the service of the ring (R123, R200, R210, R286, R305, R355, R360, R363 to
R366, R404). -/

namespace Sys2Proof.Machine

open Sys2Proof

/-! ### PEER stores and reductions on their way (R210, R286, R366) -/

/-- Numbers from here on name what has been sent to a peer, by its number; below, they name a group's outstanding operation. -/
def sentBase : Nat := 4294967296

/-- Two entries for one device share a byte. -/
def LogEntry.meets (a b : LogEntry) : Bool :=
  a.peerAt.1 == b.peerAt.1 && a.peerAt.2 < b.peerAt.2 + b.bytes && b.peerAt.2 < a.peerAt.2 + a.bytes

/-- The fabric without a sent entry. -/
def State.unsend (s : State) (n : Nat) : State :=
  { s with fabric := { s.fabric with sent := s.fabric.sent.filter fun x => x.1 != n } }

/-- A sent entry of a group that no older entry for the same bytes precedes. -/
def State.sentEntry (s : State) (r : GRef) (n : Nat) : Option LogEntry :=
  match s.fabric.sent.find? fun e => e.1 == n && e.2.ref == r with
  | none => none
  | some e => if s.fabric.sent.any fun x => x.1 < n && x.2.meets e.2 then none else some e.2

/-- A store or reduction on the memory of a peer. -/
def State.peerPerform (s : State) (e : LogEntry) : State :=
  let n := e.bytes
  let d := e.peerAt.1
  let a := e.peerAt.2
  if e.kind = 2 then
    let m := creadLe (s.peer d) a n
    s.writeLoc (.peer d a) (leBytes n (atomApply (redOp e.red) e.uns (8 * n) m (e.data.toNat % 2 ^ (8 * n)) 0)) false
  else s.writeLoc (.peer d a) (leBytes n e.data.toNat) false

/-- The target has performed a sent entry and acknowledges it. -/
def State.peerAck (s : State) (r : GRef) (n : Nat) : State :=
  match s.sentEntry r n with
  | none => s
  | some e => (s.unsend n).peerPerform e

/-! ### Long-latency operations (R123, R134) -/

/-- May a waiting access be tried again: its wait needs no record and no message, and its tenant runs? -/
def State.mayRetry (s : State) (g : Group) (w : HoldWhy) : Bool := w != .record && w != .peer && s.thawed g

/-- A group's outstanding operation. -/
def State.pendOf (s : State) (r : GRef) (id : Nat) : Option (Group × Pend) :=
  (s.group? r).bind fun g => (g.pend.find? fun p => p.id == id).map fun p => (g, p)

/-- Does an ATOM have requests left? -/
def State.atomOpen (s : State) (r : GRef) (id : Nat) : Bool :=
  match s.pendOf r id with
  | some (_, p) => !p.atomLeft.isEmpty
  | none => true

/-- May a TLBI complete: every access that used an entry of the translation has been performed (R375)? -/
def State.tlbiMet (s : State) (ten : Option Nat) (tk : Nat) : Bool :=
  !(s.clasp.reqs.any fun e => e.2.any fun q => q.serial < tk && (match ten with | some t => q.ten == t | none => true))

/-- An outstanding operation goes on or completes, as far as it can. -/
def State.longStep (s : State) (r : GRef) (id : Nat) : State :=
  match s.pendOf r id with
  | none => s
  | some (g, p) =>
    if p.done || (s.core r.core).halted then s
    else match p.kind with
    | .ready => s.complete r id
    | .load none _ _ _ _ => s.complete r id
    | .load (some w) _ _ _ _ => if s.mayRetry g w then s.serveLoad r id else s
    | .atom none _ _ _ _ _ _ =>
      let s := s.peerAtoms r id
      if s.atomOpen r id then s else s.complete r id
    | .atom (some w) _ _ _ _ _ _ => if s.mayRetry g w then s.serveAtom r id else s
    | .pool none _ _ _ => s
    | .pool (some w) _ _ _ => if s.mayRetry g w then s.servePool r id else s
    | .launch none _ => if s.phaseMet r g p 9 then (s.phaseShow r p.since 9).serveLaunch r id else s
    | .launch (some w) _ => if s.mayRetry g w then s.serveLaunch r id else s
    | .phase sc =>
      if s.thawed g && s.phaseMet r g p sc.toNat then (s.phaseShow r p.since sc.toNat).complete r id else s
    | .tlbi ten => if s.tlbiMet ten p.since then s.complete r id else s
    | .fence => if s.fenceMet r g p then s.complete r id else s
    | .stopk _ why _ _ _ => if why.isNone || (why != some .record && s.thawed g) then s.stopkStep r id else s
    | _ => s

/-- LONG_LATENCY_COMPLETION (R123): an operation completes, or what it waits for is tried again; a PEER store or RED is
acknowledged (R286). -/
def execLongLatencyCompletion (r : GRef) (id : Nat) (s : State) : Host.Outcome State Fault Refusal :=
  .next (if id < sentBase then s.longStep r id else s.peerAck r (id - sentBase))

/-! ### The publication buffer (R200) -/

/-- The places of the buffered stores that no older one to a byte of theirs precedes. -/
def drainable (es : List PubEntry) : List Nat :=
  (List.range es.length).filter fun i => match es[i]? with
    | some e => !((es.take i).any fun x => e.meets x)
    | none => false

/-- Drain one store, at a time and in an order of the device's choosing. -/
def State.drainOne (s : State) (core : Nat) : State :=
  let es := (s.core core).pub
  let js := drainable es
  match js[Config.choice s.ticket core % js.length]? with
  | none => s
  | some i => s.drainAll fun x => x.1 == core && x.2.1 == i

/-- PUBLICATION_BUFFER_DRAIN (R200). -/
def execPublicationBufferDrain (core : Nat) (s : State) : Host.Outcome State Fault Refusal :=
  .next (if (s.core core).halted then s else s.drainOne core)

/-! ### The side log (R305, R364) -/

/-- The side log without its head. -/
def State.logDrop (s : State) (core : Nat) : State := s.modCore core fun k => { k with log := k.log.drop 1 }

/-- The head of a side log changed. -/
def State.modHead (s : State) (core : Nat) (f : LogEntry → LogEntry) : State :=
  s.modCore core fun k => { k with log := match k.log with
    | [] => []
    | e :: r => f e :: r }

/-- The origin of an entry's access. -/
def State.logOrigin (s : State) (e : LogEntry) : Origin :=
  s.engineOrigin e.ref e.ten (((s.group? e.ref).map (·.team)).getD 16)

/-- Perform an entry whose translation has succeeded: a store after the buffered stores to its bytes, or a reduction at its
engine. -/
def State.logStore (s : State) (core : Nat) (e : LogEntry) (l : Loc) : State :=
  if e.kind = 2 then
    let w : WordAt := match l with
      | .phys k => .mem k
      | .peer d va => .peer d va
    State.sendAtom false (s.logOrigin e) none (redOp e.red) e.uns (e.bytes == 8) e.serial s
      (⟨onceLane, e.addr, e.bytes, BitVec.ofNat 64 e.data.toNat, 0⟩, w)
  else
    let x : PubEntry := ⟨l, leBytes e.bytes e.data.toNat, e.ref, e.ten, e.tag, e.serial⟩
    (s.drainPub core fun y => x.meets y).performPub x

/-- Replay the head (R305, R364): a translation fault writes a record, and replay waits for its ERET; a lock is waited for. -/
def State.replay (s : State) (core : Nat) : State :=
  match (s.core core).log with
  | [] => s
  | e :: _ =>
    if e.told || (s.core core).logWait.isSome || e.refused || s.stopped e.ten || (s.core core).halted then s
    else if pathOf e.addr.toNat = 7 then
      ((if e.kind = 2 then s.drainLine core (.peer e.peerAt.1 e.peerAt.2) else s).sendPeer e).logDrop core
    else match s.translate (s.logOrigin e).who (if e.kind = 2 then .atomic else .store) (slice e.addr.toNat 56 0) with
      | (s, .ok l) => (s.logStore core e l).logDrop core
      | (s, .fault c) =>
        (s.modHead core fun e => { e with told := true }).report core e.ref.qtr
          (groupRecord e.ten e.ref 0x11 c e.len e.pc 0 e.mask e.addr (BitVec.ofNat 64 e.idx))
      | (s, _) => s

/-- SIDE_LOG_REPLAY (R364). -/
def execSideLogReplay (core : Nat) (s : State) : Host.Outcome State Fault Refusal := .next (s.replay core)

/-! ### Records (R355, R360) -/

/-- FAULT_RECORD_WRITE (R360). -/
def execFaultRecordWrite (core qtr : Nat) (s : State) : Host.Outcome State Fault Refusal := .next (s.writeRecord core qtr)

/-- SYSTEM_GROUP_SERVICE (R355). -/
def execSystemGroupService (core qtr : Nat) (s : State) : Host.Outcome State Fault Refusal := .next (s.startService core qtr)

/-! ### Refusals of PEER accesses (R366, R404) -/

/-- The requests of a load or ATOM. -/
def Pend.requests (p : Pend) : List Req :=
  match p.kind with
  | .load _ _ qs _ _ => qs
  | .atom _ _ _ _ _ left _ => left
  | _ => []

/-- The first PEER request of an access: its device and address. -/
def Pend.peerAt (p : Pend) : Option (Nat × Nat) :=
  (p.requests.find? fun q => pathOf q.addr.toNat == 7).map fun q => (slice q.addr.toNat 59 52, slice q.addr.toNat 51 0)

/-- Cycles in a number of ns: 1.25 GHz in service, 0.8 GHz before READY (R4, R420). -/
def State.nsCycles (s : State) (n : Nat) : Nat := if s.host.ready then ceilDiv (5 * n) 4 else ceilDiv (4 * n) 5

/-- Cycles of 100 µs (R366, R401). -/
def State.remoteCycles (s : State) : Nat := s.nsCycles 100000

/-- Try a waiting access again. -/
def State.serveAgain (s : State) (r : GRef) (id : Nat) : State :=
  match s.pendOf r id with
  | none => s
  | some (_, p) => match p.kind with
    | .load _ _ _ _ _ => s.serveLoad r id
    | .atom _ _ _ _ _ _ _ => s.serveAtom r id
    | .pool _ _ _ _ => s.servePool r id
    | .launch _ _ => s.serveLaunch r id
    | _ => s

/-- A refusal reaches the initiator: a store or RED retires into the side log with the lock bit clear; a load or ATOM is
held. -/
def State.refusal (s : State) (r : GRef) (id : Nat) : State :=
  if id < sentBase then
    match s.pendOf r id with
    | none => s
    | some (g, p) =>
      if p.done || p.peerAt.isNone || p.why.isSome || s.stopped g.ten then s
      else (s.modPend r id fun p => { p.setWhy (some .peer) with since := if p.since = 0 then s.cycle else p.since }).holdGroup r (.held id)
  else match s.sentEntry r (id - sentBase) with
    | none => s
    | some e =>
      if s.logFits r.core 1 then
        (s.unsend (id - sentBase)).logIn r.core [{ e with lock := false, ovl := false, told := false, refused := true }]
      else s

/-- PEER_REFUSAL_RESPONSE (R366). -/
def execPeerRefusalResponse (r : GRef) (id : Nat) (s : State) : Host.Outcome State Fault Refusal := .next (s.refusal r id)

/-- PEER_RETRY_RESPONSE (R404): the request is sent again along the new route; it keeps its place. -/
def execPeerRetryResponse (r : GRef) (id : Nat) (s : State) : Host.Outcome State Fault Refusal :=
  let again (x : Nat × Nat) : State := s.peerOut (x.1 % 512) (BitVec.ofNat 64 x.2)
  .next (if id < sentBase then
      (match (s.pendOf r id).bind fun x => if x.2.done then none else x.2.peerAt with
       | some x => again x
       | none => s)
    else (match s.sentEntry r (id - sentBase) with
      | some e => again e.peerAt
      | none => s))

/-- REMOTE_TIMEOUT (R366): a load or ATOM has been held for 100 µs since its first refusal; the group stops with cause
0x0f. -/
def execRemoteTimeout (r : GRef) (id : Nat) (s : State) : Host.Outcome State Fault Refusal :=
  match s.pendOf r id with
  | none => .next s
  | some (g, p) =>
    if p.done || p.why != some .peer || g.frozen || g.st != .held id || s.cycle < p.since + s.remoteCycles then .next s
    else .next (s.trapGroup r g 0x0f 0 p.len p.pc 0 p.mask 0 (BitVec.ofNat 64 ((p.peerAt.map (·.1)).getD 0)))

/-- A refused entry's bytes hold an address of a device. -/
def LogEntry.names (e : LogEntry) (dev va : Nat) : Bool :=
  pathOf e.addr.toNat == 7 && slice e.addr.toNat 59 52 == dev && e.peerAt.2 ≤ va && va < e.peerAt.2 + e.bytes

/-- Does a held access name an address of a device? -/
def Pend.names (p : Pend) (dev va : Nat) : Bool :=
  p.why == some .peer && p.requests.any fun q =>
    pathOf q.addr.toNat == 7 && slice q.addr.toNat 59 52 == dev && slice q.addr.toNat 51 0 ≤ va && va < slice q.addr.toNat 51 0 + q.size

end Sys2Proof.Machine
end

