-- ==== Sys2Proof/Machine/Outside.lean ====
section
/-! DEFINITION. Accesses from outside the device: the host's through the endpoint's window and those of peer devices, with the
waits on page moves, and the release of everything that waits for a page (R209, R210, R218, R366, R367, R400, R404, R407 to
R413, R420). -/

namespace Sys2Proof.Machine

open Sys2Proof

/-! ### The host's translation (R408, R409) -/

/-- The leaf for a host-tenant address: from the endpoint's cache, or by a walk. -/
def State.hostLeaf (s : State) (va : Nat) : Except Nat Leaf :=
  match tlbFind s.host.tcache s.hostWho va with
  | some t => .ok ⟨t.leaf.toNat, t.big, 0⟩
  | none => walk s.mem s.host.root va

/-- The 64 KiB page of a leaf at an address as a leaf of its own: of a 512 MiB leaf the part that the address names. -/
def Leaf.page (l : Leaf) (va : Nat) : Nat := if l.big then l.e + slice va 28 16 * 65536 else l.e

/-- Put a page's translation into the endpoint's cache of 2,048 entries of 64 KiB pages (R408). -/
def State.hostFill (s : State) (va : Nat) (l : Leaf) : State :=
  let h := s.host
  if (tlbFind h.tcache s.hostWho va).isSome then s
  else
    let old := if h.tcache.length < 2048 then h.tcache else h.tcache.eraseIdx (Config.choice s.ticket va % 2048)
    { s with host := { h with tcache := old ++ [⟨hostTen, false, false, vpnOf false va, BitVec.ofNat 64 (l.page va), 0⟩] } }

/-- Translate one address of a host request. A page that is compressed is promoted for a GEN access; a page whose move lock is
held is waited for. Nothing is written yet (R412). -/
def State.hostTranslate (s : State) (acc : Access) (va : Nat) : State × Tr :=
  match s.hostLeaf va with
  | .error c => (s, .fault c)
  | .ok l =>
    let page := slice va 56 16
    let wait := s.locked hostTen page && !bit l.e 55
    match leafFault l.e acc true with
    | some 5 => if leafAllows l.e acc then (s.requestMove hostTen page .decompressPromote, .wait .lock) else (s, .fault 4)
    | some c => (s, .fault c)
    | none =>
      if wait then (s, .wait .lock)
      else
        (s.hostFill va l, .ok (l.loc va))

/-! ### Host requests (R408 to R413) -/

/-- Bytes of an aperture: 32 TiB (R408). -/
def aperture : Nat := 35184372088832

/-- The first address of BAR0 beyond the host window. -/
def hostEnd : Nat := 2 * aperture

/-- Record a host fault (R412, R413): an untranslatable request's kind, SUB, length and first byte. -/
def State.hostFault (s : State) (kind sub len off : Nat) : State :=
  let h := s.host
  let h := { h with herrcnt := sat16 h.herrcnt }
  let r : HostRecord := ⟨kind, sub, len, h.hseq, BitVec.ofNat 64 off, h.rid⟩
  { s with host := if h.queue.length < 256 then { h with queue := h.queue ++ [r], hseq := h.hseq + 1 } else h }

/-- A poisoned completion: every byte 0xff (R412). -/
def State.poisoned (s : State) (off len : Nat) : State :=
  { s with host := { s.host with out := s.host.out ++ [.completion off true (List.replicate len 0xff)] } }

/-- The aperture of an offset: the access it makes and the host-tenant address; SUB when the request is not admitted there. -/
def hostAperture (kind off : Nat) : Except Nat (Access × Nat) :=
  if off < aperture then .ok (if kind = 1 then .load else if kind = 2 then .store else .atomic, off)
  else if off < hostEnd then (if kind = 1 then .ok (.dap, off - aperture) else .error 4)
  else .error 6

/-- A part of a host request: where it lies, its host-tenant address, its bytes. -/
structure HostPart where
  loc : Loc
  va  : Nat
  n   : Nat
deriving DecidableEq, Repr

/-- The pieces of a request at their window offsets, each within one 16-byte granule and so within one aperture, with where they lie; or
the offset and the reason of the first that cannot be served. -/
def State.hostPlaces (s : State) (kind : Nat) : List (Nat × Nat) → State × Except (Nat × Option HoldWhy × Nat) (List HostPart)
  | [] => (s, .ok [])
  | (off, n) :: r => match hostAperture kind off with
    | .error c => (s, .error (off, none, c))
    | .ok (acc, va) => match s.hostTranslate acc va with
      | (s, .fault c) => (s, .error (off, none, c))
      | (s, .wait w) => (s, .error (off, some w, 0))
      | (s, .remote _) => (s, .error (off, none, 3))
      | (s, .ok l) => match s.hostPlaces kind r with
        | (s, .ok ls) => (s, .ok (⟨l, va, n⟩ :: ls))
        | x => x

/-- Perform a host write's parts in address order; each page is marked as its write reaches it (R213). -/
def State.hostPut (s : State) : List HostPart → List Byte → State
  | [], _ => s
  | p :: r, bs => ((s.markHost p.va).writeLoc p.loc (bs.take p.n) false).hostPut r (bs.drop p.n)

/-- How a host request ends: done, or it waits. -/
inductive HostEnd where
  | done (s : State)
  | wait (s : State)

/-- The bytes that an untranslatable request ends with: a poisoned completion for a read or AtomicOp. -/
def State.hostFails (s : State) (q : HostReq) (sub off : Nat) : HostEnd :=
  let s := s.hostFault q.kind sub q.size off
  .done (if q.kind = 2 then s else s.poisoned q.off q.size)

/-- The pieces of a request by their window offsets, in address order. -/
def HostReq.pieces (q : HostReq) : List (Nat × Nat) := rangePieces q.off q.size

/-- Perform one host request, whole: an AtomicOp goes to its engine (R408). -/
def State.hostPerform (s : State) (q : HostReq) : HostEnd :=
  match s.hostPlaces q.kind q.pieces with
  | (s, .error (_, some _, _)) => .wait s
  | (s, .error (off, none, c)) => s.hostFails q c off
  | (s, .ok ls) =>
    if q.kind = 1 then
      .done { s with host := { s.host with out := s.host.out ++ [.completion q.off false (ls.map fun x => s.readLoc x.loc x.n).flatten] } }
    else if q.kind = 2 then .done (s.hostPut ls q.data)
    else match ls.head? with
      | some ⟨.phys k, va, _⟩ =>
        .done (s.claspIn (homeEngine k)
          { port := hostPort, ref := ⟨0, 0, noSlot⟩, pend := some q.off, ten := hostTen, op := q.op, uns := q.uns, wide := q.size == 8,
            req := ⟨0, BitVec.ofNat 64 va, q.size, q.value, q.cmp⟩, core := none, loc := k, pool := false,
            serial := s.ticket })
      | _ => s.hostFails q 4 q.off

/-- Host writes that wait. -/
def Endpoint.waitingWrites (h : Endpoint) : Nat := (h.waiting.filter fun q => q.kind == 2).length

/-- A host request arrives: it stays behind the requests that wait, and behind an AtomicOp that is at its engine (R307, R410). Before
the firmware runs every request is answered poisoned with no record (R420, R425); one that arrives then after a full reset shows that
the link is up again. With 16 writes waiting, or 8 before READY, a write's credit is withheld: it does not arrive. -/
def State.hostArrive (s : State) (q : HostReq) : State :=
  let s : State := if s.host.linkUp then s else { s with host := { s.host with linkUp := true } }
  let h := s.host
  if h.step = 0 then (if q.kind = 2 then s else s.poisoned q.off q.size)
  else if !h.waiting.isEmpty || s.hostAtomOut then
    (if q.kind = 2 ∧ h.waitingWrites ≥ (if h.ready then 16 else 8) then s else { s with host := { h with waiting := h.waiting ++ [q] } })
  else match s.hostPerform q with
    | .done s => s
    | .wait s => { s with host := { s.host with waiting := s.host.waiting ++ [q] } }

/-- The host requests that wait go on, oldest first, up to one that must still wait. -/
def State.hostRetry (s : State) : List HostReq → State
  | [] => { s with host := { s.host with waiting := [] } }
  | q :: r =>
    if s.hostAtomOut then { s with host := { s.host with waiting := q :: r } }
    else match s.hostPerform q with
      | .done s => s.hostRetry r
      | .wait s => { s with host := { s.host with waiting := q :: r } }

/-- An engine serves a request; host requests that waited behind an AtomicOp go on (R307). -/
def State.claspTurn (s : State) (engine : Nat) : State :=
  let t := s.claspStep engine
  if s.hostAtomOut && !t.hostAtomOut then t.hostRetry t.host.waiting else t

/-- CLASP_REQUEST (R233). -/
def execClaspRequest (engine : Nat) (s : State) : Host.Outcome State Fault Refusal := .next (s.claspTurn engine)

/-- The longest payload of a host write, and the longest read of a host request (R407). -/
def maxPayload : Nat := 512
/-- Max_Read_Request_Size. -/
def maxReadRequest : Nat := 4096

/-- A read or a write. -/
def hostReq (kind off size : Nat) (data : List Byte) : HostReq := ⟨kind, off, size, data, .add, false, 0, 0⟩

/-- HOST_READ (R409, R412): no single request reads more than 4,096 bytes (R407). -/
def execHostRead (off len : Nat) (s : State) : Host.Outcome State Fault Refusal :=
  .next (if len ≤ maxReadRequest then s.hostArrive (hostReq 1 off len []) else s)
/-- HOST_WRITE (R409, R412): no single request writes more than 512 bytes (R407). -/
def execHostWrite (off : Nat) (data : List (BitVec 8)) (s : State) : Host.Outcome State Fault Refusal :=
  .next (if data.length ≤ maxPayload then s.hostArrive (hostReq 2 off data.length data) else s)
/-- HOST_ATOMICOP (R408, R412). -/
def execHostAtomicop (off size : Nat) (op : AtomOp) (uns : Bool) (value cmp : BitVec 64) (s : State) :
    Host.Outcome State Fault Refusal := .next (s.hostArrive ⟨3, off, size, [], op, uns, value, cmp⟩)

/-! ### Inbound PEER accesses (R210, R366, R367, R404) -/

/-- The quarter that RFQ of a partition names, with its core (R356, R367). -/
def rfqPlace (rfq : DWord) : Nat × Nat := (16 * slice rfq.toNat 7 4 + slice rfq.toNat 3 0, slice rfq.toNat 9 8)

/-- Report a fault of an inbound access: a record of cause 0x14 that names no group (R366, R367). -/
def State.inboundFault (s : State) (ten dev sub va : Nat) : State :=
  let rfq := (((s.tenant? ten).bind fun t => s.part? t.part).map (·.rfq)).getD 0
  let p := rfqPlace rfq
  s.report p.1 p.2
    { cause := 0x14, sub := sub, len := 0, seq := 0, pc := 0, rpc := 0, mask := 0, addr := BitVec.ofNat 64 va,
      info := BitVec.ofNat 64 dev, who := whoNone ten }

/-- What the fabric sends. -/
def State.fabricSend (s : State) (x : FabricOut) : State := { s with fabric := { s.fabric with out := s.fabric.out ++ [x] } }

/-- Translate an inbound access: the leaf must carry M; a remote-owned page is pulled; a move is waited for. -/
def State.peerTranslate (s : State) (ten : Nat) (acc : Access) (va : Nat) : State × Tr :=
  let w := s.launchWho ten
  match s.lookup w va with
  | .error c => (s, .fault c)
  | .ok l =>
    let page := slice va 56 16
    match leafFault l.e acc true with
    | some 3 => s.meetRemote ten page (slice l.e 51 44)
    | some c => (s, .fault c)
    | none =>
      if s.locked ten page && !bit l.e 55 then (s, .wait .lock)
      else
        let loc := l.loc va
        let s := s.tlbFill w va l
        (if acc == .store then s.markWrite w va l.e loc else s, .ok loc)

/-- Serve an inbound access; `none` while it waits. -/
def State.peerServe (s : State) (q : PeerIn) : State × Option State :=
  let va := slice q.va.toNat 56 0
  if s.fabric.left.contains q.ten then (s, some (s.fabricSend (.retry q.dev q.va)))
  else match s.peerTranslate q.ten q.kind va with
    | (s, .wait _) => (s, none)
    | (s, .remote _) => (s, none)
    | (s, .fault c) => (s, some ((s.inboundFault q.ten q.dev c va).fabricSend (.refusal q.dev q.va)))
    | (s, .ok l) =>
      match q.kind with
      | .store => (s, some ((s.writeLoc l (leBytes q.size q.data.toNat) false).fabricSend (.response q.dev q.va [])))
      | .atomic => (match l with
        | .phys k => (s, some (s.claspIn (homeEngine k)
            { port := fabricPort q.dev, ref := ⟨q.dev, 0, noSlot + 1⟩, pend := some 0, ten := q.ten, op := q.op, uns := q.uns,
              wide := q.size == 8, req := ⟨0, q.va, q.size, BitVec.ofNat 64 q.data.toNat, q.cmp⟩, core := none, loc := k,
              pool := false, serial := s.ticket }))
        | .peer _ _ => (s, some (s.fabricSend (.retry q.dev q.va))))
      | _ => (s, some (s.fabricSend (.response q.dev q.va (s.readLoc l q.size))))

/-- Serve an inbound access, or keep it. -/
def State.peerArrive (s : State) (q : PeerIn) : State :=
  match s.peerServe q with
  | (_, some s) => s
  | (s, none) => { s with fabric := { s.fabric with inbox := s.fabric.inbox ++ [q] } }

/-- PEER_REQUEST (R210, R366). -/
def execPeerRequest (q : PeerIn) (s : State) : Host.Outcome State Fault Refusal := .next (s.peerArrive q)

/-- FORWARDED_ATOMIC (R401, R402): an ATOM on a page that this device still owns is served at its home engine; once the page has
been sent, it is answered with a retry. -/
def execForwardedAtomic (q : PeerIn) (s : State) : Host.Outcome State Fault Refusal :=
  let va := slice q.va.toNat 56 0
  let w := s.launchWho q.ten
  .next (match walk s.mem w.root va with
    | .error _ => s.fabricSend (.retry q.dev q.va)
    | .ok l => match l.loc va with
      | .phys k =>
        s.claspIn (homeEngine k)
          { port := fabricPort q.dev, ref := ⟨q.dev, 0, noSlot + 1⟩, pend := some 0, ten := q.ten, op := q.op, uns := q.uns,
            wide := q.size == 8, req := ⟨0, q.va, q.size, BitVec.ofNat 64 q.data.toNat, q.cmp⟩, core := none, loc := k,
            pool := false, serial := s.ticket }
      | .peer _ _ => s.fabricSend (.retry q.dev q.va))

/-! ### Release of what waits (R218, R400, R416) -/

/-- A group's fetch is tried again. -/
def State.fetchAgain (s : State) (why : HoldWhy) (p : Group → Bool) : State :=
  (s.tenantGroups.filter fun x => x.2.st == .fetchHeld why && !x.2.frozen && p x.2).foldl
    (fun s x => (s.makeReady x.1).fillTurns x.1.core x.1.qtr) s

/-- Is a group one that may wait for a page of the number `ten`: of the tenant, of a tenant bound to a host process for the host
tenant's pages (R416), a system group of the partition for its supervisor's? -/
def State.mayMeet (s : State) (ten : Nat) (r : GRef) (g : Group) : Bool :=
  if r.slot = 63 then (s.core r.core).part.any fun p => ten == supTen p
  else if ten = hostTen then ((s.tenant? g.ten).bind (·.pasid)).isSome
  else g.ten == ten

/-- A fetch that waits for a page's lock is tried again. -/
def State.fetchPage (s : State) (ten : Nat) : State :=
  (s.groups.filter fun x => x.2.st == .fetchHeld .lock && !x.2.frozen && s.mayMeet ten (grefOf x.1) x.2).foldl
    (fun s x => (s.makeReady (grefOf x.1)).fillTurns (grefOf x.1).core (grefOf x.1).qtr) s

/-- A page's lock is released: fetches, host requests and inbound accesses that waited go on. Held accesses, side logs and engines
try again by themselves. -/
def State.wakePage (s : State) (ten : Nat) : State :=
  let s := s.fetchPage ten
  let s := s.hostRetry s.host.waiting
  let qs := s.fabric.inbox
  qs.foldl State.peerArrive { s with fabric := { s.fabric with inbox := [] } }

end Sys2Proof.Machine
end

