-- ==== Sys2Proof/Machine/Pages.lean ====
section
/-! DEFINITION. The page-move engine and the pulls of remote-owned pages (R82, R218 to R221, R232, R397, R400, R401). Which frame
a move or a pull takes is the device's choice, a free value (assumption 27). -/

namespace Sys2Proof.Machine

open Sys2Proof

/-! ### Frames -/

/-- Bytes of a page. -/
def pageBytes : Nat := 65536
/-- Frames of the near tier. -/
def nearFrames : Nat := Config.nearBytes / pageBytes
/-- Frames of the capacity tier. -/
def capacityFrames : Nat := Config.capacityBytes / pageBytes

/-- Frames of some ranges. -/
def rangesSize (rs : List (Nat × Nat)) : Nat := rs.foldl (fun n r => n + r.2) 0
/-- Frame i of some ranges. -/
def rangesAt : List (Nat × Nat) → Nat → Nat
  | [], i => i
  | r :: rs, i => if i < r.2 then r.1 + i else rangesAt rs (i - r.2)
/-- Ranges without another range. -/
def rangesLess (rs : List (Nat × Nat)) (b : Nat × Nat) : List (Nat × Nat) :=
  (rs.map fun a =>
    let e := a.1 + a.2
    let f := b.1 + b.2
    (if a.1 < b.1 then [(a.1, min e b.1 - a.1)] else []) ++ (if f < e then [(max a.1 f, e - max a.1 f)] else [])).flatten

/-- The frame of some ranges, from a choice on, that a list does not hold; `none` when it holds them all. -/
def freeFrame (rs : List (Nat × Nat)) (taken : List Nat) : Nat → Nat → Option Nat
  | 0, _ => none
  | k + 1, i =>
    let f := rangesAt rs (i % rangesSize rs)
    if rangesSize rs = 0 then none else if taken.contains f then freeFrame rs taken k (i + 1) else some f

/-- The partition of a tenant, or of a supervisor's translation (assumption 87). -/
def State.partOf (s : State) (ten : Nat) : Nat := if hostTen < ten then ten - 65537 else ((s.tenant? ten).map (·.part)).getD 0

/-- The frames of a tier that a page may take: its partition's (R405); for the host tenant's pages those of no partition. -/
def State.framesOf (s : State) (ten : Nat) (far : Bool) : List (Nat × Nat) :=
  let own (p : Part) : List (Nat × Nat) := if far then p.far else p.near
  if ten = hostTen then
    (s.parts.map fun p => own p.2).flatten.foldl rangesLess [(0, if far then capacityFrames else nearFrames)]
  else ((s.part? (s.partOf ten)).map own).getD []

/-- A near frame that the engine takes. -/
def State.nearFrame (s : State) (ten page : Nat) : Option Nat :=
  freeFrame (s.framesOf ten false) (s.frames.map (·.1)) (s.frames.length + 1) (Config.choice s.ticket (2 * (65536 * page + ten)))

/-- The capacity frame of a page: the one that stays reserved for it, or one that the engine takes. -/
def State.capacityFrame (s : State) (ten page : Nat) : Option Nat :=
  match s.reserve.find? fun x => x.1 == ten && x.2.1 == page with
  | some x => some x.2.2
  | none => freeFrame (s.framesOf ten true) (s.reserve.map (·.2.2)) (s.reserve.length + 1)
      (Config.choice s.ticket (2 * (65536 * page + ten) + 1))

/-- The key of a frame's first byte, by its number in the dirty bitmap. -/
def frameKey (n : Nat) : Nat := if n < nearFrames then n * pageBytes else Config.capacityBase + (n - nearFrames) * pageBytes

/-- Does an address lie in the frame of a key? -/
def inFrame (key a : Nat) : Bool := key ≤ a && a < key + pageBytes

/-- Another page takes a frame: what the notes of replaced bytes say of it is forgotten (R302, R303). -/
def State.dropNotes (s : State) (key : Nat) : State :=
  { s with memOld := s.memOld.filter fun e => match e.loc with
      | .phys a => !inFrame key a
      | .peer _ _ => true }

/-- The notes of replaced bytes follow a page to its new frame. -/
def State.carryNotes (s : State) (src dst : Nat) : State :=
  if src = dst then s
  else
    let t := s.dropNotes dst
    { t with memOld := t.memOld.map fun e => match e.loc with
        | .phys a => if inFrame src a then { e with loc := .phys (dst + (a - src)) } else e
        | .peer _ _ => e }

/-- The engines write back the hot lines of a frame (R232). -/
def State.coolFrame (s : State) (key : Nat) : State :=
  { s with clasp := { s.clasp with hot := s.clasp.hot.map fun e => (e.1, e.2.filter fun x => !inFrame key (64 * x)) } }

/-- Copy a frame's bytes and tags over another (R82). -/
def State.copyFrame (s : State) (src dst : Nat) : State :=
  let gs := s.mtags.filter fun g => src / 16 ≤ g && g < (src + pageBytes) / 16
  let rest := s.mtags.filter fun g => !(dst / 16 ≤ g && g < (dst + pageBytes) / 16)
  { s with mem := coverlay (cclear s.mem dst pageBytes) (cslice s.mem src pageBytes dst),
           mtags := gs.foldl (fun ts g => sins ts (g - src / 16 + dst / 16)) rest }

/-! ### A move (R218) -/

/-- A leaf with another frame in a tier, and CMP. -/
def leafMoved (e tier frame : Nat) (cmp : Bool) : Nat :=
  e % 2 ^ 16 + frame * 2 ^ 16 + slice e 56 52 * 2 ^ 52 + b2n cmp * 2 ^ 57 + tier * 2 ^ 58 + slice e 63 60 * 2 ^ 60

/-- Is a bit of a partition's dirty bitmap set? -/
def State.dirtyAt (s : State) (part n : Nat) : Bool :=
  match s.part? part with
  | none => false
  | some p => match walk s.mem p.sroot.toNat (p.dirtyb.toNat + n / 8) with
    | .error _ => false
    | .ok l => match l.loc (p.dirtyb.toNat + n / 8) with
      | .phys k => (cget s.mem k).getLsbD (n % 8)
      | .peer _ _ => false

/-- Give a bit of the dirty bitmap the value of another (R397). -/
def State.moveDirty (s : State) (part a b : Nat) : State :=
  if s.dirtyAt part a then s.setDirtyBit part b
  else match s.part? part with
    | none => s
    | some p => match walk s.mem p.sroot.toNat (p.dirtyb.toNat + b / 8) with
      | .error _ => s
      | .ok l => match l.loc (p.dirtyb.toNat + b / 8) with
        | .phys k => s.writeMem k [cget s.mem k &&& ~~~(BitVec.ofNat 8 (2 ^ (b % 8)))]
        | .peer _ _ => s

/-- Does an access that has been translated to a frame wait at an engine? -/
def State.frameBusy (s : State) (key : Nat) : Bool :=
  s.clasp.reqs.any fun e => e.2.any fun q => q.core.isNone && key ≤ q.loc && q.loc < key + pageBytes

/-- The buffered stores to a frame drain. -/
def State.drainFrame (s : State) (key : Nat) : State :=
  (s.cores.map (·.1)).foldl (fun s c => s.drainPub c fun e => match e.loc with
    | .phys k => key ≤ k && k < key + pageBytes
    | .peer _ _ => false) s

/-- Write a leaf and invalidate the page's entries in every TLB. -/
def State.putLeaf (s : State) (ten page addr e : Nat) : State :=
  (s.writeMem addr (leBytes 8 e)).tlbDrop fun t => (if hostTen < ten then t.sup else !t.sup && t.ten == ten) && !t.big && t.vpn == page

/-- Move a page from its frame to another frame. -/
def State.relocate (s : State) (ten page : Nat) (l : Leaf) (tier frame : Nat) (copy : Bool) : State :=
  let old := frameNumber l.e
  let new := frame + (if tier = 0 then 0 else 12582912)
  let s := (s.drainFrame (frameKey old)).coolFrame (frameKey old)
  let s := if copy then s.copyFrame (frameKey old) (frameKey new) else s
  let s := s.carryNotes (frameKey old) (frameKey new)
  let s := (s.moveDirty (s.partOf ten) old new).putLeaf ten page l.addr (leafMoved l.e tier frame false)
  { s with written := sdel (sdel s.written old) new }

/-- The work of a move on a leaf that admits it; `none` while no frame is free. -/
def State.moveLeaf (s : State) (ten page : Nat) (m : PageMove) (l : Leaf) : Option State :=
  let near := pteFrame l.e / pageBytes
  let reserved := s.reserve.any fun x => x.1 == ten && x.2.1 == page
  match m with
  | .compress => some ((s.coolFrame (frameKey (frameNumber l.e))).putLeaf ten page l.addr (leafMoved l.e 1 near true))
  | .evict => (s.capacityFrame ten page).map fun f =>
    let s := s.relocate ten page l 1 f (!reserved || s.written.contains (frameNumber l.e))
    { s with frames := mdel s.frames near, reserve := s.reserve.filter fun x => !(x.1 == ten && x.2.1 == page) }
  | _ => (s.nearFrame ten page).map fun f =>
    let s := s.relocate ten page l 0 f true
    { s with frames := mset s.frames f ten,
             reserve := (s.reserve.filter fun x => !(x.1 == ten && x.2.1 == page)) ++ [(ten, page, near)] }

/-- The current move of a page is over: a queued one takes the lock at once, else the lock is released. -/
def State.moveOver (s : State) (ten page : Nat) : State :=
  match s.moves.find? fun m => m.ten == ten && m.page == page with
  | none => s
  | some m =>
    let rest := s.moves.filter fun x => !(x.ten == ten && x.page == page)
    match m.queued with
    | k :: ks => { s with moves := rest ++ [⟨ten, page, k, false, ks⟩] }
    | [] => State.wakePage { s with moves := rest } ten

/-- A move in progress completes. Before READY no page moves to another tier (R420); a leaf that software has changed meanwhile, so
that the move may not run, ends it; one for which its partition has no free frame waits. -/
def State.moveDone (s : State) (ten page : Nat) : State :=
  match s.moves.find? fun m => m.ten == ten && m.page == page && !m.pull with
  | none => s
  | some m => match (s.moveRoot ten).map fun root => walk s.mem root (page * pageBytes) with
    | some (.ok l) =>
      if !moveStarts l.e l.big (!s.written.contains (frameNumber l.e)) m.kind then s.moveOver ten page
      else if (!s.host.ready && m.kind != .compress) || s.frameBusy (frameKey (frameNumber l.e)) then s
      else match s.moveLeaf ten page m.kind l with
        | some s => s.moveOver ten page
        | none => s
    | _ => s.moveOver ten page

/-- The page of an address. -/
def pageOf (va : BitVec 64) : Nat := slice va.toNat 56 16

/-- PAGE_MOVE_REQUEST (R218, R219): a move takes the page's lock, or is queued, merged or refused. -/
def execPageMoveRequest (ten : Nat) (va : BitVec 64) (m : PageMove) (s : State) : Host.Outcome State Fault Refusal :=
  .next (s.requestMove ten (pageOf va) m)

/-- PAGE_MOVE_COMPLETE (R218). -/
def execPageMoveComplete (ten : Nat) (va : BitVec 64) (s : State) : Host.Outcome State Fault Refusal :=
  .next (s.moveDone ten (pageOf va))

/-- ENGINE_COMPRESS (R220): the engine compresses a page that no move concerns and that has not been written since its move into the
capacity tier. -/
def execEngineCompress (ten : Nat) (va : BitVec 64) (s : State) : Host.Outcome State Fault Refusal :=
  .next (if s.locked ten (pageOf va) then s else s.requestMove ten (pageOf va) .compress)

/-! ### Pulls (R400, R401) -/

/-- The pull of a page changed. -/
def State.modPull (s : State) (ten page : Nat) (f : Pull → Pull) : State :=
  { s with fabric := { s.fabric with pulls := s.fabric.pulls.map fun p => if p.ten == ten && p.page == page then f p else p } }

/-- The bytes of a page that has come: another device's, so free values, but where this device's own forwarded requests have left a
value there (R402, assumption 28). -/
def State.pageCells (s : State) (ten dev page key : Nat) : List Host.Cell :=
  coverlay (cwrite [] key ((List.range pageBytes).map fun i => Config.undefByte s.ticket (key + i)))
    (cslice (s.peer (peerKey ten dev)) (page * pageBytes) pageBytes key)

/-- The tagged granules of a page that has come (R82): which are is the sender's; a tagged granule satisfies R79. -/
def State.pageTags (s : State) (cells : List Host.Cell) (key : Nat) : List Nat :=
  (List.range (pageBytes / 16)).filterMap fun i =>
    let a := key + 16 * i
    if Config.choice s.ticket a % 2 = 1 ∧ (capOfWords (BitVec.ofNat 64 (creadLe cells a 8)) (BitVec.ofNat 64 (creadLe cells (a + 8) 8)) true).formed
    then some (a / 16) else none

/-- The page has come: its bytes and tags fill a near frame, the leaf becomes present and dirty, and the lock is released. While its
partition has no free near frame the page is not taken. -/
def State.pulled (s : State) (ten page : Nat) (l : Leaf) : State :=
  match s.nearFrame ten page with
  | none => s
  | some f =>
  let dev := slice l.e 51 44
  let key := f * pageBytes
  let cells := s.pageCells ten dev page key
  let s : State := { s.dropNotes key with
    mem := coverlay (cclear s.mem key pageBytes) cells,
    mtags := (s.pageTags cells key).foldl sins (untag s.mtags key pageBytes), frames := mset s.frames f ten }
  let e := leafMoved (l.e - 2 ^ 56) 0 f false ||| 2 ^ 54
  let s := (s.setDirtyBit (s.partOf ten) f).putLeaf ten page l.addr e
  let s : State := { s with written := sins s.written f,
                            fabric := { s.fabric with pulls := s.fabric.pulls.filter fun p => !(p.ten == ten && p.page == page) } }
  s.moveOver ten page

/-- PAGE_PULL (R400, R401): what the device that owns the page answers is its own affair, a free choice: the page, or a refusal. A
page with no pull in progress starts one: a background pull. -/
def execPagePull (ten : Nat) (va : BitVec 64) (s : State) : Host.Outcome State Fault Refusal :=
  let page := pageOf va
  .next (match (s.tenant? ten).map fun t => walk s.mem t.root (page * pageBytes) with
    | some (.ok l) =>
      if !bit l.e 56 then s
      else match s.fabric.pulls.find? fun p => p.ten == ten && p.page == page with
        | none => s.startPull ten page (slice l.e 51 44)
        | some p =>
          if p.refused then s
          else if Config.choice s.ticket page % 2 = 1 then
            s.modPull ten page fun p => { p with refused := true, since := if p.since = 0 then s.cycle else p.since }
          else s.pulled ten page l
    | _ => s)

/-- PULL_SERVICE (R401): this device serves another's pull once every forwarded atomic for the page has been served: hot lines are
written back, the leaf becomes not present, the page is sent; a page that is not present is refused with a record. -/
def execPullService (ten : Nat) (va : BitVec 64) (dev : Nat) (s : State) : Host.Outcome State Fault Refusal :=
  let page := pageOf va
  .next (match (s.tenant? ten).map fun t => walk s.mem t.root (page * pageBytes) with
    | some (.ok l) => (match l.loc (page * pageBytes) with
      | .phys k0 =>
        let k := k0 / pageBytes * pageBytes
        if s.frameBusy k then s
        else
          let s := (s.drainFrame k).coolFrame k
          let tags := (List.range (pageBytes / 16)).filterMap fun i =>
            match l.loc (page * pageBytes + 16 * i) with
            | .phys a => if s.mtag (a / 16) then some (page * pageBytes / 16 + i) else none
            | .peer _ _ => none
          let bytes := (List.range pageBytes).filterMap fun i =>
            match l.loc (page * pageBytes + i) with
            | .phys a => if cget s.mem a == unlisted then none else some (page * pageBytes + i, cget s.mem a)
            | .peer _ _ => none
          (s.putLeaf ten page l.addr (l.e - l.e % 2)).fabricSend (.page dev ten page bytes tags)
      | .peer _ _ => (s.inboundFault ten dev 2 (page * pageBytes)).fabricSend (.pullRefusal dev ten page))
    | some (.error c) => (s.inboundFault ten dev c (page * pageBytes)).fabricSend (.pullRefusal dev ten page)
    | none => s.fabricSend (.pullRefusal dev ten page))

/-- Try every access of a tenant's groups again that waits for a reason. -/
def State.serveWaiting (s : State) (why : HoldWhy) (p : Group → Bool) : State :=
  let held := ((s.tenantGroups.filter fun x => p x.2 && s.thawed x.2).map fun x =>
    (x.2.pend.filter fun q => !q.done && q.why == some why).map fun q => (x.1, q.id)).flatten
  let s := held.foldl (fun s x => s.serveAgain x.1 x.2) s
  (s.cores.map (·.1)).foldl State.replay (s.fetchAgain why p)

/-- PULL_REFUSAL_TIMEOUT (R401): 100 µs after the first refusal the pull has failed; each access that waits meets a translation
fault with SUB REMOTE, now, or when its fetch or engine tries again. -/
def execPullRefusalTimeout (ten : Nat) (va : BitVec 64) (s : State) : Host.Outcome State Fault Refusal :=
  let page := pageOf va
  .next (if s.stopped ten then s
    else match s.fabric.pulls.find? fun p => p.ten == ten && p.page == page && p.refused && !p.failed with
    | none => s
    | some p =>
      if s.cycle < p.since + s.remoteCycles then s
      else (s.modPull ten page fun p => { p with failed := true }).serveWaiting .lock fun g => g.ten == ten)

/-- A pull that was refused, or has failed, starts again (R363, R401). -/
def State.pullAgain (s : State) (ten page : Nat) : State :=
  s.modPull ten page fun p => { p with refused := false, failed := false, since := 0 }

/-- RESOLVED_MESSAGE (R366, R401): refused entries for the address may replay, held accesses are tried again, and a refused pull
of the page from that device starts again. -/
def execResolvedMessage (dev : Nat) (va : BitVec 64) (s : State) : Host.Outcome State Fault Refusal :=
  let free (e : LogEntry) : LogEntry := if e.names dev va.toNat then { e with refused := false } else e
  let s : State := { s with cores := s.cores.map fun c =>
    (c.1, { c.2 with log := c.2.log.map free, saved := c.2.saved.map fun x => { x with log := x.log.map free } }) }
  let own (p : Pull) : Bool := p.page == pageOf va
    && (match (s.tenant? p.ten).map fun t => walk s.mem t.root (p.page * pageBytes) with
        | some (.ok l) => slice l.e 51 44 == dev
        | _ => false)
  let s := (s.fabric.pulls.filter own).foldl (fun s p => s.pullAgain p.ten p.page) s
  let held := (s.tenantGroups.map fun x => (x.2.pend.filter fun p => p.names dev va.toNat).map fun p => (x.1, x.2, p.id)).flatten
  .next (held.foldl (fun s x => if x.2.1.st == .held x.2.2 && s.thawed x.2.1 then s.serveAgain x.1 x.2.2 else s) s)

end Sys2Proof.Machine
end

