-- ==== Sys2Proof/Machine/Freeze.lean ====
section
/-! DEFINITION. Freezing a tenant, resuming it in place, and halting grids and tenants (R246, R273, R340, R354, R366, R368 to R371,
R377, R378, R380, R394). -/

namespace Sys2Proof.Machine

open Sys2Proof

/-! ### FREEZE on its way (R368, R369) -/

/-- A tenant that the device knows nothing of yet. -/
def unknownTenant (part : Nat) : Tenant :=
  { part := part, root := 0, strict := false, pasid := none, frozen := false, freezing := false, freezeAt := 0, reach := [],
    halted := 0, forced := 0 }

/-- A FREEZE starts: admission stops, and the order goes to every core; `ns` is the reconvergence timeout in ns. -/
def State.freezeStart (s : State) (ten part ns : Nat) : State :=
  let t := (s.tenant? ten).getD (unknownTenant part)
  { s with tenants := mset s.tenants ten { t with freezing := true, freezeAt := s.cycle + s.nsCycles ns,
                                                  reach := s.cores.map (·.1), halted := 0, forced := 0 } }

/-- May a group of a freezing tenant still issue: ready and diverged? -/
def Group.runsOn (g : Group) : Bool := g.st == .ready && !g.converged

/-- The groups of a tenant on a core that are not halted yet. -/
def State.unfrozen (s : State) (ten core : Nat) : List (GRef × Group) :=
  (s.coreGroups core).filter fun x => x.2.ten == ten && !x.2.frozen

/-- Halt groups of a core: those that a test names, forced where they still ran diverged. -/
def State.haltGroups (s : State) (ten core : Nat) (p : Group → Bool) : State :=
  ((s.unfrozen ten core).filter fun x => p x.2).foldl (fun s x => s.haltGroup x.1 x.2 x.2.runsOn) s

/-- Spilled groups of a tenant on a core halt too. -/
def State.haltSpilled (s : State) (ten core : Nat) : State :=
  let n := ((s.core core).spilled.filter fun x => x.2.ten == ten && !x.2.frozen).length
  (s.modCore core fun k => { k with spilled := k.spilled.map fun x => (x.1, if x.2.ten == ten then { x.2 with frozen := true } else x.2) }).modTenant
    ten fun t => { t with halted := t.halted + n }

/-- FREEZE_REACH_CORE (R369): every group but a ready diverged one halts. -/
def execFreezeReachCore (ten core : Nat) (s : State) : Host.Outcome State Fault Refusal :=
  match s.tenant? ten with
  | none => .next s
  | some t =>
    if !t.freezing || !t.reach.contains core then .next s
    else
      let s := s.modTenant ten fun t => { t with reach := sdel t.reach core }
      .next ((s.haltGroups ten core fun g => !g.runsOn).haltSpilled ten core)

/-- RECONVERGENCE_TIMEOUT (R368): the groups of a core that still run diverged meet a forced save. -/
def execReconvergenceTimeout (ten core : Nat) (s : State) : Host.Outcome State Fault Refusal :=
  match s.tenant? ten with
  | none => .next s
  | some t =>
    if t.freezing && !t.reach.contains core && s.cycle ≥ t.freezeAt then .next (s.haltGroups ten core fun _ => true) else .next s

/-! ### FREEZE completes -/

/-- Is an operation of a halted group in flight: it completes before the freeze does (R368)? -/
def State.inFlight (s : State) (r : GRef) (g : Group) (p : Pend) : Bool :=
  !p.done && (match p.kind with
    | .ready => true
    | .load none _ _ _ _ => true
    | .atom none _ _ _ _ _ _ => true
    | .pool none _ _ _ => true
    | .launch none _ => s.phaseMet r g p 9
    | .stopk _ none _ _ _ => true
    | .bsent _ _ _ => true
    | .btry _ _ _ _ => true
    | .cpcan _ _ => true
    | _ => false)

/-- Is a channel of a tenant's group? A system group's channels are its own. -/
def Channel.of (c : Channel) (ten : Nat) : Bool := c.st != .idle && c.ten == ten && c.ref.slot != 63
/-- Is a matrix operation of a tenant's group? -/
def MatOp.of (m : MatOp) (ten : Nat) : Bool := m.ten == ten && m.ref.slot != 63
/-- Is a session of a tenant's group? -/
def Session.of (x : Session) (ten : Nat) : Bool := x.st != .closed && x.ten == ten && x.ref.slot != 63

/-- Has a core still work of a tenant on its way: a travelling sector, a channel to cancel, an MMAC quarter, barrier operations? -/
def Core.moving (k : Core) (ten : Nat) : Bool :=
  k.chans.any (fun c => c.of ten && (!c.buf.isEmpty || c.cancel)) || k.matIn.any (fun m => m.of ten)
    || (k.teams.any (fun t => t.2.ten == ten) && !k.barq.isEmpty)

/-- Have all engines and accesses of a tenant come to their boundaries? -/
def State.settled (s : State) (ten : Nat) : Bool :=
  !(s.tenantGroups.any fun x => x.2.ten == ten && (!x.2.frozen || x.2.pend.any (s.inFlight x.1 x.2)))
    && !(s.cores.any fun c => c.2.moving ten) && !(s.clasp.reqs.any fun e => e.2.any fun q => q.ten == ten && q.port < hostPort || q.ten == ten && e.1 ≥ 32)
    && !(s.fabric.sent.any fun e => e.2.ten == ten)

/-- Places of a list whose element meets a test. -/
def placesOf {α : Type} (xs : List α) (p : α → Bool) : NMap α :=
  ((List.range xs.length).zip xs).filter fun x => p x.2

/-- Rewrite the records that a ring holds, from its head on. -/
def State.rewriteRing (s : State) (core qtr : Nat) (rs : List Record) : State :=
  let q := s.quarter core qtr
  let s := s.modQuarter core qtr fun q => { q with ring := rs, tail := (q.head + rs.length) % Config.ringRecords }
  (rs.zip (List.range rs.length)).foldl (fun s x =>
    let a := slice q.fqb.toNat 56 0 + 64 * ((q.head + x.2) % Config.ringRecords)
    match s.supWrites core qtr a x.1.pieces with
    | .ok s => s
    | .error _ => s.doubleFault core qtr 0x10 0 (BitVec.ofNat 64 a)) s

/-- Take records out of a quarter's ring and from those that wait; the record being served stays. -/
def State.takeRecords (s : State) (core qtr : Nat) (p : Record → Bool) : State × List Record :=
  let q := s.quarter core qtr
  let head := if q.busy then q.ring.take 1 else []
  let rest := q.ring.drop head.length
  let gone := rest.filter p
  let wait := q.waitRec.filter p
  let s := if gone.isEmpty then s else s.rewriteRing core qtr (head ++ rest.filter fun r => !p r)
  (s.modQuarter core qtr fun q => { q with waitRec := q.waitRec.filter fun r => !p r }, gone ++ wait)

/-- A record that names a group of a tenant. -/
def Record.of (r : Record) (ten : Nat) : Bool := whoNames r.who && whoTen r.who == ten

/-- Is a cause one that stops its group as trapped (R362)? -/
def trapCause (c : Nat) : Bool := 1 ≤ c && c ≤ 0x0f

/-- Is a record one that its group waits for: a trap's, or a held access's or fetch's (R362)? -/
def waitedCause (c : Nat) : Bool := trapCause c || c == 0x10 || c == 0x13

/-- The groups that records name carry them (R370). -/
def State.carry (s : State) (rs : List Record) : State :=
  (rs.filter fun r => waitedCause r.cause).foldl (fun s r => s.modGroup (whoRef r.who) fun g => { g with crec := some r }) s

/-- Take a tenant's unserved records of a core into the saved state; the groups carry them, and the served one's too. -/
def State.saveRecords (s : State) (ten core : Nat) : State × List (Nat × Record) :=
  (List.range 4).foldl (fun (x : State × List (Nat × Record)) q =>
    let y := x.1.takeRecords core q fun r => r.of ten
    let k := y.1.quarter core q
    let served := if k.busy then (k.ring.take 1).filter fun r => r.of ten else []
    (y.1.carry (y.2 ++ served), x.2 ++ y.2.map fun r => (q, r))) (s, [])

/-- Move a tenant's channels, matrix operations, sessions and side-log entries of a core into its saved state (R394). -/
def Core.save (k : Core) (ten : Nat) (recs : List (Nat × Record)) : Core :=
  let x : Saved := { ten := ten, chans := placesOf k.chans fun c => c.of ten, mats := k.mat.filter fun m => m.of ten,
                     sess := placesOf k.sess fun c => c.of ten, log := k.log.filter fun e => e.ten == ten, recs := recs }
  if x.chans.isEmpty && x.mats.isEmpty && x.sess.isEmpty && x.log.isEmpty && x.recs.isEmpty && !(k.teams.any fun t => t.2.ten == ten) then k
  else
    { k with chans := k.chans.map (fun c => if c.of ten then Channel.reset else c), mat := k.mat.filter (fun m => !m.of ten),
             sess := k.sess.map (fun c => if c.of ten then Session.reset else c), log := k.log.filter (fun e => e.ten != ten),
             saved := k.saved.filter (fun y => y.ten != ten) ++ [x] }

/-- The rows that a tenant's drains into registers have done reach the registers of their groups (R269). -/
def State.settleMats (s : State) (ten core : Nat) : State :=
  ((s.core core).mat.filter fun m => m.of ten).foldl (fun s m => s.modGroup m.ref (m.settle s.ticket)) s

/-- Everything of a tenant has halted: its state is moved into the saved state of the cores. -/
def State.saveTenant (s : State) (ten : Nat) : State :=
  (s.cores.map (·.1)).foldl (fun s c =>
    let y := (s.settleMats ten c).saveRecords ten c
    y.1.modCore c fun k => k.save ten y.2) s

/-- A tenant's stores in every publication buffer are performed (R306, R368). -/
def State.drainTenant (s : State) (ten : Nat) : State :=
  (s.cores.map (·.1)).foldl (fun s c => s.drainPub c fun e => e.ten == ten && e.ref.slot != 63) s

/-- The time of a tenant's refused pulls stands still while it is frozen (R401). -/
def State.turnPulls (s : State) (ten : Nat) : State :=
  { s with fabric := { s.fabric with pulls := s.fabric.pulls.map fun p =>
      if p.ten == ten && p.refused then { p with since := s.cycle - p.since } else p } }

/-- The value of FREEZE (R377). -/
def freezeWord (status forced halted : Nat) : DWord := BitVec.ofNat 64 (status + forced % 65536 * 2 ^ 16 + halted % 65536 * 2 ^ 32)

/-- Finish every FREEZE that waits for a tenant. -/
def State.freezeDone (s : State) (ten : Nat) (v : DWord) : State :=
  s.modPends fun _ p => if p.kind == .freeze ten then p.finish [v] else p

/-- FREEZE_COMPLETE (R369, R377): once every group has halted and every engine has stopped; before, it halts the groups that have
stopped issuing, and drains. -/
def execFreezeComplete (ten : Nat) (s : State) : Host.Outcome State Fault Refusal :=
  match s.tenant? ten with
  | none => .next s
  | some t =>
    if !t.freezing || !t.reach.isEmpty then .next s
    else
      let s : State := (s.cores.map (·.1)).foldl (fun s c => (s.haltGroups ten c fun g => !g.runsOn).haltSpilled ten c) s
      let s : State := if s.tenantGroups.all (fun x => x.2.ten != ten || x.2.frozen) then s.drainTenant ten else s
      if !s.settled ten then .next s
      else
        let s : State := { (s.saveTenant ten).turnPulls ten with clasp := { s.clasp with hot := [] } }
        let n : Nat := ((s.tenant? ten).map (·.halted)).getD 0
        let f : Nat := ((s.tenant? ten).map (·.forced)).getD 0
        .next ((s.modTenant ten fun t => { t with freezing := false, frozen := true }).freezeDone ten
          (freezeWord (if n = 0 then 2 else 0) f n))

/-! ### THAW.ip (R378, R394) -/

/-- The first shortage that keeps a core from taking a tenant's state back: status and amount. -/
def Core.shortOf (k : Core) (x : Saved) : Option (Nat × Nat) :=
  if x.chans.any (fun c => (k.chan c.1).busy) || x.sess.any (fun c => (k.session c.1).busy) then some (2, 0)
  else if k.log.length + x.log.length > Config.sideLogEntries then some (7, k.log.length + x.log.length - Config.sideLogEntries)
  else none

/-- A status with a core's TIDX and the amount short. -/
def thawWord (status tidx n : Nat) : DWord := BitVec.ofNat 64 (status + tidx % 256 * 2 ^ 8 + n % 2 ^ 32 * 2 ^ 16)

/-- The TIDX of a tenant's first team on a core. -/
def Core.tidxOf (k : Core) (ten : Nat) : Nat := ((k.teams.find? fun t => t.2.ten == ten).map (·.2.tidx)).getD 0

/-- A core takes a tenant's saved state back; SAVING returns to 0 (R371). -/
def Core.restore (k : Core) (x : Saved) : Core :=
  { k with chans := x.chans.foldl (fun cs c => lset cs c.1 { c.2 with xs := [] }) k.chans, mat := k.mat ++ x.mats,
           sess := x.sess.foldl (fun cs c => lset cs c.1 c.2) k.sess, log := k.log ++ x.log,
           saved := k.saved.filter (fun y => y.ten != x.ten), saving := 0,
           spilled := k.spilled.map fun g => (g.1, if g.2.ten == x.ten then { g.2 with frozen := false } else g.2) }

/-- A group resumes the state in which it was halted; a fetch that waits for no record is made again. -/
def Group.resume (cycle : Nat) (g : Group) : Group :=
  { g with frozen := false, forced := false, crec := none, pend := g.pend.map (Pend.turnClock cycle),
           st := match g.st with
             | .fetchHeld .record => .fetchHeld .record
             | .fetchHeld _ => .ready
             | st => st, readyAt := cycle }

/-- A resumed group's cancelled accesses are reissued; what it waited for is tested again. -/
def State.reissue (s : State) (x : GRef × Group) : State :=
  let ids := (x.2.pend.filter fun p => !p.done && p.why.isSome && p.why != some .record).map (·.id)
  (((ids.foldl (fun s id => s.serveAgain x.1 id) s).wake x.1).retireIfDrained x.1).fillTurns x.1.core x.1.qtr

/-- Resume every group and engine of a frozen tenant where it stands. -/
def State.thawInPlace (s : State) (ten : Nat) : State :=
  let s := s.modTenant ten fun t => { t with frozen := false }
  let saves := (s.cores.map fun c => (c.2.saved.filter fun x => x.ten == ten).map fun x => (c.1, x)).flatten
  let s := saves.foldl (fun s x => s.modCore x.1 fun k => k.restore x.2) s
  let gs := s.tenantGroups.filter fun x => x.2.ten == ten && x.2.frozen
  let s := gs.foldl (fun s x => s.modGroup x.1 (Group.resume s.cycle)) (s.turnPulls ten)
  let s := saves.foldl (fun s x => x.2.recs.foldl (fun s r => s.report x.1 r.1 r.2) s) s
  let s := gs.foldl State.reissue s
  let s := gs.foldl (fun s x => s.serveAcq x.1.core x.1.qtr) s
  let s := s.pokeTokens (s.partOf ten)
  saves.foldl (fun s x => x.2.chans.foldl (fun s c => s.pokeCopy x.1 c.1) s) s

/-- THAW.ip: its status, or the tenant resumed. -/
def State.thawIp (s : State) (ten : Nat) : State × DWord :=
  match s.tenant? ten with
  | none => (s, thawWord 8 0 0)
  | some t =>
    if !t.frozen then (s, thawWord 8 0 0)
    else match firstSome (fun (c : Nat × Core) => (c.2.savedOf ten).bind fun x => (c.2.shortOf x).map fun y => (c.2.tidxOf ten, y)) s.cores with
      | some (tidx, st, n) => (s, thawWord st tidx n)
      | none => (s.thawInPlace ten, thawWord 0 0 0)

/-! ### HALT (R380) -/

/-- A discarded head of the side log whose record is discarded too holds replay back no longer (R364, R380). -/
def Core.unwait (k : Core) (rs : List Record) : Core :=
  if rs.any fun x => x.cause == 0x11 && k.logWait == some x.info.toNat then { k with logWait := none } else k

/-- Discard what the engines and rings hold of a group. -/
def State.forget (s : State) (r : GRef) : State :=
  let mine (ref : GRef) : Bool := ref == r
  let live := (s.core r.core).chans.zip (List.range 8)
  let s := live.foldl (fun s x => if mine x.1.ref && x.1.busy then s.copyEnd r.core x.2 .cancelled else s) s
  let keepBar : BarOp → Bool
    | .test _ _ _ q _ => !mine q
    | .wait _ _ q _ => !mine q
    | _ => true
  let clean (k : Core) : Core :=
    { k with mat := k.mat.filter (fun m => !mine m.ref), matIn := k.matIn.filter (fun m => !mine m.ref),
             sess := k.sess.map (fun x => if mine x.ref && x.busy then Session.reset else x),
             log := k.log.filter (fun e => !mine e.ref), barq := k.barq.filter keepBar,
             saved := k.saved.map fun x =>
               { x with chans := x.chans.filter (fun c => !mine c.2.ref), mats := x.mats.filter (fun m => !mine m.ref),
                        sess := x.sess.filter (fun c => !mine c.2.ref), log := x.log.filter (fun e => !mine e.ref),
                        recs := x.recs.filter fun e => !(whoNames e.2.who && mine (whoRef e.2.who)) } }
  let s : State := { s with cores := s.cores.map fun c => (c.1, clean c.2),
                            clasp := { s.clasp with reqs := s.clasp.reqs.map fun e => (e.1, e.2.filter fun q => !(mine q.ref && q.pend.isSome)) } }
  let y := s.takeRecords r.core r.qtr fun x => whoNames x.who && mine (whoRef x.who)
  (y.1.modCore r.core fun k => k.unwait y.2).modQuarter r.core r.qtr fun q => if q.serving == some r.slot then { q with serving := none } else q

/-- Stop a group at once: its performed and buffered writes stay, everything else of it is discarded. -/
def State.killGroup (s : State) (r : GRef) : State :=
  (((s.drainPub r.core fun e => e.ref == r).forget r).delGroup r).fillTurns r.core r.qtr

/-- Discard the side-log entries of a grid on a core, the queued records that name them, and what the saved state holds of them: of its
spilled groups too. -/
def State.dropLog (s : State) (part handle core : Nat) : State :=
  let mine (e : LogEntry) : Bool := e.part == part && e.handle == handle
  let k := s.core core
  let idx := ((k.log ++ (k.saved.map (·.log)).flatten).filter mine).map (·.idx)
  let named (x : Record) : Bool := x.cause == 0x11 && idx.contains x.info.toNat
  let s := if idx.isEmpty then s else (List.range 4).foldl (fun s q => (s.takeRecords core q named).1) s
  s.modCore core fun k => { k with log := k.log.filter (fun e => !mine e),
                                   saved := k.saved.map fun x => { x with log := x.log.filter (fun e => !mine e),
                                                                          recs := x.recs.filter fun e => !named e.2 } }

/-- Stop the resident and spilled groups that a test names, and drop the teams that another one names then; the number of groups. -/
def State.killAll (s : State) (pg : Group → Bool) (pt : State → Nat → Nat → Team → Bool) : State × Nat :=
  let gs := s.tenantGroups.filter fun x => pg x.2
  let sp := s.cores.foldl (fun n c => n + (c.2.spilled.filter fun x => pg x.2).length) 0
  let s := gs.foldl (fun s x => s.killGroup x.1) s
  let s := (s.cores.map (·.1)).foldl (fun s c => s.modCore c fun k => { k with spilled := k.spilled.filter fun x => !pg x.2 }) s
  let s := (s.cores.map (·.1)).foldl (fun t c =>
    t.modCore c fun k => ((k.teams.filter fun x => pt s c x.1 x.2).map (·.1)).foldl Core.dropTeam k) s
  let s := gs.foldl (fun s x => s.serveAcq x.1.core x.1.qtr) s
  (s, gs.length + sp)

/-- A grid that HALT.grid ends admits no more, and none of its clusters runs or is saved. -/
def Grid.halt (x : Grid) : Grid :=
  { x with st := .cancelling, clusters := x.clusters.filter fun c => c.st != .parked && c.st != .admitted }

/-- End a grid as HALT.grid does: it ends CANCELLED once its phase can be closed (R98). -/
def State.haltGrid (s : State) (part handle : Nat) : State × Nat :=
  let y := s.killAll (fun g => g.part == part && g.handle == handle) fun _ _ _ t => t.part == part && t.handle == handle
  let s := (s.cores.map (·.1)).foldl (fun s c => s.dropLog part handle c) y.1
  ((s.modGrid part handle Grid.halt).retireGrid part handle, y.2)

/-- Has a team no group left on its core? -/
def State.teamEmpty (s : State) (core slot : Nat) : Bool :=
  !((s.coreGroups core).any (fun x => x.2.team == slot) || (s.core core).spilled.any fun x => x.2.team == slot)

/-- Release a frozen tenant's frozen groups and saved state; the tenant stays frozen. What a THAW from an image has made run goes on
(assumption 76). -/
def State.haltTen (s : State) (ten : Nat) : State × Nat :=
  match s.tenant? ten with
  | none => (s, 0)
  | some t =>
    if !t.frozen then (s, 0)
    else
      let y := s.killAll (fun g => g.ten == ten && g.frozen) fun s c slot t => t.ten == ten && s.teamEmpty c slot
      let free (k : Core) : Core :=
        let k := k.unwait ((k.savedOf ten).elim [] fun x => x.recs.map (·.2))
        { k with saved := k.saved.filter fun x => x.ten != ten }
      ({ y.1 with cores := y.1.cores.map fun c => (c.1, free c.2) }, y.2)

end Sys2Proof.Machine
end

