-- ==== Sys2Proof/Machine/Image.lean ====
section
/-! DEFINITION. Locket images: their layout, and the restoring of a cluster section by THAW (R273, R285, R306, R354, R370, R378,
R384 to R396). -/

namespace Sys2Proof.Machine

open Sys2Proof

/-! ### Reading the bytes of an image -/

/-- The doubleword at a byte offset. -/
def dwOff (bs : List Byte) (o : Nat) : Nat := ofLe ((bs.drop o).take 8)

/-- The grid state of a code (R99). -/
def GridState.ofCode : Nat → GridState
  | 1 => .queued
  | 2 => .running
  | 3 => .cancelling
  | 4 => .parked
  | 5 => .done
  | 6 => .cancelled
  | _ => .gone

/-- What THAW has read of an image: its header with LREC, ARGS with their tags, the directory and the Loupe part; the section that
it restores. -/
structure Image where
  head  : List Byte
  args  : List Cap
  dir   : List Byte
  loupe : List Byte
  sec   : List Byte
deriving DecidableEq, Repr

/-- NSEC. -/
def Image.nsec (i : Image) : Nat := slice (dwOff i.head 0) 31 16
/-- TEN. -/
def Image.ten (i : Image) : Nat := slice (dwOff i.head 0) 15 0
/-- The handle of the grid. -/
def Image.handle (i : Image) : Nat := slice (dwOff i.head 0x10) 31 0
/-- LREC's doublewords. -/
def Image.lrec (i : Image) : List DWord := (List.range 32).map fun k => BitVec.ofNat 64 (dwOff i.head (0x100 + 8 * k))
/-- Does the device accept the image (R385)? -/
def imageOk (head : List Byte) : Bool := slice (dwOff head 0) 63 56 == 1 && slice (dwOff head 0) 47 32 == 4
/-- Directory entry k: offset, map index, length in bytes. -/
def dirEntry (dir : List Byte) (k : Nat) : Nat × Nat × Nat :=
  let h := dwOff dir (16 * k + 8)
  (dwOff dir (16 * k), slice h 63 32, 4096 * slice h 31 0)

/-- A section's map index, width and height. -/
def Image.map (i : Image) : Nat := slice (dwOff i.sec 0) 63 32
/-- CW. -/
def Image.cw (i : Image) : Nat := slice (dwOff i.sec 0) 31 28
/-- CH. -/
def Image.ch (i : Image) : Nat := slice (dwOff i.sec 0) 27 24
/-- The core part of TIDX t, when the section has one. -/
def Image.part (i : Image) (t : Nat) : Option (List Byte) :=
  let o := dwOff i.sec (0x40 + 8 * t)
  if o = 0 then none else some (i.sec.drop o)

/-- The doublewords of the group record of a GIDX. -/
def recordOf (kp : List Byte) (gidx : Nat) : Nat → Nat :=
  let bs := kp.drop (0x1000 + 4608 * gidx)
  fun i => dwOff bs (8 * i)
/-- The state code of a record: 0 for no group. -/
def recState (w : Nat → Nat) : Nat := slice (w 0) 63 60
/-- The current allotment in words. -/
def recWords (w : Nat → Nat) : Nat := slice (w 1) 43 32
/-- The GIDX values of the groups that a core part holds. -/
def partGroups (kp : List Byte) : List Nat := (List.range 32).filter fun g => recState (recordOf kp g) != 0
/-- Those that need a slot and words: all but the spilled ones. -/
def placedGroups (kp : List Byte) : List Nat := (partGroups kp).filter fun g => recState (recordOf kp g) != 6
/-- Saved side-log entries. -/
def partLog (kp : List Byte) : Nat := dwOff kp 0x10

/-- Entry k of WAITS: its two words. -/
def waitAt (w : Nat → Nat) (k : Nat) : Nat × Nat := (w (8 + 2 * k), w (9 + 2 * k))
/-- The kinds of a record's waits. -/
def waitKinds (w : Nat → Nat) : List Nat := (List.range 8).map fun k => slice (waitAt w k).1 63 60

/-! ### The needs of a section (R378) -/

/-- A status and the amount short. -/
abbrev Short := Option (Nat × Nat)

/-- The first shortage of a list. -/
def firstShort : List Short → Short
  | [] => none
  | none :: r => firstShort r
  | some x :: _ => some x

/-- A need of n against what there is. -/
def shortIf (status need have_ : Nat) : Short := if need > have_ then some (status, need - have_) else none

/-- The channels of a core part that are saved, with their doublewords. -/
def savedChans (kp : List Byte) : List Nat := (List.range 8).filter fun n => slice (dwOff kp (0x25040 + 256 * n)) 7 0 != 0

/-- The first shortage of a target core for a core part, in the order of the statuses. A team that has retired takes no team slot. -/
def State.coreShort (s : State) (pid : Nat) (p : Part) (handle ten core : Nat) (kp : List Byte) : Short :=
  let k := s.core core
  let inQ (q : Nat) : List Nat := (placedGroups kp).filter fun g => g % 4 == q
  let qs := List.range 4
  let no (b : Bool) (status : Nat) : Short := if b then some (status, 0) else none
  firstShort (
    [no (!p.cores.contains core || !k.inService || k.halted) 2,
     no (k.teams.any fun t => t.2.part == pid && t.2.handle == handle) 2,
     no ((savedChans kp).any fun n => (k.chan n).busy) 2,
     if (partGroups kp).isEmpty then none else shortIf 3 (k.teams.length + 1) 16]
    ++ qs.map (fun q => shortIf 3 (inQ q).length (s.freeSlots core q).length)
    ++ qs.map (fun q => shortIf 4 ((inQ q).foldl (fun n g => n + recWords (recordOf kp g)) 0) (s.freeWords core q))
    ++ (partGroups kp).map (fun g =>
      shortIf 5 ((waitKinds (recordOf kp g)).filter fun c => 2 ≤ c && c ≤ 4).length 4)
    ++ [no (k.teams.any fun t => t.2.ten != ten) 6, shortIf 7 (k.log.length + partLog kp) Config.sideLogEntries])

/-- The first short core of a section, by TIDX, with its status and amount. A rectangle that leaves the mesh has a core outside the
partition. -/
def State.sectionShort (s : State) (pid : Nat) (p : Part) (i : Image) (x0 y0 : Nat) : Option (Nat × Nat × Nat) :=
  let one (t : Nat) : Option (Nat × Nat × Nat) :=
    let x := x0 + t % i.cw
    let y := y0 + t / i.cw
    if x ≥ 16 ∨ y ≥ 16 then some (t, 2, 0)
    else (s.coreShort pid p i.handle i.ten (16 * y + x) ((i.part t).getD [])).map fun y => (t, y.1, y.2)
  firstSome one (List.range (i.cw * i.ch))

/-! ### Threads and groups -/

/-- A thread's resident words and hidden bits from its group's register-stack block (R390). -/
def Thread.ofBlock (lpass : Bool) (words lane : Nat) (bs : List Byte) (t : Thread) : Thread :=
  let word (i : Nat) : Word := BitVec.ofNat 32 (ofLe ((bs.drop (4 * words * lane + 4 * i)).take 4))
  let hid (i : Nat) : Hidden :=
    let b := ((bs.drop (256 * words + words * lane + i)).headD 0).toNat
    ⟨BitVec.ofNat 2 b, bit b 2, bit b 3⟩
  { t with left := none, stack := (List.range words).map fun i => (t.rb + i, word i),
           hid := if lpass then ((List.range words).filter fun i => (t.rb + i) % 2 == 0).map fun i => (t.rb + i, hid i) else [] }

/-- The held LFILL of 32 bytes (R392); the doubleword of its tag also carries what its record names (R381, assumption 96). -/
def fillOf (bs : List Byte) : HeldFill :=
  let w := dwOff bs 16
  ⟨capOfWords (BitVec.ofNat 64 (dwOff bs 0)) (BitVec.ofNat 64 (dwOff bs 8)) (bit w 0), BitVec.ofNat 32 (dwOff bs 24),
    BitVec.ofNat 64 (8 * slice w 56 3), BitVec.ofNat 2 (slice w 2 1), false⟩

/-- The thread blocks of a Loupe part: ENTRY, MODE, ELEM and held LFILLs. -/
def loupeBlocks (l : List Byte) : List (Nat × Bool × Nat × List HeldFill) :=
  (List.range ((l.length - 65568) / 160)).map fun b =>
    let bs := l.drop (65568 + 160 * b)
    let h := dwOff bs 0
    (slice h 11 0, bit h 12, slice h 63 32, (List.range (min 4 (slice h 15 13))).map fun k => fillOf (bs.drop (32 + 32 * k)))

/-- A restored thread's tile or element and its held LFILLs. -/
def Thread.withItem (tiles : List Tile) (blocks : List (Nat × Bool × Nat × List HeldFill)) (t : Thread) : Thread :=
  if !t.lv then t
  else
    let rect := ((tiles.find? fun x => x.id == t.entry).map (·.rect)).getD ⟨0, 0, 0, 0⟩
    { t with rect := if t.point then rect.elem t.elem else rect,
             fills := ((blocks.find? fun b => b.1 == t.entry && b.2.1 == t.point && b.2.2.1 == t.elem).map (·.2.2.2)).getD [] }

/-- The state that a record restores. A group that waited at a clause header meets the header again; one that waited for a
tile-queue entry waits for it again. -/
def restoredState (lpass : Bool) (items : Bool) (w : Nat → Nat) : GState :=
  let mask := firstSome (fun k => if slice (waitAt w k).1 63 60 = 1 then some (BitVec.ofNat 12 (waitAt w k).2) else none) (List.range 8)
  match recState w with
  | 4 => .ready
  | c => GState.ofCode mask (lpass && !items) c

/-- A group as its record and block hold it, over its place (R388 to R390). -/
def Group.ofRecord (g : Group) (w : Nat → Nat) (block : List Byte) : Group :=
  let rec_ := Record.ofDwords fun k => w (32 + k)
  let g := (List.range 576).foldl (fun g i => g.setRecordWord true true i (w i))
    { g with pro := slice (w 1) 11 0, full := slice (w 1) 23 12, acqf := bit (w 0) 8, allot := recWords (fun k => w k) / g.regWords,
             crec := none }
  let g := g.modThreads allLanes fun l t => t.ofBlock g.lpass (recWords w) l block
  { g with crec := if rec_.cause = 0 then none else some rec_, st := restoredState g.lpass (g.threads.any (·.lv)) w }

/-! ### Outstanding waits (R285) -/

/-- Add an operation that a flag already counts; its number. -/
def State.rePend (s : State) (r : GRef) (p : Pend) : State × Nat :=
  match s.group? r with
  | none => (s, 0)
  | some g => (s.setGroup r { g with pend := g.pend ++ [{ p with id := g.nextId }], nextId := g.nextId + 1 }, g.nextId)

/-- A restored operation. -/
def thawedPend (flag : Nat) (kind : PendKind) (dests : List Reg) : Pend := Pend.new flag 0 0 0 kind dests []

/-- Put one saved wait back: it tests the restored object again. -/
def State.thawWait (s : State) (r : GRef) (t : Team) (x : Nat × Nat) : State :=
  match s.group? r with
  | none => s
  | some g =>
    let flag := slice x.1 59 56
    let preds (n : Nat) : List Reg := g.liveLanes.map fun l => Reg.pred l n
    let n := slice x.2 53 48
    let core := 16 * (t.y0 + slice x.2 29 26) + t.x0 + slice x.2 25 22
    let off := 16 * slice x.2 21 4
    let q := bit x.2 0
    let send (s : State) (op : BarOp) : State := s.modCore core fun k => { k with barq := k.barq ++ [op] }
    match slice x.1 63 60 with
    | 2 =>
      if bit x.2 62 then
        let y := s.rePend r (thawedPend flag (.bsent core off q) (preds n))
        send y.1 (.wait off q r y.2)
      else
        let y := s.rePend r (thawedPend flag (.bwait none false 0) (preds n))
        (y.1.modGroup r fun g => { g with bgen := some 0 }).modTeam r.core g.team fun t => { t with arrived := sins t.arrived g.gidx }
    | 3 =>
      let st := bit x.2 1
      let y := s.rePend r (thawedPend flag (.btry core off q st) (if st then [.scalar n] else preds n))
      send y.1 (.test off q st r y.2)
    | 4 => (s.rePend r (thawedPend flag (.tokwt (slice x.2 43 32) (BitVec.ofNat 32 x.2)) (preds n))).1
    | 5 => (s.rePend r (thawedPend flag
        (.cpwt (16 * (t.y0 + slice x.2 51 48) + t.x0 + slice x.2 47 44) (slice x.2 43 40) (BitVec.ofNat 64 (slice x.2 39 0)))
        (preds (slice x.2 55 52)))).1
    | 6 => (s.rePend r { thawedPend flag (.phase (BitVec.ofNat 4 (slice x.1 55 52))) [] with since := s.ticket + 1 }).1
    | _ => s

/-- Reissue the access that FREEZE cancelled: its threads go back to it, and its count is taken off its flag, which the reissue
raises again. The flag is the one that the instruction selects: SETB when its FS is set. The threads of a cancelled fetch stand at it
already. -/
def State.thawHeld (s : State) (r : GRef) (pc mask : Nat) : State :=
  if pc = 0 then s
  else match s.group? r with
    | none => s
    | some g =>
      let ls := lanesOf (BitVec.ofNat 64 mask)
      if ls.any fun l => (g.thread l).pc == BitVec.ofNat 64 pc then s
      else
      let fs := match s.fetchWords (s.origin r g) (BitVec.ofNat 64 pc) 2 with
        | (_, .bytes bs) => dwOff bs 0 % 2 == 1 && bit (dwOff bs 0) 50
        | _ => false
      let flag := selectFlag (g.thread (ls.headD 0)) fs
      let back (t : Thread) : Thread := { t with pc := BitVec.ofNat 64 pc, cpos := t.cpos - 1 }
      s.setGroup r { g.modThreads ls (fun _ t => back t) with flags := lput 0 g.flags flag (g.flag flag - 1) }

/-! ### Teams -/

/-- The lowest slot of a quarter that neither a group nor a spilled group has. -/
def State.spareSlot (s : State) (core qtr : Nat) : Nat :=
  ((List.range 63).find? fun k => (s.group? ⟨core, qtr, k⟩).isNone && (mget (s.core core).spilled (64 * qtr + k)).isNone).getD 0

/-- A restored group's last boundary is the one that the model has noted of it, else the THAW (R302). -/
def State.reopen (s : State) (gid : Gid) : State := if s.opens.any fun x => x.1 == gid then s else s.openGroup gid

/-- Put one restored group into its place: a slot, or, when it was spilled, the core's spilled groups. -/
def State.putRestored (s : State) (core : Nat) (g : Group) (w : Nat → Nat) : State :=
  let q := g.gidx % 4
  if recState w = 6 then
    (s.modCore core fun k => { k with spilled := mset k.spilled (64 * q + s.spareSlot core q) g }).reopen (s.gidOf ⟨core, q, 0⟩ g)
  else match s.freeSlots core q with
    | [] => s
    | k :: _ => (s.setGroup ⟨core, q, k⟩ g).reopen (s.gidOf ⟨core, q, k⟩ g)

/-- The core with parts 0, 1, 2 and 7 of a core part written whole (R396). -/
def Core.putParts (k : Core) (kp : List Byte) : Core :=
  let bytes (o n : Nat) : List Byte := (kp.drop o).take n
  let cells := ((bytes 0x40000 Config.spadBytes).zip (List.range Config.spadBytes)).filterMap fun b =>
    if b.1 == unlisted then none else some (b.2, b.1)
  let acc := (List.range (Config.accDim * Config.accDim)).filterMap fun i =>
    let v := ofLe (bytes (0x440000 + 4 * i) 4)
    if v = 0 then none else some (i, BitVec.ofNat 32 v)
  let side := (List.range Config.accDim).map fun r =>
    let v := dwOff kp (0x2e000 + 8 * r)
    (r, BitVec.ofNat 32 v, BitVec.ofNat 32 (v / 2 ^ 32))
  let bitsOf_ (o : Nat) : List Nat := (List.range 262144).filter fun g => ((kp.drop (o + g / 8)).headD 0).getLsbD (g % 8)
  { k with spad := cells, acc := acc, side := side, stags := bitsOf_ 0x30000, armed := bitsOf_ 0x38000 }

/-- Restore one team on its core: parts 0, 1, 2 and 7 whole, the team, its groups (R396). Of a team that has retired only its core's
parts are left. -/
def State.putCorePart (s : State) (pid : Nat) (x : Grid) (blocks : List (Nat × Bool × Nat × List HeldFill)) (c : Cluster) (t core : Nat)
    (kp : List Byte) : State :=
  let k := ((s.core core).clearTenant x.ten).putParts kp
  let s := (s.setCore core k).forgetSpad core
  if (partGroups kp).isEmpty then s
  else
  let before := k.teams.map (·.1)
  let slot := k.freeTeam
  let team : Team := { x.team pid c t with spzcfg := BitVec.ofNat 64 (dwOff kp 0x18),
                                           gone := (List.range x.groups.length).filter fun g => !(partGroups kp).contains g }
  let strict := ((s.tenant? x.ten).map (·.strict)).getD false
  let age := k.nextAge
  let s := s.setCore core (({ k with teams := mset k.teams slot team, nextAge := age + 32 }).reslice before)
  (partGroups kp).foldl (fun s gi =>
    let w := recordOf kp gi
    let g := x.group pid slot gi (age + gi) s.cycle strict (x.groups.getD gi (⟨0, 0, 0, 0, 0⟩, 0))
    let g := g.ofRecord w (kp.drop (w 5))
    let g := { g with threads := g.threads.map (Thread.withItem x.loupe.tiles blocks),
                      fopd := s.ticket, fopdFar := s.ticket, covered := s.ticket }
    s.putRestored core g w) s

/-- A group of a team, by its GIDX. -/
def State.memberRef (s : State) (core slot gidx : Nat) : Option GRef :=
  ((s.coreGroups core).find? fun g => g.2.team == slot && g.2.gidx == gidx).map (·.1)

/-! ### Engines -/

/-- The group that a saved operation names (`State.ownerWord`). -/
def State.ownerRef (s : State) (pid handle w : Nat) : Option GRef :=
  if !bit w 63 then none
  else firstSome (fun (c : Nat × Core) => firstSome (fun (t : Nat × Team) =>
    if t.2.part = pid ∧ t.2.handle = handle ∧ t.2.map = slice w 31 0 ∧ t.2.tidx = slice w 51 48 then s.memberRef c.1 t.1 (slice w 62 58)
    else none) c.2.teams) s.cores

/-- The flag and the register of a saved operation. -/
def ownerPend (w : Nat) (kind : PendKind) : Pend :=
  let d := slice w 47 40
  { thawedPend (slice w 57 54) kind (if d = 0 then [] else [.scalar (d - 1)]) with len := BitVec.ofNat 2 (slice w 53 52) }

/-- A saved operation's group and its restored operation; without a group it names none. -/
def State.ownerBack (s : State) (pid handle core w : Nat) (kind : PendKind) (pc : DWord) : State × GRef × Nat :=
  match s.ownerRef pid handle w with
  | none => (s, ⟨core, 0, noSlot⟩, 0)
  | some r =>
    let y := s.rePend r { ownerPend w kind with pc := pc }
    (y.1, r, y.2)

/-- The team slot of a group. -/
def State.teamOf (s : State) (r : GRef) : Nat := ((s.group? r).map (·.team)).getD 16

/-- Restore channel n of a core (R394, R403): a held channel makes its access again. -/
def State.thawChan (s : State) (pid : Nat) (x : Grid) (c : Cluster) (core n : Nat) (kp : List Byte) : State :=
  let w (i : Nat) : Nat := dwOff kp (0x25000 + 256 * n + 8 * i)
  let ch := (List.range 32).foldl (fun ch i => ch.setWord i (w i)) Channel.reset
  let busy := ch.busy
  let y := if busy then s.ownerBack pid x.handle core (w 22) (.copy n) ch.pc else (s, ⟨core, 0, noSlot⟩, 0)
  let at_ (t : Nat) : Nat := 16 * (c.y0 + t / x.cw) + c.x0 + t % x.cw
  (y.1.modChan core n fun _ =>
    { ch with st := if busy then .run else ch.st, why := none, told := none, ref := y.2.1, ten := x.ten, team := y.1.teamOf y.2.1,
              pend := y.2.2, len := BitVec.ofNat 2 (slice (w 22) 53 52), recv := ch.recv.map fun r => (r.1, at_ r.1) }).pokeCopy core n

/-- The operation of a matrix save, its core among those that have still to complete it. The slot words are read again from the grid's
record, and a drain into registers goes on into the words that it named at its issue (R269). -/
def State.thawMat (s : State) (pid : Nat) (x : Grid) (core e : Nat) (kp : List Byte) : State :=
  let w (i : Nat) : Nat := dwOff kp (0x25800 + 256 * e + 8 * i)
  let blank : MatOp :=
    { fn := 0, ref := ⟨core, 0, noSlot⟩, ten := x.ten, pend := 0, pc := 0, len := 0, block := List.replicate 128 0, tags := [], slots := [],
      fopd := s.ticket, fopdFar := s.ticket, qi := 0, qj := 0, coreA := core, coreB := core,
      wbs := List.replicate 64 0 ++ [if x.lpass then 2 else 1], run := false, unit := 0, step := 0, why := none }
  let m := (List.range 32).foldl (fun m i => m.setWord i (w i)) blank
  if m.fn = 0 then s
  else match s.ownerRef pid x.handle (w 16) with
    | none => s
    | some r =>
      let g : Group := (s.group? r).getD Group.start
      let m := { m with ref := r, why := none, len := BitVec.ofNat 2 (slice (w 16) 53 52), coreA := core - m.qj, coreB := core - 16 * m.qi,
                        slots := if m.fn = 5 then [] else [m.sla, m.slb, m.slc].map fun n => BitVec.ofNat 64 (s.slot g n).1 }
      let num := slice (w 18) 63 32 + 1
      let mine (p : Pend) : Bool := match p.kind with
        | .matrix _ => p.pc == m.pc && p.since == num
        | _ => false
      let y := match g.pend.find? mine with
        | some p => (s.modPend r p.id fun p => match p.kind with
            | .matrix cs => { p with kind := .matrix (cs ++ [core]) }
            | _ => p, p.id)
        | none => s.rePend r (m.resume s.ticket g (m.pendOf (s.engineOrigin r x.ten g.team) g.lpass [core]
            { ownerPend (w 16) (.matrix []) with pc := m.pc, since := num }))
      y.1.modCore core fun k => { k with mat := k.mat ++ [{ m with pend := y.2 }] }

/-- Restore session n of a core (R354): a held session goes on from its cursors. -/
def State.thawSess (s : State) (pid : Nat) (x : Grid) (core n : Nat) (kp : List Byte) : State :=
  let w (i : Nat) : Nat := dwOff kp (0x26000 + 8192 * n + 8 * i)
  let v := Session.ofWords w
  if v.st == .closed then s
  else
    let y := if v.busy then s.ownerBack pid x.handle core (w 1) (.srun n) v.pc
             else (s, (s.ownerRef pid x.handle (w 1)).getD ⟨core, 0, noSlot⟩, 0)
    y.1.modSess core n fun _ =>
      { v with st := if v.busy then .run else v.st, why := none, ref := y.2.1, ten := x.ten, pend := y.2.2 }

/-- Restore the side-log entries of a core part. An entry names its group's old slot, which the new placement does not tell: which
group of the quarter it is, is a free choice (assumption 14). -/
def State.thawLog (s : State) (pid : Nat) (x : Grid) (core slot : Nat) (kp : List Byte) : State :=
  let one (s : State) (i : Nat) : State :=
    let e := LogEntry.empty.ofWords fun k => dwOff kp (0x2a000 + 32 * i + 8 * k)
    let gs := (s.coreGroups core).filter fun g => g.1.qtr == e.ref.qtr && g.2.team == slot
    let pick := Config.choice s.ticket (2 * i)
    let ref := ((gs[pick % gs.length]?).map (·.1)).getD ⟨core, e.ref.qtr, noSlot⟩
    s.logIn core [{ e with ref := ref, part := pid, handle := x.handle, ten := x.ten, uns := Config.choice s.ticket (2 * i + 1) % 2 == 1,
                           pc := Config.undefDWord s.ticket 65 i, mask := Config.undefDWord s.ticket 66 i, serial := s.ticket }]
  (List.range (partLog kp)).foldl one s

/-- A count of a flag that no restored operation stands for is one of an operation that the image has no place for: it is complete
(assumption 29). -/
def State.thawRest (s : State) (r : GRef) : State :=
  match s.group? r with
  | none => s
  | some g => (List.range 12).foldl (fun s f =>
      let n := (g.pend.filter fun p => p.flag == f).length
      (List.range (g.flag f - n)).foldl (fun s _ => (s.rePend r (thawedPend f .ready [])).1) s) s

/-- A restored group takes up its state: its record is raised again, its cancelled access is reissued (R370, R378). -/
def State.thawGroup (s : State) (r : GRef) (w : Nat → Nat) : State :=
  match s.group? r with
  | none => s
  | some g =>
    let s := s.thawHeld r (w 6) (w 7)
    let s := match g.crec with
      | none => s
      | some x =>
        let s := s.modGroup r fun g => { g with crec := none, st := if waitedCause x.cause && !trapCause x.cause then .fetchHeld .record else g.st }
        s.report r.core r.qtr { x with who := whoOf g.ten r }
    ((s.thawRest r).wake r).retireIfDrained r

/-! ### A section (R396) -/

/-- The grid that an image creates when the partition's launch state has none with its handle: RUNNING, from LREC and ARGS. The
sections' clusters are parked until they are restored; where the map lies that the others are read from, the image does not say: a
free value (assumption 16). -/
def Image.grid (i : Image) (ticket order : Nat) : Grid :=
  let q := dwOff i.head 0x28
  let lrec := i.lrec
  let w (k : Nat) : Nat := (lrec.getD k 0).toNat
  let idxs := (List.range i.nsec).map fun k => (dirEntry i.dir k).2.1
  let n := slice (w 2) 47 32 * slice (w 2) 63 48
  let l := i.loupe
  let lq := dwOff l 24
  let blocks := loupeBlocks l
  let tiles := (List.range Config.tileEntries).filterMap fun k =>
    let a := dwOff l (32 + 16 * k)
    let b := dwOff l (40 + 16 * k)
    let id := (dwOff l 0 + k) % Config.tileEntries
    if slice b 63 62 = 0 then none
    else some (⟨id, ⟨slice a 15 0, slice a 31 16, slice a 47 32, slice a 63 48⟩, slice b 59 56, bit b 61,
                slice b 63 62 == 2 && !bit b 61, slice b 31 0, (blocks.filter fun x => x.1 == id && x.2.1).length⟩ : Tile)
  { handle := i.handle, st := .running, ten := i.ten, prio := slice (w 0) 37 35, lrec := lrec, args := i.args,
    base := Config.undefDWord ticket 67 i.handle, order := order, started := order,
    clusters := (List.range n).map fun c =>
      let e := mapEntry (Config.undefWord ticket 68 c).toNat
      if idxs.contains c then ⟨c, slice q 47 40, 0, 0, 0, .parked, 0⟩
      else if c < slice q 63 48 then ⟨c, slice q 47 40, 0, 0, 0, .retired, 0⟩
      else ⟨c, e.wave, e.dev, e.x0, e.y0, .waiting, 0⟩,
    retired := slice q 31 0, stop := false, before := GridState.ofCode (slice (dwOff i.head 0x10) 35 32),
    loupe := if l.isEmpty then ⟨[], 0, 0, 0, 0, 0⟩
             else ⟨tiles, tiles.length, dwOff l 16, slice lq 63 48, slice lq 47 32, slice lq 31 16⟩,
    by_ := none }

/-- Restore a section whose needs are met onto the rectangle at (x0, y0). -/
def State.restore (s : State) (pid : Nat) (i : Image) (x0 y0 : Nat) : State :=
  match s.part? pid with
  | none => s
  | some p =>
    let s := if (p.grid? i.handle).isSome then s
      else s.modPart pid fun p => { p with grids := p.grids ++ [i.grid s.ticket p.order], order := p.order + 1 }
    match (s.part? pid).bind fun p => p.grid? i.handle with
    | none => s
    | some x =>
      let blocks := loupeBlocks i.loupe
      let old := (x.clusters.find? fun c => c.idx == i.map).getD ⟨i.map, 0, p.didx, x0, y0, .parked, 0⟩
      let all := (List.range (i.cw * i.ch)).filterMap fun t => (i.part t).map fun kp => (t, 16 * (y0 + t / i.cw) + x0 + t % i.cw, kp)
      let parts := all.filter fun e => !(partGroups e.2.2).isEmpty
      let c : Cluster := { old with dev := p.didx, x0 := x0, y0 := y0, st := .admitted, left := parts.length }
      let s := s.modGrid pid i.handle fun y => y.putCluster c
      let s := all.foldl (fun s e => s.putCorePart pid x blocks c e.1 e.2.1 e.2.2) s
      let slotOf (s : State) (core : Nat) : Nat :=
        (((s.core core).teams.find? fun t => t.2.part == pid && t.2.handle == i.handle).map (·.1)).getD 0
      let s := parts.foldl (fun s e =>
        let slot := slotOf s e.2.1
        (placedGroups e.2.2).foldl (fun s gi => match s.memberRef e.2.1 slot gi with
          | some r => (List.range 8).foldl (fun s k => s.thawWait r (x.team pid c e.1) (waitAt (recordOf e.2.2 gi) k)) s
          | none => s) s) s
      let s := parts.foldl (fun s e =>
        let s := (savedChans e.2.2).foldl (fun s n => s.thawChan pid x c e.2.1 n e.2.2) s
        let s := (List.range 8).foldl (fun s k => s.thawMat pid x e.2.1 k e.2.2) s
        let s := (List.range 2).foldl (fun s n => s.thawSess pid x e.2.1 n e.2.2) s
        s.thawLog pid x e.2.1 (slotOf s e.2.1) e.2.2) s
      let s := parts.foldl (fun s e =>
        let slot := slotOf s e.2.1
        let s := (placedGroups e.2.2).foldl (fun s gi => match s.memberRef e.2.1 slot gi with
          | some r => s.thawGroup r (recordOf e.2.2 gi)
          | none => s) s
        let s := (s.modCore e.2.1 fun k => { k with saving := 0 }).teamTest e.2.1 slot
        (List.range 4).foldl (fun s q => s.serveAcq e.2.1 q) s) s
      s.pokeTokens pid

/-! ### Reading an image -/

/-- Doublewords of tagged granules as capabilities. -/
def State.imageCaps (s : State) (o : Origin) (a : Nat) : Nat → State × Except EGot (List Cap)
  | 0 => (s, .ok [])
  | n + 1 => match s.path o .load a 16 with
    | none => (s, .error (.path a))
    | some t => match s.readTarget o .load a t 16 with
      | (s, .fault c) => (s, .error (.fault c a))
      | (s, .wait w) => (s, .error (.wait w))
      | (s, .bytes bs tag) => match s.imageCaps o (a + 16) n with
        | (s, .ok cs) => (s, .ok (⟨BitVec.ofNat 128 (ofLe bs), tag⟩ :: cs))
        | x => x

/-- What reading an image gives: the image with the section to restore; a refusal of the header; no section left; a miss. -/
inductive Thawing where
  | image (i : Image)
  | bad
  | none
  | miss (e : EGot)

/-- Does a cluster of a grid stand on this device? -/
def State.stands (s : State) (pid handle map : Nat) : Bool :=
  s.cores.any fun c => c.2.teams.any fun t => t.2.part == pid && t.2.handle == handle && t.2.map == map

/-- Read a part of an image, and go on. -/
def State.imageRead (s : State) (o : Origin) (a n : Nat) (k : State → List Byte → State × Thawing) : State × Thawing :=
  match s.engineRead o a n with
  | (s, .bytes bs) => k s bs
  | (s, e) => (s, .miss e)

/-- The end of the Loupe part: the next part that begins behind it. -/
def loupeEnd (head dir : List Byte) (nsec : Nat) : Nat :=
  let l := dwOff head 0x18
  (([slice (dwOff head 0x20) 47 0, dwOff head 8] ++ (List.range nsec).map fun k => (dirEntry dir k).1).filter fun o => o > l).foldl min
    (l + 65568 + 160 * 49152)

/-- Read an image: its header, its directory, its arguments, its Loupe part, and the first section whose cluster does not stand on
this device (assumption 17), or the one of a map index. -/
def State.readImage (s : State) (o : Origin) (pid : Nat) (base : Nat) (want : Option Nat) : State × Thawing :=
  s.imageRead o base 0x300 fun s head =>
    if !imageOk head then (s, .bad)
    else
      let nsec := slice (dwOff head 0) 31 16
      let handle := slice (dwOff head 0x10) 31 0
      s.imageRead o (base + 0x300) (16 * nsec) fun s dir =>
        let fits (k : Nat) : Bool := match want with
          | some m => (dirEntry dir k).2.1 == m
          | none => !s.stands pid handle (dirEntry dir k).2.1
        match (List.range nsec).find? fits with
        | none => (s, .none)
        | some k =>
          match s.imageCaps o (base + 0x200) 16 with
          | (s, .error e) => (s, .miss e)
          | (s, .ok caps) =>
            let lq := dwOff head 0x18
            s.imageRead o (base + lq) (if lq = 0 then 0 else loupeEnd head dir nsec - lq) fun s loupe =>
              s.imageRead o (base + (dirEntry dir k).1) (dirEntry dir k).2.2 fun s sec =>
                (s, .image { head := head, args := caps.take (slice (dwOff head 0x100) 48 44), dir := dir, loupe := loupe, sec := sec })

/-- THAW of a section that has been read: its status, or the section restored (R378). -/
def State.thawSection (s : State) (pid : Nat) (i : Image) (x0 y0 : Nat) : State × DWord :=
  match s.part? pid with
  | none => (s, thawWord 2 0 0)
  | some p => match s.sectionShort pid p i x0 y0 with
    | some (t, status, n) => (s, thawWord status t n)
    | none => (s.restore pid i x0 y0, thawWord 0 0 0)

end Sys2Proof.Machine
end

