-- ==== Sys2Proof/Machine/Park.lean ====
section
/-! DEFINITION. Withdrawing cores: a running cluster on them is saved into its grid's LOCK area as a Locket image, and is resumed from
there (R103, R107, R384 to R392). Where the sections lie in the image is the model's (assumption 18). -/

namespace Sys2Proof.Machine

open Sys2Proof

/-! ### The words of an image -/

/-- A part of an image as it is written: offsets with doublewords. -/
abbrev Dws := List (Nat × Nat)

/-- Doublewords one after another from an offset. -/
def dwsFrom (o n : Nat) (f : Nat → Nat) : Dws := (List.range n).map fun i => (o + 8 * i, f i)

/-- A group's register-stack block (R390). -/
def State.blockDws (s : State) (r : GRef) (g : Group) : Dws :=
  let a := g.words
  let base := s.stackOff r g
  let word (i : Nat) : Nat := (g.stored s.ticket (i / a) ((g.thread (i / a)).rb + i % a)).toNat
  let hid (i : Nat) : Nat :=
    let t := g.thread (i / a)
    let w := t.rb + i % a
    let h := t.hidden w
    if w % 2 = 0 then h.kind.toNat + 4 * b2n h.np + 8 * b2n h.wide else 0
  dwsFrom base (32 * a) (fun i => word (2 * i) + word (2 * i + 1) * 2 ^ 32)
    ++ (if g.lpass then dwsFrom (base + 256 * a) (8 * a) fun i => packBytes ((List.range 8).map fun k => hid (8 * i + k)) else [])

/-- The resident groups of a team. -/
def State.teamResidents (s : State) (core slot : Nat) : List (GRef × Group) := (s.coreGroups core).filter fun x => x.2.team == slot

/-- The groups of a team: the resident and the spilled ones. -/
def State.teamMembers (s : State) (core slot : Nat) : List (GRef × Group) :=
  s.teamResidents core slot
    ++ (((s.core core).spilled.filter fun x => x.2.team == slot).map fun x => (⟨core, x.1 / 64, x.1 % 64⟩, x.2))

/-- The engine state of a team's groups on a core (R394). -/
def Core.teamSave (k : Core) (ten : Nat) (mine : GRef → Bool) : Saved :=
  { ten := ten, chans := placesOf k.chans fun c => c.st != .idle && mine c.ref, mats := k.mat.filter fun m => mine m.ref,
    sess := placesOf k.sess fun c => c.st != .closed && mine c.ref, log := k.log.filter fun e => mine e.ref, recs := [] }

/-- The core without it. -/
def Core.teamDrop (k : Core) (mine : GRef → Bool) : Core :=
  { k with chans := k.chans.map (fun c => if c.st != .idle && mine c.ref then Channel.reset else c), mat := k.mat.filter (fun m => !mine m.ref),
           sess := k.sess.map (fun c => if c.st != .closed && mine c.ref then Session.reset else c), log := k.log.filter fun e => !mine e.ref }

/-- One core part (R387). -/
def State.partDws (s : State) (core slot : Nat) (tm : Team) (size : Nat) (x : Saved) : Dws :=
  let k := s.core core
  let gs := s.teamMembers core slot
  let saved (part o n : Nat) : Dws := dwsFrom o n (s.savedWord x part)
  let plain (part o n : Nat) : Dws := dwsFrom o n (k.plainWord part)
  [(0, gs.length * 2 ^ 56 + tm.tidx % 16 * 2 ^ 52), (8, size), (16, x.log.length), (24, tm.spzcfg.toNat)]
    ++ dwsFrom 32 508 (fun _ => 0) ++ dwsFrom 0x1000 18432 (fun i => match gs.find? fun g => g.2.gidx == i / 576 with
      | some g => s.recordWord g.1 g.2 (i % 576)
      | none => 0)
    ++ saved 3 0x25000 256 ++ saved 4 0x25800 256 ++ saved 5 0x26000 2048 ++ saved 6 0x2a000 2048 ++ plain 2 0x2e000 1024
    ++ plain 7 0x30000 8192 ++ plain 0 0x40000 524288 ++ plain 1 0x440000 524288
    ++ ((gs.filter fun g => g.2.st != .spilled).map fun g => s.blockDws g.1 g.2).flatten

/-- The core part of a team that has retired: what its core still holds for the tenant (R47, R386, assumption 101). -/
def State.retiredDws (s : State) (core ten tidx size : Nat) : Dws :=
  let k := s.core core
  let plain (part o n : Nat) : Dws := dwsFrom o n fun i => if k.lastTen == some ten then k.plainWord part i else 0
  [(0, tidx % 16 * 2 ^ 52), (8, size)] ++ plain 2 0x2e000 1024 ++ plain 7 0x30000 8192 ++ plain 0 0x40000 524288
    ++ plain 1 0x440000 524288

/-- The largest number of a grid's clusters that share a wave. -/
def Grid.waveMost (x : Grid) : Nat :=
  (List.range 256).foldl (fun n k => max n (x.clusters.filter fun c => c.wave == k).length) 0

/-- The teams of a cluster: core, team slot, team. -/
def State.clusterTeams (s : State) (pid handle map : Nat) : List (Nat × Nat × Team) :=
  (s.cores.map fun c => (c.2.teams.filter fun t => t.2.part == pid && t.2.handle == handle && t.2.map == map).map fun t => (c.1, t.1, t.2)).flatten

/-- Bytes of one core part of a grid's images. -/
def Grid.partBytes (x : Grid) : Nat := corePartBytes x.lpass x.groups
/-- The place of a cluster's section among those of its image. -/
def Grid.sectionSlot (x : Grid) (c : Cluster) : Nat := (x.clusters.filter fun d => d.wave == c.wave && d.idx < c.idx).length
/-- Bytes of its image before the sections. -/
def Grid.headBytes (x : Grid) : Nat := imageHead x.lpass x.waveMost (64 * x.groups.length * (x.cw * x.ch) * x.waveMost)
/-- Bytes of one section. -/
def Grid.secBytes (x : Grid) : Nat := sectionBytes x.lpass x.groups (x.cw * x.ch)
/-- The offset of a cluster's section. -/
def Grid.sectionOff (x : Grid) (c : Cluster) : Nat := x.headBytes + x.sectionSlot c * x.secBytes
/-- Bytes of an image that holds the sections of some clusters. -/
def Grid.imageBytes (x : Grid) (cs : List Cluster) : Nat := cs.foldl (fun n c => max n (x.sectionOff c + x.secBytes)) x.headBytes

/-- A cluster section, with one core part for each team (R386). -/
def State.sectionDws (s : State) (pid : Nat) (x : Grid) (c : Cluster) : Dws :=
  let ts := s.clusterTeams pid x.handle c.idx
  let off (t : Nat) : Nat := 65536 + t * x.partBytes
  [(0, c.idx % 2 ^ 32 * 2 ^ 32 + x.cw * 2 ^ 28 + x.ch * 2 ^ 24 + c.dev % 256 * 2 ^ 16 + c.y0 * 16 + c.x0),
   (8, x.secBytes)]
    ++ dwsFrom 0x40 (x.cw * x.ch) off
    ++ (((List.range (x.cw * x.ch)).filter fun t => !(ts.any fun y => y.2.2.tidx == t)).map fun t =>
      (s.retiredDws (16 * (c.y0 + t / x.cw) + c.x0 + t % x.cw) x.ten t x.partBytes).map fun d => (off t + d.1, d.2)).flatten
    ++ (ts.map fun y =>
      let mine (r : GRef) : Bool := (s.teamMembers y.1 y.2.1).any fun g => g.1 == r
      (s.partDws y.1 y.2.1 y.2.2 x.partBytes ((s.core y.1).teamSave x.ten mine)).map fun d => (off y.2.2.tidx + d.1, d.2)).flatten

/-- A thread's block in the Loupe part (R392). -/
def Thread.blockDws (t : Thread) (o : Nat) : Dws :=
  let fills := t.fills.take 4
  [(o, t.entry % 4096 + b2n t.point * 2 ^ 12 + fills.length * 2 ^ 13 + t.elem % 2 ^ 32 * 2 ^ 32), (o + 8, 0), (o + 16, 0), (o + 24, 0)]
    ++ dwsFrom (o + 32) 16 fun i => match fills[i / 4]? with
      | none => 0
      | some f => if i % 4 < 2 then f.cap.half (i % 4 == 1) else if i % 4 = 2 then b2n f.cap.tag + f.len.toNat * 2 + slice f.pc.toNat 56 3 * 8 else f.val.toNat

/-- The queue's numbers become its places, from the head on. -/
def State.renumber (s : State) (pid handle : Nat) : State :=
  match (s.part? pid).bind fun p => p.grid? handle with
  | none => s
  | some x =>
    let ids := x.loupe.tiles.map (·.id)
    let new (n : Nat) : Nat := (ids.findIdx? fun i => i == n).getD n
    let fix (g : Group) : Group :=
      if g.part = pid ∧ g.handle = handle then { g with threads := g.threads.map fun t => if t.lv then { t with entry := new t.entry } else t }
      else g
    let s := s.modGrid pid handle fun y =>
      { y with loupe := { y.loupe with tiles := y.loupe.tiles.map fun t => { t with id := new t.id } } }
    { s with groups := s.groups.map fun g => (g.1, fix g.2),
             cores := s.cores.map fun c => (c.1, { c.2 with spilled := c.2.spilled.map fun g => (g.1, fix g.2) }) }

/-- The Loupe part (R392). -/
def State.loupeDws (s : State) (pid : Nat) (x : Grid) (o : Nat) : Dws :=
  let l := x.loupe
  let entry (i : Nat) : Nat × Nat := match l.tiles[i]? with
    | none => (0, 0)
    | some t =>
      let partly := if t.point then 0 < t.next && t.next < t.rect.count || t.next == t.rect.count else t.taken
      (t.rect.x0 + t.rect.x1 * 2 ^ 16 + t.rect.y0 * 2 ^ 32 + t.rect.y1 * 2 ^ 48,
       (if partly then 2 else 1) * 2 ^ 62 + b2n t.point * 2 ^ 61 + t.depth % 16 * 2 ^ 56 + (if t.point then t.next % 2 ^ 32 else 0))
  let mine (g : Group) : Bool := g.part == pid && g.handle == x.handle
  let gs := ((s.tenantGroups.map (·.2)) ++ (s.cores.map fun c => c.2.spilled.map (·.2)).flatten).filter mine
  let ts := (gs.map fun g => g.threads.filter (·.lv)).flatten
  [(o, 0), (o + 8, l.tiles.length), (o + 16, l.cursor), (o + 24, x.lqcnt)]
    ++ dwsFrom (o + 32) 8192 (fun i => if i % 2 = 0 then (entry (i / 2)).1 else (entry (i / 2)).2)
    ++ ((ts.zip (List.range ts.length)).map fun t => t.1.blockDws (o + 65568 + 160 * t.2)).flatten

/-- The hot lines of a tenant, at most 8,192, with their virtual addresses (R384). -/
def State.hotLines (s : State) (ten : Nat) : List (Nat × Nat) :=
  ((s.clasp.hot.map (·.2)).flatten.filterMap fun line => match mget s.clasp.hotAt line with
    | some (t, va) => if t = ten then some (line, va) else none
    | none => none).take 8192
/-- They are written back. -/
def State.coolLines (s : State) (lines : List Nat) : State :=
  { s with clasp := { s.clasp with hot := s.clasp.hot.map fun e => (e.1, e.2.filter fun x => !lines.contains x) } }

/-- The header, the directory and the hot-line list (R384) of a grid whose parked clusters are `cs`. -/
def Grid.headDws (x : Grid) (cs : List Cluster) (hot : List Nat) : Dws :=
  let nsec := cs.length
  let lq := roundUp (0x300 + 16 * x.waveMost) 4096
  let next (a b : Cluster) : Bool := a.wave < b.wave || (a.wave == b.wave && a.idx < b.idx)
  let first := ((osort next (x.clusters.filter fun c => c.st == .waiting)).head?.map (·.idx)).getD x.clusters.length
  let wave := (x.clusters.filter fun c => c.st != .waiting).foldl (fun n c => max n c.wave) 0
  [(0, 2 ^ 56 + 4 * 2 ^ 32 + nsec % 65536 * 2 ^ 16 + x.ten % 65536), (8, x.imageBytes cs),
   (0x10, x.before.code * 2 ^ 32 + x.handle % 2 ^ 32), (0x18, if x.lpass then lq else 0),
   (0x20, hot.length * 2 ^ 48 + x.headBytes - 65536),
   (0x28, first % 65536 * 2 ^ 48 + wave % 256 * 2 ^ 40 + x.retired % 2 ^ 32)]
    ++ dwsFrom 0x100 32 x.word ++ dwsFrom (x.headBytes - 65536) hot.length (fun i => hot.getD i 0)
    ++ ((cs.zip (List.range nsec)).map fun c =>
      [(0x300 + 16 * c.2, x.sectionOff c.1), (0x308 + 16 * c.2, c.1.idx % 2 ^ 32 * 2 ^ 32 + x.secBytes / 4096)]).flatten

/-- The capability LOCK of a grid. -/
def Grid.lock (x : Grid) : Cap := capOfWords (BitVec.ofNat 64 (x.word 14)) (BitVec.ofNat 64 (x.word 15)) true

/-- Zero bytes at a place. -/
def State.zeroLoc (s : State) (o : Origin) (l : Loc) (n : Nat) : State :=
  let s := s.drainPub o.r.core fun e => e.meetsAt l n
  match l with
  | .phys k =>
    let old := s.mem.filter fun c => k ≤ c.1 && c.1 < k + n
    { s with memOld := old.map (fun c => ⟨s.ticket, .phys c.1, c.2, none⟩) ++ s.memOld, mem := cclear s.mem k n, mtags := untag s.mtags k n }
  | .peer _ _ => s.writeLoc l (List.replicate n 0) false

/-- Zero ranges at a base through the tenant's translation, page by page: does all of it succeed? -/
def State.zeroRanges (s : State) (o : Origin) (base : Nat) : List (Nat × Nat) → State × Bool
  | [] => (s, true)
  | (a, n) :: r => match s.translate o.who .store ((base + a) % 2 ^ 57) with
    | (s, .ok l) => (s.zeroLoc o l n).zeroRanges o base r
    | (s, _) => (s, false)

/-- Write doublewords at a base: does all of it succeed? -/
def State.putDws (s : State) (o : Origin) (base : Nat) : Dws → State × Bool
  | [] => (s, true)
  | (a, v) :: r => match s.engineWrite o (base + a) (leBytes 8 v) with
    | (s, none) => s.putDws o base r
    | (s, some _) => (s, false)

/-- Write tagged granules: does all of it succeed? -/
def State.putCaps (s : State) (o : Origin) (a : Nat) : List Cap → State × Bool
  | [] => (s, true)
  | c :: cs => match s.translate o.who .store (a % 2 ^ 57) with
    | (s, .ok l) => (s.writeLoc l (leBytes 8 (c.half false) ++ leBytes 8 (c.half true)) c.tag).putCaps o (a + 16) cs
    | (s, _) => (s, false)

/-! ### CORE_WITHDRAW (R107) -/

/-- The clusters of a grid on this device that a withdrawal saves: all running ones of a cooperative grid with one on the cores,
else those on the cores. -/
def State.toPark (s : State) (pid : Nat) (x : Grid) (cores : List Nat) : List Cluster :=
  let here (c : Cluster) : Bool := c.st == .admitted && !(s.clusterTeams pid x.handle c.idx).isEmpty
  let hit (c : Cluster) : Bool := here c && (rectCores c.x0 c.y0 x.cw x.ch).any cores.contains
  if x.coop then (if x.clusters.any hit then x.clusters.filter here else []) else x.clusters.filter hit

/-- The groups of a cluster with their places. -/
def State.clusterGroups (s : State) (pid handle map : Nat) : List (GRef × Group) :=
  ((s.clusterTeams pid handle map).map fun t => s.teamMembers t.1 t.2.1).flatten

/-- Has everything of a cluster come to its boundary: every group halted, no access in flight, no sector, quarter, reduction or
barrier operation on its way? -/
def State.clusterStill (s : State) (pid handle map : Nat) : Bool :=
  let gs := s.clusterGroups pid handle map
  let mine (r : GRef) : Bool := gs.any fun g => g.1 == r
  !(gs.any fun g => !g.2.frozen || g.2.pend.any (s.inFlight g.1 g.2))
    && !(s.cores.any fun c => c.2.chans.any (fun ch => ch.busy && mine ch.ref && (!ch.buf.isEmpty || ch.cancel)) || c.2.matIn.any fun m => mine m.ref)
    && (s.clusterTeams pid handle map).all (fun t => (s.core t.1).barq.isEmpty)
    && !(s.clasp.reqs.any fun e => e.2.any fun q => mine q.ref) && !(s.fabric.sent.any fun e => mine e.2.ref)

/-- Halt the groups of a cluster at their boundaries. -/
def State.haltCluster (s : State) (pid handle map : Nat) : State :=
  let gs := ((s.clusterTeams pid handle map).map fun t => s.teamResidents t.1 t.2.1).flatten
  let s := gs.foldl (fun s g => if g.2.frozen then s else s.haltGroup g.1 g.2 g.2.runsOn) s
  (s.clusterTeams pid handle map).foldl (fun s t => s.modCore t.1 fun k =>
    { k with spilled := k.spilled.map fun g => (g.1, if g.2.team = t.2.1 then { g.2 with frozen := true } else g.2) }) s

/-- A cluster's groups leave the device: its stores are performed, its records are carried, its engines' state has been saved. -/
def State.removeCluster (s : State) (pid handle map : Nat) : State :=
  (s.clusterTeams pid handle map).foldl (fun s t =>
    let gs := s.teamMembers t.1 t.2.1
    let mine (r : GRef) : Bool := gs.any fun g => g.1 == r
    let s := (s.teamResidents t.1 t.2.1).foldl (fun s g => s.delGroup g.1) s
    let s := s.modCore t.1 fun k =>
      ({ (k.teamDrop mine) with spilled := k.spilled.filter fun g => g.2.team != t.2.1 }).dropTeam t.2.1
    (List.range 4).foldl (fun s q => s.serveAcq t.1 q) s) s

/-- The rows that drains into registers have done reach the registers of a cluster's groups (R269). -/
def State.settleCluster (s : State) (pid handle map : Nat) : State :=
  (s.clusterTeams pid handle map).foldl (fun s t =>
    ((s.core t.1).mat.filter fun m => (s.teamResidents t.1 t.2.1).any fun g => g.1 == m.ref).foldl
      (fun s m => s.modGroup m.ref (m.settle s.ticket)) s) s

/-- The records that name a cluster's groups are taken out of the rings; the groups carry them (R370). -/
def State.carryCluster (s : State) (pid handle map : Nat) : State :=
  let mine (x : Record) : Bool := whoNames x.who && (s.clusterGroups pid handle map).any fun g => g.1 == whoRef x.who
  let cores := ((s.clusterTeams pid handle map).map (·.1)).eraseDups
  cores.foldl (fun s c => (List.range 4).foldl (fun s q =>
    let y := s.takeRecords c q mine
    let k := y.1.quarter c q
    (y.1.modCore c fun k => k.unwait y.2).carry (y.2 ++ if k.busy then (k.ring.take 1).filter mine else [])) s) s

/-- Halted clusters of a grid that all stand still, with their stores performed and their records carried: the state and the grid as it
becomes. While a parked cluster of another wave takes a section's place, they wait. -/
def State.parkReady (s : State) (pid handle : Nat) (maps : List Nat) : Option (State × Grid) :=
  match (s.part? pid).bind fun p => p.grid? handle with
  | none => none
  | some x =>
    let cs := x.clusters.filter fun c => maps.contains c.idx
    let parked := x.clusters.filter fun d => d.st == .parked
    if cs.isEmpty || s.stopped x.ten || !(cs.all fun c => s.clusterStill pid handle c.idx)
        || cs.any (fun c => parked.any fun d => x.sectionSlot d == x.sectionSlot c) then none
    else
      let s := cs.foldl (fun s c =>
        let s := (s.clusterGroups pid handle c.idx).foldl (fun s g => s.drainPub g.1.core fun e => e.ref == g.1) s
        (s.settleCluster pid handle c.idx).carryCluster pid handle c.idx) s
      let s := s.renumber pid handle
      let x : Grid := ((s.part? pid).bind fun p => p.grid? handle).getD x
      let x : Grid := { x with before := if x.st = .parked then x.before else x.st, st := .parked }
      some (s, cs.foldl (fun x c => x.putCluster { c with st := .parked }) x)

/-- The sections of clusters and the rest of their grid's image, written into LOCK, where no table assigns a byte with zeros (R384); the
tenant's hot lines are written back. Does all of it succeed? -/
def State.parkImage (s : State) (pid : Nat) (y : Grid) (maps : List Nat) : State × Bool :=
  let o := s.engineOrigin ⟨0, 0, noSlot⟩ y.ten 16
  let base := y.lock.base
  let parked := y.clusters.filter fun d => d.st == .parked
  let new := parked.filter fun d => maps.contains d.idx
  let kept := (parked.filter fun d => !maps.contains d.idx).map y.sectionSlot
  let holes := ((List.range y.waveMost).filter fun k => !kept.contains k && y.headBytes + (k + 1) * y.secBytes ≤ y.imageBytes parked).map fun k =>
    (y.headBytes + k * y.secBytes, y.secBytes)
  let zeros := (((0, y.headBytes) :: holes).map fun r => (spans 65536 (r.2 / 65536 + 2) (base + r.1) r.2).map fun p => (p.1 - base, p.2)).flatten
  let sec := (new.map fun c => (s.sectionDws pid y c).map fun d => (y.sectionOff c + d.1, d.2)).flatten
  let lp := if y.lpass then s.loupeDws pid y (roundUp (0x300 + 16 * y.waveMost) 4096) else []
  let hot := s.hotLines y.ten
  match s.zeroRanges o base zeros with
  | (s, false) => (s, false)
  | (s, true) => match s.putDws o base (sec ++ lp ++ y.headDws parked (hot.map (·.2))) with
    | (s, false) => (s, false)
    | (s, true) => (s.coolLines (hot.map (·.1))).putCaps o (base + 0x200) (y.args ++ List.replicate (16 - y.args.length) Cap.null)

/-- Save clusters of a grid at one instant: their groups halt, and once they stand still the image is written and they are PARKED; until
LOCK can be written they wait. -/
def State.park (s : State) (pid handle : Nat) (maps : List Nat) : State :=
  let s := maps.foldl (fun s n => s.haltCluster pid handle n) s
  match s.parkReady pid handle maps with
  | none => s
  | some (s, y) => match s.parkImage pid y maps with
    | (s, false) => s
    | (s, true) => maps.foldl (fun s n => s.removeCluster pid handle n) (s.modGrid pid handle fun _ => y)

/-- CORE_WITHDRAW (R107): the cores leave service; the partition's other cores that are not halted are in service. Until every running
cluster on them is parked, the event is due again. -/
def execCoreWithdraw (part : Nat) (cores : List Nat) (s : State) : Host.Outcome State Fault Refusal :=
  match s.part? part with
  | none => .next s
  | some p =>
    let s := p.cores.foldl (fun s c => s.modCore c fun k => { k with inService := !k.halted && !cores.contains c }) s
    let work := (p.grids.map fun x =>
      let maps := (s.toPark part x cores).map (·.idx)
      if x.coop then [(x.handle, maps)] else maps.map fun n => (x.handle, [n])).flatten
    .next (work.foldl (fun s w => s.park part w.1 w.2) s)

/-! ### PARKED_RESUME (R107) -/

/-- Resume one parked cluster on its rectangle, when R103 holds there and the section's needs are met. -/
def State.resumeCluster (s : State) (pid handle : Nat) (c : Cluster) : Option State :=
  match s.part? pid with
  | none => none
  | some p => match p.grid? handle with
    | none => none
    | some x =>
      if !s.admits x.ten || !s.clusterMeets pid x c then none
      else match s.readImage (s.engineOrigin ⟨0, 0, noSlot⟩ x.ten 16) pid x.lock.base (some c.idx) with
        | (s, .image i) =>
          if (s.sectionShort pid p i c.x0 c.y0).isSome then none
          else
            let s := s.restore pid i c.x0 c.y0
            some (s.modGrid pid handle fun y => if y.clusters.any fun d => d.st == .parked then y else { y with st := y.before })
        | _ => none

/-- Resume all clusters of a list, or none. -/
def State.resumeAll (s : State) (pid handle : Nat) : List Cluster → Option State
  | [] => some s
  | c :: cs => (s.resumeCluster pid handle c).bind fun s => s.resumeAll pid handle cs

/-- What resumes of a parked grid: every cluster at one instant when it is cooperative, else the first that can. -/
def State.resumed (s : State) (pid : Nat) (x : Grid) : Option State :=
  let cs := x.clusters.filter fun c => c.st == .parked
  if x.st != .parked || cs.isEmpty then none
  else if x.coop then s.resumeAll pid x.handle cs
  else firstSome (s.resumeCluster pid x.handle) cs

/-- PARKED_RESUME (R107). -/
def execParkedResume (part handle : Nat) (s : State) : Host.Outcome State Fault Refusal :=
  match (s.part? part).bind fun p => p.grid? handle with
  | none => .next s
  | some x => .next ((s.resumed part x).getD s)

end Sys2Proof.Machine
end

