-- ==== Sys2Proof/Machine/Manager.lean ====
section
/-! DEFINITION. What the partition manager on the steward cores does to the compute side: its requests, route switches and
migrations, halt notices, core repairs and voltage plans (R362, R399, R404, R415, R423, R424). -/

namespace Sys2Proof.Machine

open Sys2Proof

/-- MANAGER_REQUEST (R362): a record of cause 0x1e that names no group. -/
def execManagerRequest (core qtr code ten : Nat) (s : State) : Host.Outcome State Fault Refusal :=
  .next (s.report core qtr
    { cause := 0x1e, sub := 0, len := 0, seq := 0, pc := 0, rpc := 0, mask := 0, addr := 0, info := BitVec.ofNat 64 code,
      who := whoNone ten })

/-! ### Migration (R399, R404) -/

/-- The index of a device after a switch: D takes S's, and S takes D's (assumption 20). -/
def switched (old new k : Nat) : Nat := if k = old then new else if k = new then old else k

/-- The frozen tenants of this device in partitions where it is the old source: they have left it. -/
def State.leaving (s : State) (old : Nat) : List Nat :=
  (s.tenants.filter fun t => t.2.frozen && (s.part? t.2.part).any fun p => p.didx == old).map (·.1)

/-- ROUTE_SWITCH (R404): from this instant the source's index leads to the destination; the source answers its tenants' inbound
requests with retries. -/
def execRouteSwitch (old new : Nat) (s : State) : Host.Outcome State Fault Refusal :=
  let rs := s.fabric.routes
  let f := s.fabric
  .next { s with
    fabric := { f with routes := lset (lset rs old (rs.getD new new)) new (rs.getD old old),
                       ways := lset (lset f.ways old (f.ways.getD new ⟨[], []⟩)) new (f.ways.getD old ⟨[], []⟩), left := f.left ++ s.leaving old },
    parts := s.parts.map fun p => (p.1, { p.2 with didx := switched old new p.2.didx }) }

/-- The step that a tenant's migration has reached. -/
def State.migrated (s : State) (ten : Nat) : Nat := mgetD s.fabric.steps ten 0

/-- Note a step of a migration. -/
def State.noteStep (s : State) (ten act : Nat) : State :=
  { s with fabric := { s.fabric with steps := mset s.fabric.steps ten act } }

/-- Is a step the next of a migration: in the table's order, the first being optional and repeatable? After the last one a new migration
may start. -/
def migrationNext (done act : Nat) : Bool :=
  1 ≤ act && act ≤ 8 && (act == done % 8 + 1 || (act == 1 && done % 8 ≤ 1) || (act == 2 && done % 8 == 0))

/-- Is a tenant frozen? -/
def State.frozenTen (s : State) (ten : Nat) : Bool := ((s.tenant? ten).map (·.frozen)).getD false

/-- Does a tenant rest on this device: is it frozen, as on the source, or, as on the destination, not there with a group? -/
def State.rests (s : State) (ten : Nat) : Bool :=
  match s.tenant? ten with
  | none => true
  | some t => t.frozen || (!t.freezing && !(s.tenantGroups.any (fun x => x.2.ten == ten) || s.cores.any fun c => c.2.spilled.any fun x => x.2.ten == ten))

/-- May a step be taken now? Steps 3 to 6 take place while the tenant is frozen, and it is halted when it is. -/
def State.migrates (s : State) (ten act : Nat) : Bool :=
  if act = 8 then !((s.tenant? ten).any (·.freezing)) else act < 3 || act = 7 || s.rests ten

/-- Reconvergence timeout of a freeze that the partition manager starts: FRZTO's reset value, in ns (R357). -/
def managerFrzto : Nat := 8000

/-- The frames that a tenant's pages have taken are free again. -/
def State.freeFrames (s : State) (ten : Nat) : State :=
  { s with frames := s.frames.filter fun f => f.2 != ten, reserve := s.reserve.filter fun x => x.1 != ten }

/-- What a step of R399 does on this device: the source freezes the tenant, has its hot lines written back, halts it and frees its
frames. The other steps are software's, the route switch's, or the other device's. -/
def State.migrate (s : State) (ten act : Nat) : State :=
  match act with
  | 2 => if s.stopped ten then s else s.freezeStart ten (s.partOf ten) managerFrzto
  | 4 => { s with clasp := { s.clasp with hot := [] } }
  | 8 => if s.frozenTen ten then (s.haltTen ten).1.freeFrames ten else s
  | _ => s

/-- MIGRATION (R399). -/
def execMigration (ten : Nat) (act : Nat) (s : State) : Host.Outcome State Fault Refusal :=
  .next (if migrationNext (s.migrated ten) act && s.migrates ten act then (s.migrate ten act).noteStep ten act else s)

/-! ### Spares (R415, R424) -/

/-- Spares of a die that have been taken: die d has the spares 2d and 2d + 1, taken in this order (assumption 19). -/
def State.sparesTaken (s : State) (die : Nat) : Nat :=
  s.cores.foldl (fun n c => match c.2.spare with
    | some k => if k / 2 = die then max n (k % 2 + 1) else n
    | none => n) 0

/-- The next spare of a core's die. -/
def State.nextSpare (s : State) (core : Nat) : Option Nat :=
  let n := s.sparesTaken (dieOf core)
  if n < 2 ∧ 0 < s.host.spares then some (2 * dieOf core + n) else none

/-- One spare fewer is unused. -/
def State.takeSpare (s : State) : State := { s with host := { s.host with spares := s.host.spares - 1 } }

/-- The grids of this device with a cluster on a core. -/
def State.gridsOn (s : State) (core : Nat) : List (Nat × Nat) :=
  let on (p : Part) (x : Grid) : Bool :=
    x.clusters.any fun c => c.st == .admitted && c.dev == p.didx && (rectCores c.x0 c.y0 x.cw x.ch).contains core
  (s.parts.map fun p => (p.2.grids.filter (on p.2)).map fun x => (p.1, x.handle)).flatten

/-- Remove the system groups of a core. -/
def State.dropSystem (s : State) (core : Nat) : State := (List.range 4).foldl (fun s q => s.delGroup ⟨core, q, 63⟩) s

/-- A core after reset, in its partition, with the spare that serves as it. -/
def Core.fresh (old : Core) (core : Nat) : Core :=
  let k := { Core.reset with spare := old.spare }
  match old.part with
  | some p => k.inPart p core
  | none => k

/-- A halted core is retired: a cleared spare takes its place, or it stays withdrawn. -/
def State.retireCore (s : State) (core : Nat) : State :=
  match s.nextSpare core with
  | none => s.modCore core fun k => { k with inService := false }
  | some n => ((s.dropSystem core).modCore core fun k => { (k.fresh core) with spare := some n }).takeSpare

/-- HALT_NOTICE (R415): the grids with a cluster on the core end, and the core is retired. -/
def execHaltNotice (core : Nat) (s : State) : Host.Outcome State Fault Refusal :=
  .next (match s.notices.find? fun n => n.core == core with
    | none => s
    | some n =>
      let s := (s.gridsOn core).foldl (fun s g => (s.haltGrid g.1 g.2).1) s
      State.retireCore { s with notices := s.notices.erase n } core)

/-- The tenants with a team on a core. -/
def Core.tenants (k : Core) : List Nat := (k.teams.map (·.2.ten)).eraseDups

/-- The core is moved to a spare: its state is carried over whole, but for the translations it holds. -/
def State.moveToSpare (s : State) (core spare : Nat) : State :=
  (s.modCore core fun k => { k with spare := some spare, l1 := [] }).takeSpare

/-- A core is withdrawn from its partition, with the others that are not in service. -/
def State.withdrawCore (s : State) (core : Nat) : Host.Outcome State Fault Refusal :=
  match (s.core core).part with
  | none => .next (s.modCore core fun k => { k with inService := false })
  | some p =>
    let out := (((s.part? p).map (·.cores)).getD []).filter fun c => !(s.core c).inService
    execCoreWithdraw p (core :: out) s

/-- CORE_REPAIR (R424): first every tenant on the core is frozen; once all are, its state moves to the spare and the tenants resume.
Without a spare on the die the core is withdrawn. -/
def execCoreRepair (core spare : Nat) (s : State) : Host.Outcome State Fault Refusal :=
  if (s.core core).halted then .next s
  else match s.nextSpare core with
    | none => s.withdrawCore core
    | some n =>
      let ts := (s.core core).tenants
      if n ≠ spare then .next s
      else if ts.all s.frozenTen then .next (ts.foldl (fun s t => (s.thawIp t).1) (s.moveToSpare core spare))
      else .next ((ts.filter fun t => !s.stopped t).foldl (fun s t => s.freezeStart t (s.partOf t) managerFrzto) s)

/-- VOLTAGE_REPLAN (R423): a re-plan pauses no work and changes no result. -/
def execVoltageReplan (s : State) : Host.Outcome State Fault Refusal := .next s

end Sys2Proof.Machine
end

