-- ==== Sys2Proof/Machine/Reset.lean ====
section
/-! DEFINITION. The reset domains and bring-up (R417 to R420, R422, R425). -/

namespace Sys2Proof.Machine

open Sys2Proof

/-! ### Compute reset (R417, R418) -/

/-- The memory-side engines after a compute reset: hot lines are written back, the requests of the host and fabric ports stay, those
of compute ports are discarded; the quad engines are cleared. -/
def Clasp.computeReset (c : Clasp) : Clasp :=
  { c with reqs := ((c.reqs.filter fun e => e.1 < 32).map fun e => (e.1, e.2.filter fun q => q.port ≥ hostPort)).filter fun e => !e.2.isEmpty,
           rr := c.rr.filter fun e => e.1 < 32, hot := [] }

/-- A partition after a compute reset: queues and grid states are emptied, tokens are 0, handles restart at 1. -/
def Part.computeReset (p : Part) : Part := { p with tokens := [], next := 1, grids := [], ended := [] }

/-- A tenant after a compute reset: nothing of it is left to be frozen. -/
def Tenant.computeReset (t : Tenant) : Tenant :=
  { t with frozen := false, freezing := false, freezeAt := 0, reach := [], halted := 0, forced := 0 }

/-- The endpoint while a compute reset begins: CRSTP is set, and submissions not yet accepted will end with RESET. -/
def Endpoint.computeReset (h : Endpoint) : Endpoint :=
  { h with crstp := true, bells := h.bells.map fun b => if b.busy then { b with cut := true } else b }

/-- The compute domain is cleared; memory, the host's service and the management domain go on (R417). What is due stays so: inputs from
outside are served, and an event of what has been cleared changes nothing. -/
def State.computeReset (s : State) : State :=
  { s with
    issue := none, turn := ⟨0, 0⟩, cycle := 0, groups := [], l2 := [], strand := [], spadOld := [], memOld := [], opens := [],
    resetting := true,
    cores := s.cores.map fun c => (c.1, c.2.fresh c.1), clasp := s.clasp.computeReset,
    parts := s.parts.map fun p => (p.1, p.2.computeReset), tenants := s.tenants.map fun t => (t.1, t.2.computeReset),
    host := s.host.computeReset,
    fabric := { s.fabric with pulls := s.fabric.pulls.map fun p => { p with since := 0 } } }

/-- COMPUTE_RESET (R418): one that is in progress is joined. -/
def execComputeReset (s : State) : Host.Outcome State Fault Refusal := .next (if s.resetting then s else s.computeReset)

/-- CRST (R422): ignored while CRSTEN is 0; it joins a reset in progress. -/
def execCrst (s : State) : Host.Outcome State Fault Refusal :=
  .next (if s.host.crsten && !s.resetting then s.computeReset else s)

/-- COMPUTE_RESET_COMPLETE (R418): CRSTP clears. -/
def execComputeResetComplete (s : State) : Host.Outcome State Fault Refusal :=
  .next (if s.resetting then { s with resetting := false, host := { s.host with crstp := false } } else s)

/-! ### Full reset and bring-up (R419, R420, R425) -/

/-- What lasts over power-good: the spares and signatures used. -/
def Endpoint.lasting (h : Endpoint) : Endpoint := { Endpoint.reset with spares := h.spares, sigsLeft := h.sigsLeft }

/-- The cores of which spares serve. -/
def sparesKept (cs : NMap Core) : NMap Core :=
  (cs.filter fun c => c.2.spare.isSome).map fun c => (c.1, { Core.reset with spare := c.2.spare })

/-- FULL_RESET (R417, R419): all three domains; near memory is zeroed, capacity memory stays, the link goes down. -/
def execFullReset (s : State) : Host.Outcome State Fault Refusal :=
  .next { State.reset with
    ticket := s.ticket, cores := sparesKept s.cores, mem := s.mem.filter (fun c => c.1 ≥ Config.capacityBase),
    mtags := s.mtags.filter fun g => 16 * g ≥ Config.capacityBase, host := { s.host.lasting with linkUp := false } }

/-- POWER_GOOD (R420, R425): bring-up starts, and the steward cores check the firmware's signature. -/
def execPowerGood (s : State) : Host.Outcome State Fault Refusal :=
  .next { State.reset with
    ticket := s.ticket, cores := sparesKept s.cores, host := { s.host.lasting with sigok := Config.firmwareOk } }

/-- The endpoint once the firmware runs: the host tenant's tables, the requester ID and CRSTEN are what the partition manager sets
(R408, R413, R422; assumption 2). -/
def Endpoint.managed (h : Endpoint) : Endpoint :=
  { h with step := 1, sigok := true, linkUp := true, root := (Config.partReg 0 0x300 0).toNat, rid := Config.partReg 0 0x301 0,
           crsten := (Config.partReg 0 0x302 0).getLsbD 0 }

/-- BRINGUP_STEP_END (R420, R425): STEP goes on; step 0 ends only when the signature verifies; READY is set at the last step. -/
def execBringupStepEnd (s : State) : Host.Outcome State Fault Refusal :=
  let h := s.host
  .next (if h.step = 0 then
      (if Config.firmwareOk then { s with host := h.managed } else s)
    else if h.step < 4 then { s with host := { h with step := h.step + 1 } }
    else if h.step = 4 then { s with host := { h with step := 5, ready := true, rsvc := false } }
    else s)

end Sys2Proof.Machine
end

