-- ==== Sys2Proof/Machine/Agenda.lean ====
section
/-! DEFINITION. The events that are due after a barrel turn, and the end of a turn. An event that a state does not enable changes
nothing, so that the lists may name a few too many. -/

namespace Sys2Proof.Machine

open Sys2Proof

/-- An event when a condition holds. -/
def evIf (c : Bool) (i : Instr) : List Instr := if c then [i] else []

/-! ### Groups and quarters -/

/-- The events of an outstanding operation. -/
def Pend.events (r : GRef) (p : Pend) : List Instr :=
  if p.done then []
  else match p.kind with
    | .lsum _ _ _ _ _ => [.lsumBlock r p.id]
    | _ => .longLatencyCompletion r p.id :: evIf (p.why == some .peer) (.remoteTimeout r p.id)

/-- The events of a group. -/
def Group.events (r : GRef) (g : Group) : List Instr :=
  (g.pend.map (Pend.events r)).flatten
    ++ evIf (g.lpass && (g.st == .draining || g.st == .batchWait || !g.filling.isEmpty)) (.loupeBatchStart r)

/-- The events of a quarter of a core. -/
def State.quarterEvents (s : State) (core q : Nat) : List Instr :=
  let k := s.quarter core q
  evIf ((s.coreGroups core).any fun x => x.1.qtr == q && x.2.st == .acqWait) (.acquireDeadlockBreak core q)
    ++ evIf ((s.core core).spilled.any fun x => x.1 / 64 == q) (.spilledRefill core q)
    ++ evIf (!k.waitRec.isEmpty && k.ring.length < Config.ringRecords) (.faultRecordWrite core q)
    ++ evIf (!k.ring.isEmpty && !k.busy) (.systemGroupService core q)

/-! ### A core's engines -/

/-- The events of a channel. -/
def Channel.events (core n : Nat) (c : Channel) : List Instr :=
  if c.busy then c.recv.map fun x => .copySector core n x.1 else []

/-- The events of a core's engines. -/
def Core.events (core : Nat) (k : Core) : List Instr :=
  ((k.chans.zip (List.range 8)).map fun c => c.1.events core c.2).flatten
    ++ (if k.mat.isEmpty then [] else [.matrixOperationStart core, .matrixUnit core, .matrixOperationComplete core])
    ++ evIf (!k.matIn.isEmpty) (.mmacQuarterEnqueue core)
    ++ evIf (!k.barq.isEmpty) (.barrierUnitOperation core)
    ++ ((k.sess.zip (List.range 2)).map fun x => evIf (x.1.st == .run) (.strandBlock core x.2)).flatten
    ++ evIf (!k.log.isEmpty) (.sideLogReplay core)
    ++ evIf (!k.pub.isEmpty) (.publicationBufferDrain core)

/-! ### Partitions and tenants -/

/-- The events of a grid. -/
def State.gridEvents (s : State) (pid : Nat) (p : Part) (x : Grid) : List Instr :=
  evIf x.outcome.isSome (.gridRetire pid x.handle)
    ++ evIf (x.st == .parked) (.parkedResume pid x.handle)
    ++ (if x.coop then evIf (s.gridOpen x && x.clusters.any fun c => c.st == .waiting) (.cooperativeAdmission pid x.handle)
        else if s.gridOpen x then (x.clusters.filter x.waveOpen).map fun c => .clusterAdmission pid x.handle c.idx else [])
    ++ (x.clusters.filter fun c => c.st == .admitted && c.dev != p.didx).map fun c => .clusterAdmission pid x.handle c.idx

/-- The events of a partition. Cores that have been withdrawn while a cluster is still to be saved go on being withdrawn. -/
def State.partEvents (s : State) (pid : Nat) (p : Part) : List Instr :=
  let out := p.cores.filter fun c => !(s.core c).inService && !(s.core c).halted
  evIf (p.grids.any fun x => x.st == .queued) (.gridStart pid)
    ++ (p.grids.map (s.gridEvents pid p)).flatten
    ++ evIf (!out.isEmpty && p.grids.any fun x => !(s.toPark pid x out).isEmpty) (.coreWithdraw pid out)

/-- The events of a FREEZE in progress. -/
def State.freezeEvents (s : State) (ten : Nat) (t : Tenant) : List Instr :=
  if t.freezing then
    t.reach.map (fun c => .freezeReachCore ten c)
      ++ (if s.cycle ≥ t.freezeAt then (s.cores.filter fun c => !(s.unfrozen ten c.1).isEmpty).map fun c => .reconvergenceTimeout ten c.1 else [])
      ++ evIf t.reach.isEmpty (.freezeComplete ten)
  else []

/-! ### Memory, fabric and host -/

/-- The address of a page. -/
def pageVa (page : Nat) : DWord := BitVec.ofNat 64 (page * pageBytes)

/-- The events of the memory side: engines, page moves, pulls. -/
def State.memEvents (s : State) : List Instr :=
  s.clasp.reqs.map (fun e => .claspRequest e.1)
    ++ ((s.clasp.hot.filter fun e => !e.2.isEmpty).map fun e =>
        .hotLineWriteback e.1 (e.2.getD (Config.choice s.ticket e.1 % e.2.length) 0))
    ++ ((s.moves.filter fun m => !m.pull).map fun m => .pageMoveComplete m.ten (pageVa m.page))
    ++ ((s.fabric.pulls.filter fun p => !p.refused).map fun p => .pagePull p.ten (pageVa p.page))
    ++ ((s.fabric.pulls.filter fun p => p.refused && !p.failed).map fun p => .pullRefusalTimeout p.ten (pageVa p.page))
    ++ s.fabric.sent.map fun e => .longLatencyCompletion e.2.ref (sentBase + e.1)

/-- A page of some tenant that the page-move engine may compress of its own accord, a free choice; while nothing lies in the capacity
tier there is none. That it never picks a page of the host tenant or of a supervisor is the model's (assumption 79). -/
def State.compressEvents (s : State) : List Instr :=
  if s.mem.any fun c => c.1 ≥ Config.capacityBase then
    match s.tenants[Config.choice s.ticket 2000000 % s.tenants.length]? with
    | some t => [.engineCompress t.1 (pageVa (Config.choice s.ticket 2000001 % 2 ^ 41))]
    | none => []
  else []

/-- The submissions of the launch window that have no outcome yet. -/
def Endpoint.events (h : Endpoint) : List Instr :=
  ((h.bells.zip (List.range 8)).filter fun b => b.1.busy).map fun b => .hostLaunchOutcome b.2

/-! ### What is due -/

/-- The events of the device that a state enables, in a fixed order. -/
def State.enabled (s : State) : List Instr :=
  (s.groups.map fun g => g.2.events (grefOf g.1)).flatten
    ++ (s.cores.map fun c => c.2.events c.1 ++ ((List.range 4).map (s.quarterEvents c.1)).flatten).flatten
    ++ (s.parts.map fun p => s.partEvents p.1 p.2).flatten
    ++ (s.tenants.map fun t => s.freezeEvents t.1 t.2).flatten
    ++ s.memEvents ++ s.host.events ++ s.compressEvents

/-- Drop from a list the events that the device leaves for a later turn: each one's time is its own, a free choice (assumption 11). -/
def timely (tk : Nat) : Nat → List Instr → List Instr
  | _, [] => []
  | n, i :: r => if Config.choice tk (1000000 + n) % 2 = 0 then i :: timely tk (n + 1) r else timely tk (n + 1) r

/-- The events that follow a barrel turn: some of the enabled ones. -/
def State.due (s : State) : List Instr := timely s.ticket 0 s.enabled

/-- The places that hold groups, by core and quarter, after a key. -/
def nextPlace (k : Nat) : NMap Group → Option Nat
  | [] => none
  | (j, _) :: r => if j / 64 > k then some (j / 64) else nextPlace k r

/-- The turn after a turn: the next place with a resident group in the same cycle, or the first place in the next
cycle (R132; the model runs the cores in step, assumption 4). -/
def State.nextTurn (s : State) : State :=
  match nextPlace (s.turn.core * 4 + s.turn.qtr) s.groups with
  | some p => { s with turn := ⟨p / 4, p % 4⟩ }
  | none =>
    let p := match s.groups with
      | [] => 0
      | (j, _) :: _ => j / 64
    { s with turn := ⟨p / 4, p % 4⟩, cycle := s.cycle + 1 }

/-- Count a rotation of the turn's owner as its turn begins; the turn that stays empty after a hand-over is not one of them (R135,
assumption 91). -/
def State.countTurn (s : State) : State :=
  let t := s.cycle % 8
  s.modQuarter s.turn.core s.turn.qtr fun q =>
    if q.gap.getD t false then q else { q with owned := lput 0 q.owned t (q.owned.getD t 0 + 1) }

/-- The quantum of the turn's owner has expired with this turn (R135): its swap is due at once. -/
def State.expired (s : State) : List Instr :=
  let q := s.quarter s.turn.core s.turn.qtr
  match q.active.getD (s.cycle % 8) none with
  | some sl => evIf (56 ≤ q.owned.getD (s.cycle % 8) 0 && !(s.readyPending s.turn.core s.turn.qtr).isEmpty)
      (.quantumExpiry ⟨s.turn.core, s.turn.qtr, sl⟩)
  | none => []

/-- The end of a barrel turn: a swap by quantum comes first, the next turn is chosen and counted, and the events that are now
due are listed. -/
def State.endTurn (s : State) : State :=
  let first := s.expired
  let s := s.nextTurn.countTurn
  { s with agenda := first ++ s.due }

/-- The end of every step: no instruction is latched, the ticket of the free values goes on, and the turn names a core
of the mesh and one of its quarters (R1, R132). -/
def State.endStep (s : State) : State :=
  { s with issue := none, ticket := s.ticket + 1, turn := ⟨s.turn.core % 256, s.turn.qtr % 4⟩ }

end Sys2Proof.Machine
end

