-- ==== Sys2Proof/Machine/Control.lean ====
section
/-! DEFINITION. Control transfers, EXIT and the instructions that act on the group's turn, flags and allotment (R124,
R142 to R154, R329). -/

namespace Sys2Proof.Machine

open Sys2Proof

/-! ### Targets (R124, R125) -/

/-- Why a transfer to an address cannot be taken. -/
inductive Taken where
  | ok
  | bad
  | held (x : Fetched)
deriving DecidableEq, Repr

/-- The check of a target (R124). -/
def State.checkTarget (s : State) (o : Origin) (a : DWord) : State × Taken :=
  if a.toNat % 4 ≠ 0 ∨ slice a.toNat 63 60 ≠ 0 then (s, .bad)
  else match s.fetchWord o a with
    | (s, .bytes b) => (s, if ofLe b % 256 = 0 then .ok else .bad)
    | (s, x) => (s, .held x)

/-- A thread's failure as the list of `firstFailure` has it: lane, cause, SUB, ADDR and INFO. -/
abbrev Failure := Nat × Nat × Nat × DWord × DWord

/-- Put a failure at its lane's place among failures in lane order. -/
def Failure.insert (x : Failure) : List Failure → List Failure
  | [] => [x]
  | y :: r => if x.1 < y.1 then x :: y :: r else y :: Failure.insert x r

/-- Is the one record of these failures settled, whatever the target of lane l turns out to be (R430)? A lower thread
failed, and not by its target. -/
def failureSettled (l : Nat) : List Failure → Bool
  | [] => false
  | (m, cause, _) :: _ => m < l && cause != 0x04

/-- Check the targets of the lanes that have passed their own checks; `bad` are the failures found so far, in lane order.
The result is the hold that an unreadable target makes, where the record depends on it, or the record of R430. -/
def State.checkTargets (s : State) (c : Ctx) (o : Origin) (mask : LaneMask) :
    List (Nat × DWord) → List Failure → State × Option Res
  | [], bad => (s, firstFailure bad)
  | (l, a) :: r, bad => match s.checkTarget o a with
    | (s, .ok) => s.checkTargets c o mask r bad
    | (s, .bad) => s.checkTargets c o mask r (Failure.insert (l, 0x04, 0, 0, a) bad)
    | (s, .held x) =>
      if failureSettled l bad then s.checkTargets c o mask r bad
      else (s, some (.stall (s.fetchHold c.r c.g mask x)))

/-- Take a transfer (R124, R146): the lanes of `tgts` go to their targets, each changed by `upd`; the tiles of `und`
become undecided; the other threads of the issuing set go on to the next word. `own` are the failures of the threads'
own checks, which come before their targets' (R430). -/
def Ctx.transfer (c : Ctx) (s : State) (und : List Nat) (own : List Failure) (tgts : List (Nat × DWord))
    (upd : Nat → Group → Group) : Res :=
  if own.isEmpty && tgts.isEmpty then .next (s.undecide c.r und)
  else match s.checkTargets c (s.origin c.r c.g) (maskOf (tgts.map (·.1))) tgts own with
    | (_, some r) => r
    | (s, none) =>
      let stay := c.set.filter fun l => !(tgts.any fun x => x.1 == l)
      let g := tgts.foldl (fun g x => (upd x.1 g).modThread x.1 fun t => { t with pc := x.2, cpos := 0, left := some 0 }) c.g
      .went ((s.setGroup c.r (c.advanceLanes stay g)).undecide c.r und)

/-- The address of an offset in words from the base word. -/
def Ctx.offset (c : Ctx) (v : Int) : DWord := c.pc + BitVec.ofInt 64 (4 * v)

/-- The offset of a wide transfer (R125). -/
def wideOff : WideOff → Int
  | .imm o => o.toInt
  | .lit o => o.toInt

/-! ### Branches and jumps (R146 to R149) -/

/-- BR (R146). -/
def Ctx.branch (g : Guard) (off : Int) (c : Ctx) (s : State) : Res :=
  c.transfer s (c.maybe g) [] ((c.on g).map fun l => (l, c.offset off)) fun _ g => g

/-- BRU (R147); in a Loupe grid it acts as BR (R329). -/
def Ctx.branchUniform (g : Guard) (off : Int) (c : Ctx) (s : State) : Res :=
  if c.g.lpass then c.branch g off s
  else
    let on := c.on g
    let mixed := !on.isEmpty && on.length != c.set.length
    if mixed && c.g.strict then c.trapAll 0x08 0
    else
      let tgts := if on.contains (c.set.headD 0) then c.set.map fun l => (l, c.offset off) else []
      let mark (r : Res) : Res :=
        let f (s : State) : State := if mixed then s.modGroup c.r fun g => { g with univ := true } else s
        match r with
        | .next s => .next (f s)
        | .went s => .went (f s)
        | r => r
      mark (c.transfer s [] [] tgts fun _ g => g)

/-- JMP (R149): A must be a scalar register (R145). -/
def Ctx.jump (g : Guard) (a : Opnd) (c : Ctx) (s : State) : Res :=
  if isS a then
    c.transfer s (c.maybe g) [] ((c.on g).map fun l => (l, c.g.scalar c.tk a.num)) fun _ g => g
  else c.trapAll 0x02 1

/-! ### Calls and returns (R142 to R144) -/

/-- Write one register of a lane as a point. -/
def Group.putPoint (tk : Nat) (g : Group) (lane n v : Nat) : Group := g.writeIv tk lane n 32 (Iv.pt 0 v)

/-- Slide a lane's window by k stack words; the Nat subtraction of RET is guarded by its checks. -/
def Group.slide (g : Group) (lane : Nat) (f : Thread → Thread) : Group := g.modThread lane f

/-- The words that a call is short of for a lane; 0 when the window fits. -/
def Group.callShort (g : Group) (lane fr : Nat) : Nat :=
  let t := g.thread lane
  t.wb + g.regWords * (8 * fr + 32) - (t.rb + g.words)

/-- The first failure of a lane in the order of R143. -/
def callFailure (g : Group) (fr lane : Nat) : Option Failure :=
  if (g.thread lane).depth = 1023 then some (lane, 0x05, 0, 0, 0)
  else if g.callShort lane fr = 0 then none
  else some (lane, 0x06, 0, 0, BitVec.ofNat 64 (g.callShort lane fr))

/-- CALL and CALLS with frame code fr (R143). -/
def Ctx.callTo (g : Guard) (fr : Nat) (target : DWord) (c : Ctx) (s : State) : Res :=
  let on := c.on g
  let fit := on.filter fun l => (callFailure c.g fr l).isNone
  let ra := c.after.toNat
  c.transfer s (c.maybe g) (on.filterMap (callFailure c.g fr)) (fit.map fun l => (l, target)) fun l g =>
    let g := g.putPoint c.tk l (8 * fr - 2) (slice ra 31 2 * 4 + fr)
    let g := g.putPoint c.tk l (8 * fr - 1) (slice ra 59 32)
    g.modThread l fun t => { t with wb := t.wb + g.regWords * (8 * fr), depth := t.depth + 1 }

/-- The two link words below a lane's window. -/
def Ctx.link (c : Ctx) (lane : Nat) : Nat × Nat :=
  let k := c.g.regWords
  let wb := (c.g.thread lane).wb
  ((c.g.word c.tk lane (wb - 2 * k)).toNat, (c.g.word c.tk lane (wb - k)).toNat)

/-- The return address of a link. -/
def linkTarget (w : Nat × Nat) : DWord := BitVec.ofNat 64 (slice w.2 27 0 * 2 ^ 32 + slice w.1 31 2 * 4)

/-- The first failure of a lane in the order of R144. -/
def Ctx.retFailure (c : Ctx) (lane : Nat) : Option Failure :=
  let t := c.g.thread lane
  let k := c.g.regWords
  let w := c.link lane
  let fr := w.1 % 4
  if t.depth = 0 then some (lane, 0x05, 0, 0, 0)
  else if t.wb < t.rb + 2 * k then some (lane, 0x07, 0, 0, 0)
  else if fr = 0 then some (lane, 0x04, 0, 0, linkTarget w)
  else if t.wb < t.rb + k * (8 * fr) then some (lane, 0x07, 0, 0, 0)
  else none

/-- RET (R144). -/
def Ctx.return_ (g : Guard) (c : Ctx) (s : State) : Res :=
  let on := c.on g
  let fit := on.filter fun l => (c.retFailure l).isNone
  c.transfer s (c.maybe g) (on.filterMap c.retFailure) (fit.map fun l => (l, linkTarget (c.link l))) fun l g =>
    g.modThread l fun t => { t with wb := t.wb - g.regWords * (8 * ((c.link l).1 % 4)), depth := t.depth - 1 }

/-! ### EXIT, TRAP, YIELD, WAITF, ACQ and REL (R150 to R154) -/

/-- EXIT (R150, R329): the threads end in ascending lane order (R336). -/
def Ctx.exit (g : Guard) (c : Ctx) (s : State) : Res :=
  if (c.maybe g).isEmpty then
    if (c.on g).isEmpty then .next s else .next ((s.exitThreads c.r (c.on g)).retireIfDrained c.r)
  else .next ((((c.notOff g).foldl (fun s l =>
    if c.guard g l == .u then s.undecide c.r [l] else s.exitThreads c.r [l]) s)).retireIfDrained c.r)

/-- TRAP (R151): the threads at true are named by the record, whose resume PC is the next word; the other threads of the
set go on. -/
def Ctx.software (f : Form) (c : Ctx) (s : State) : Res :=
  let on := c.on f.guard
  let g := c.advanceLanes (c.set.filter fun l => !on.contains l) c.g
  .went ((s.setGroup c.r g).trapGroup c.r g 0x0e 0 c.len c.pc c.after (maskOf on) 0 (BitVec.ofNat 64 (f.imm.toNat % 65536)))

/-- YIELD (R152). In a system group it has no effect, also where a group of the pending set is ready: R136 gives the
system group a turn of its own, which no swap ends (assumption 93, DESIGN CHOICE). -/
def Ctx.yield (c : Ctx) (s : State) : Res :=
  if c.sys || (s.readyPending c.r.core c.r.qtr).isEmpty then .next s
  else .next (s.handOver c.r)

/-- WAITF (R153). -/
def Ctx.waitFlags (mask : BitVec 12) (c : Ctx) (s : State) : Res :=
  if c.g.clear mask then .next (s.setGroup c.r (c.g.cover c.tk mask))
  else if c.waitsFull false then .stall s
  else .next ((s.setGroup c.r { c.g with st := .waiting mask true }).fillTurns c.r.core c.r.qtr)

/-- May a group take its full allotment at once (R154)? -/
def State.acqFits (s : State) (c : Ctx) : Bool :=
  let free := s.freeWords c.r.core c.r.qtr
  c.g.short ≤ free && (s.acqWaiting c.r.core c.r.qtr).all fun x => x.2.age ≥ c.g.age || x.2.short > free

/-- ACQ (R154). A group that must wait stays at its ACQ, which its service passes or its refill re-executes (R41,
R42). -/
def Ctx.acquire (c : Ctx) (s : State) : Res :=
  if c.g.acqf then .next s
  else if s.acqFits c then .next (s.setGroup c.r { c.g with allot := c.g.full, acqf := true })
  else .went ((s.setGroup c.r { c.g with st := .acqWait }).fillTurns c.r.core c.r.qtr)

/-- The words that a REL is short of for a lane (R154). -/
def Group.relShort (g : Group) (lane : Nat) : Nat :=
  let t := g.thread lane
  t.wb + g.winWords - (t.rb + (g.words - g.short))

/-- REL (R154). -/
def Ctx.releaseWords (c : Ctx) (s : State) : Res :=
  if !c.g.acqf || c.sys then .next s
  else
    let bad := c.g.liveLanes.filterMap fun l =>
      if c.g.relShort l = 0 then none else some (l, 0x06, 0, (0 : DWord), BitVec.ofNat 64 (c.g.relShort l))
    match firstFailure bad with
    | some r => r
    | none => .next ((s.setGroup c.r { c.g with allot := c.g.pro, acqf := false }).serveAcq c.r.core c.r.qtr)

/-- The rules of an instruction with no operands. -/
def bareRules : Rules := Rules.plain none none none none 64

/-! ### Meanings -/

/-- NOP (R152). -/
def execNop (s : State) : Host.Outcome State Fault Refusal := s.issueCtl false 0 .zero fun _ s => .next s
/-- NOP in its extended form (R152). -/
def execNopExtended (s : State) : Host.Outcome State Fault Refusal := s.issueCtl false 0 .zero fun _ s => .next s
/-- BR (R146). -/
def execBr (g : Guard) (off : BitVec 18) (s : State) : Host.Outcome State Fault Refusal :=
  s.issueCtl true 0 .zero (Ctx.branch g off.toInt)
/-- BR with a wide offset (R146). -/
def execBrWide (g : Guard) (off : WideOff) (s : State) : Host.Outcome State Fault Refusal :=
  s.issueCtl true 0 .zero (Ctx.branch g (wideOff off))
/-- BRU (R147). -/
def execBru (g : Guard) (off : BitVec 18) (s : State) : Host.Outcome State Fault Refusal :=
  s.issueCtl true 0 .zero (Ctx.branchUniform g off.toInt)
/-- BRU with a wide offset (R147). -/
def execBruWide (g : Guard) (off : WideOff) (s : State) : Host.Outcome State Fault Refusal :=
  s.issueCtl true 0 .zero (Ctx.branchUniform g (wideOff off))
/-- JMP (R149). -/
def execJmp (h : BitVec 2) (g : Guard) (a : Opnd) (s : State) : Host.Outcome State Fault Refusal :=
  s.issueCtl true h a (Ctx.jump g a)
/-- JMP in its extended form (R149). -/
def execJmpExtended (h : BitVec 2) (g : Guard) (a : Opnd) (s : State) : Host.Outcome State Fault Refusal :=
  s.issueCtl true h a (Ctx.jump g a)
/-- CALL (R143). -/
def execCall (g : Guard) (fr : BitVec 2) (off : BitVec 16) (s : State) : Host.Outcome State Fault Refusal :=
  s.issueCtl true 0 .zero fun c => c.callTo g fr.toNat (c.offset off.toInt)
/-- CALL with a wide offset (R143). -/
def execCallWide (g : Guard) (fr : BitVec 2) (off : WideOff) (s : State) : Host.Outcome State Fault Refusal :=
  s.issueCtl true 0 .zero fun c => c.callTo g fr.toNat (c.offset (wideOff off))
/-- RET (R144). -/
def execRet (g : Guard) (s : State) : Host.Outcome State Fault Refusal := s.issueCtl true 0 .zero (Ctx.return_ g)
/-- RET in its extended form (R144). -/
def execRetExtended (g : Guard) (s : State) : Host.Outcome State Fault Refusal := s.issueCtl true 0 .zero (Ctx.return_ g)
/-- EXIT (R150). -/
def execExit (g : Guard) (s : State) : Host.Outcome State Fault Refusal := s.issueCtl true 0 .zero (Ctx.exit g)
/-- EXIT in its extended form (R150). -/
def execExitExtended (g : Guard) (s : State) : Host.Outcome State Fault Refusal := s.issueCtl true 0 .zero (Ctx.exit g)
/-- CALLS (R149). -/
def execCalls (f : Form) (s : State) : Host.Outcome State Fault Refusal :=
  s.issueForm { Rules.plain none (srcF isS) none none 64 with ctl := true } f fun c =>
    c.callTo f.guard (f.mod.toNat % 4) (c.g.scalar c.tk f.a.num)
/-- YIELD (R152). -/
def execYield (f : Form) (s : State) : Host.Outcome State Fault Refusal := s.issueForm bareRules f Ctx.yield
/-- TRAP (R151). -/
def execTrap (f : Form) (s : State) : Host.Outcome State Fault Refusal :=
  s.issueForm { bareRules with ctl := true, und := true } f (Ctx.software f)
/-- WAITF (R153). -/
def execWaitf (f : Form) (s : State) : Host.Outcome State Fault Refusal :=
  s.issueForm bareRules f (Ctx.waitFlags (BitVec.ofNat 12 f.imm.toNat))
/-- ACQ (R154). -/
def execAcq (f : Form) (s : State) : Host.Outcome State Fault Refusal := s.issueForm bareRules f Ctx.acquire
/-- REL (R154). -/
def execRel (f : Form) (s : State) : Host.Outcome State Fault Refusal := s.issueForm bareRules f Ctx.releaseWords

end Sys2Proof.Machine
end

