-- ==== Sys2Proof/Machine/Host.lean ====
section
/-! DEFINITION. The control page, the service of host faults, attestation, and the answers of the host to the device's
translation and page requests (R109, R110, R414, R416, R421, R422, R426). -/

namespace Sys2Proof.Machine

open Sys2Proof

/-! ### The control page (R421, R422) -/

/-- HSTAT (R422). -/
def Endpoint.hstat (h : Endpoint) : Nat :=
  h.fwv.toNat * 2 ^ 48 + h.herrcnt % 65536 * 2 ^ 32 + h.spares % 256 * 2 ^ 16 + h.step % 16 * 2 ^ 12 + b2n h.crstp * 16 + b2n h.sigok * 8
    + b2n h.rsvc * 2 + b2n h.ready

/-- HCTL as it reads (R422). -/
def Endpoint.hctl (h : Endpoint) : Nat := 2 * b2n h.crsten

/-- DBSTAT (R109). -/
def Doorbell.stat (b : Doorbell) : Nat := b2n b.busy * 2 ^ 63 + b.status.toNat * 2 ^ 32 + b.handle.toNat

/-- A word of a host error record (R413). -/
def HostRecord.word (r : HostRecord) (i : Nat) : Nat :=
  match i with
  | 0 => r.kind % 256 * 2 ^ 56 + r.sub % 256 * 2 ^ 48 + r.len % 65536 * 2 ^ 32 + r.seq.toNat
  | 1 => r.off.toNat
  | 2 => r.rid.toNat % 65536
  | _ => 0

/-- The doubleword that the control page holds at an aligned offset (R109, R421, R426). -/
def Endpoint.page (h : Endpoint) (o : Nat) : Nat :=
  if o = 0 then h.hstat
  else if o = 8 then h.hctl
  else if o = 0x10 then h.helog % 256
  else if 0x100 ≤ o ∧ o < 0x200 then (if o % 32 = 16 then (h.bells.getD ((o - 0x100) / 32) Doorbell.reset).stat else 0)
  else if 0x1000 ≤ o ∧ o < 0x1800 then ((h.errlog[(o - 0x1000) / 32]?).map fun r => r.word (o / 8 % 4)).getD 0
  else if o = 0x2020 then b2n h.attBusy * 2 ^ 63 + h.attStat.toNat
  else if 0x2040 ≤ o ∧ o < 0x20c0 then ofLe ((h.report.drop (o - 0x2040)).take 8)
  else if 0x2100 ≤ o ∧ o < 0x34d4 then ofLe ((h.sig.drop (o - 0x2100)).take 8)
  else 0

/-- One byte of a doubleword replaced. -/
def putByte (v : DWord) (i : Nat) (b : Byte) : DWord :=
  BitVec.ofNat 64 (v.toNat % 2 ^ (8 * i) + b.toNat * 2 ^ (8 * i) + v.toNat / 2 ^ (8 * i + 8) * 2 ^ (8 * i + 8))

/-- Write one byte of the control page that has no behaviour of its own: CAPLO of a doorbell that is not busy, or the nonce. -/
def Endpoint.poke (h : Endpoint) (o : Nat) (b : Byte) : Endpoint :=
  if 0x100 ≤ o ∧ o < 0x200 ∧ o % 32 < 8 then
    let d := (o - 0x100) / 32
    let x := h.bells.getD d Doorbell.reset
    if x.busy then h else { h with bells := lset h.bells d { x with caplo := putByte x.caplo (o % 32) b } }
  else if 0x2000 ≤ o ∧ o < 0x2020 then { h with nonce := lset h.nonce (o - 0x2000) b }
  else h

/-- Write bytes of the control page. -/
def Endpoint.pokes (h : Endpoint) (o : Nat) : List Byte → Endpoint
  | [] => h
  | b :: bs => (h.poke o b).pokes (o + 1) bs

/-- HOST_REGISTER_WRITE (R109, R110, R421, R426). -/
def execHostRegisterWrite (off : Nat) (data : List (BitVec 8)) (s : State) : Host.Outcome State Fault Refusal :=
  .next { s with host := s.host.pokes off data }

/-! ### Host faults (R414) -/

/-- HOST_FAULT_SERVICE (R414): the oldest record goes to the error log, and MSI-X vector 1 is signalled. -/
def execHostFaultService (s : State) : Host.Outcome State Fault Refusal :=
  let h := s.host
  .next (match h.queue with
    | [] => s
    | r :: rs =>
      let log := if h.helog < h.errlog.length then lset h.errlog h.helog r else h.errlog ++ [r]
      { s with host := { h with queue := rs, errlog := log, helog := (h.helog + 1) % 64, out := h.out ++ [.msix 1] } })

/-! ### Attestation (R426) -/

/-- Bytes of a list padded with zeros, or cut. -/
def padTo (n : Nat) (bs : List Byte) : List Byte := (bs ++ List.replicate n 0).take n

/-- The 128-byte report; the signatures remaining are counted after this one (assumption 34). -/
def Endpoint.newReport (h : Endpoint) : List Byte :=
  leBytes 16 Config.deviceId.toNat ++ (List.range 32).map Config.firmwareDigest ++ padTo 32 h.nonce ++ leBytes 8 h.hstat
    ++ leBytes 8 (h.sigsLeft - 1) ++ List.replicate 32 0

/-- ATTESTATION_SIGN (R426). -/
def execAttestationSign (s : State) : Host.Outcome State Fault Refusal :=
  let h := s.host
  .next { s with host :=
    if h.attBusy then { h with attStat := 2 }
    else if h.sigsLeft = 0 then { h with attStat := 1 }
    else { h with attBusy := true } }

/-- ATTESTATION_REPORT_SIGNED (R426). -/
def execAttestationReportSigned (s : State) : Host.Outcome State Fault Refusal :=
  let h := s.host
  .next { s with host :=
    if h.attBusy then
      let r := h.newReport
      { h with report := r, sig := (List.range 5076).map (Config.signatureByte (1048576 - h.sigsLeft) r), sigsLeft := h.sigsLeft - 1,
               attBusy := false, attStat := 0 }
    else h }

/-! ### Host process addresses (R416) -/

/-- The 4 KiB host page of an address of the process. -/
def hostPage (va : BitVec 64) : Nat := slice va.toNat 54 12

/-- Is a tenant bound to a PASID? -/
def State.boundTo (s : State) (ten pasid : Nat) : Bool := (s.tenant? ten).any fun t => t.pasid == some pasid

/-- The accesses of a PASID's tenants that wait for the host go on. -/
def State.wakeHost (s : State) (pasid : Nat) : State := s.serveWaiting .host fun g => s.boundTo g.ten pasid

/-- The Translation Request for a page, as the endpoint sends it. -/
def atsAsk (pasid page : Nat) : HostOut := .ats pasid (BitVec.ofNat 64 (page * 4096))

/-- Put a translation into the endpoint's cache of 4,096 entries; a full cache drops an entry of the device's choice. -/
def Endpoint.cacheAts (h : Endpoint) (tk : Nat) (e : Nat × Nat × DWord × Bool × Bool) : Endpoint :=
  let rest := h.ats.filter fun x => !(x.1 == e.1 && x.2.1 == e.2.1)
  let rest := if rest.length < 4096 then rest else rest.eraseIdx (Config.choice tk e.2.1 % 4096)
  { h with ats := rest ++ [e] }

/-- ATS_TRANSLATION_COMPLETION (R416): the translation is cached, or a Page Request is sent; the walk goes on. -/
def execAtsTranslationCompletion (pasid : Nat) (va : BitVec 64) (ans : AtsAnswer) (s : State) : Host.Outcome State Fault Refusal :=
  let h := s.host
  let page := hostPage va
  .next (if !h.out.contains (atsAsk pasid page) then s
    else
      let h := { h with out := h.out.erase (atsAsk pasid page) }
      match ans with
      | .none =>
        { s with host := { h with prs := h.prs ++ [(pasid, page, false)], out := h.out ++ [.prs pasid (BitVec.ofNat 64 (page * 4096)) false] } }
      | .addr pa w x =>
        State.wakeHost { s with host := h.cacheAts s.ticket (pasid, page, BitVec.ofNat 64 (pa.toNat / 4096 * 4096), w, x) } pasid)

/-- PAGE_REQUEST_RESPONSE (R416): success retries the waiting accesses, from a new Translation Request on; a refusal gives them a
translation fault with SUB NOTPRESENT, or PERM when only write was refused. -/
def execPageRequestResponse (pasid : Nat) (va : BitVec 64) (code : PrsCode) (s : State) : Host.Outcome State Fault Refusal :=
  let h := s.host
  let page := hostPage va
  let mine (p : Nat × Nat × Bool) : Bool := p.1 == pasid && p.2.1 == page
  let granted (x : Nat × Nat × DWord × Bool × Bool) : Bool := x.1 == pasid && x.2.1 == page
  let h' := { h with prs := h.prs.filter fun p => !mine p }
  .next (if !h.prs.any mine then s
    else match code with
      | .success => State.wakeHost { s with host := { h' with ats := h'.ats.filter fun x => !granted x } } pasid
      | _ => State.wakeHost { s with host := { h' with denied := h'.denied ++ [(pasid, page, if h.ats.any granted then 4 else 1)] } } pasid)

/-- The engines serve what waits at them of a tenant, as many requests as there are. -/
def State.serveEngines (s : State) (ten : Nat → Bool) : State :=
  (s.clasp.reqs.filter fun e => e.2.any fun q => ten q.ten).foldl
    (fun s e => (List.range e.2.length).foldl (fun s _ => s.claspTurn e.1) s) s

/-- ATS_INVALIDATE_REQUEST (R416): the entries go; it completes once every access that used one has been performed: the bound
tenants' buffered stores, and their requests at the engines. -/
def execAtsInvalidateRequest (pasid : Nat) (va : BitVec 64) (s : State) : Host.Outcome State Fault Refusal :=
  let page := hostPage va
  let h := { s.host with ats := s.host.ats.filter fun x => !(x.1 == pasid && x.2.1 == page) }
  let bound (t : Nat) : Bool := s.boundTo t pasid
  let s := (s.cores.map (·.1)).foldl (fun s k => s.drainPub k fun e => bound e.ten) ({ s with host := h } : State)
  let s := s.serveEngines bound
  .next { s with host := { s.host with out := s.host.out ++ [.invalidated pasid va] } }

end Sys2Proof.Machine
end

