-- ==== Sys2Proof/Machine/Lane.lean ====
section
/-! DEFINITION. The lane instructions (R156 to R161, R320, R325). -/

namespace Sys2Proof.Machine

open Sys2Proof

/-- A typeless copy: a point takes KIND S (R318). -/
def copyIv (i : Iv) : Iv := if i.isPoint then Iv.pt 0 i.lo else i

/-- The mask of 64 lanes that a test selects. -/
def laneBits (t : Nat → Bool) : Nat := bitsOf 64 t

/-- Write a 64-bit lane mask into the pair vD:vD+1 of a lane. -/
def Ctx.putMask (c : Ctx) (gd : Tri) (n lane kind : Nat) (g : Group) (m : Nat) : Group :=
  (g.writeTri c.tk gd lane n 32 (Iv.pt kind (m % 2 ^ 32))).writeTri c.tk gd lane (n + 1) 32 (Iv.pt kind (m / 2 ^ 32))

/-- Width at which RFL reads A (R157): a scalar is copied whole. -/
def rflWidth (f : Form) : Nat := if f.mod.getLsbD 0 || isS f.a then 64 else 32

/-- RFL (R157). -/
def State.issueRfl (s : State) (f : Form) : Host.Outcome State Fault Refusal :=
  let w := rflWidth f
  s.issueForm (Rules.plain (dstF isS) (srcF (if f.mod.getLsbD 0 then isV2 else isAny)) none none w) f fun c s =>
    c.lanes f.guard s fun ls =>
      let i := c.g.readIv c.tk f.lit w (ls.headD 0) f.a
      if i.isPoint then .next (s.setGroup c.r (c.g.setScalar c.tk f.d.num (BitVec.ofNat 64 i.lo)))
      else c.done s (c.g, ls)

/-- MATCH (R158, R325). -/
def State.issueMatch (s : State) (f : Form) : Host.Outcome State Fault Refusal :=
  s.issueForm (Rules.plain (dstF isV2) (srcF isAny) none none 32) f fun c s =>
    c.lanes f.guard s fun ls =>
      let iv (l : Nat) : Iv := c.g.readIv c.tk f.lit 32 l f.a
      if ls.all fun l => (iv l).isPoint then
        .next (s.setGroup c.r (ls.foldl
          (fun g l => c.putMask .t f.d.num l 3 g (laneBits fun j => ls.contains j && (iv j).lo == (iv l).lo)) c.g))
      else .next (s.setGroup c.r (c.putAll f.d.num 2 (ls.map fun l => (l, [])) false))

/-- VOTE over truth values: `all` or any (R159, R325). -/
def voteOf (all : Bool) (ps : List Tri) : Tri :=
  if all then (if ps.any (· == .f) then .f else if ps.all (· == .t) then .t else .u)
  else (if ps.any (· == .t) then .t else if ps.all (· == .f) then .f else .u)

/-- VOTE.any and VOTE.all (R159). -/
def State.issueVote (s : State) (f : Form) (all : Bool) : Host.Outcome State Fault Refusal :=
  s.issueForm (Rules.plain (dstF isP) none none (srcF isP) 32) f fun c s =>
    c.lanes f.guard s fun ls =>
      let v := voteOf all (ls.map fun l => c.g.pred c.tk l f.c.num)
      .next (s.setGroup c.r (ls.foldl (fun g l => g.setPred c.tk l f.d.num v) c.g))

/-- VOTE.bal (R159, R325). -/
def State.issueVoteBal (s : State) (f : Form) : Host.Outcome State Fault Refusal :=
  s.issueForm (Rules.plain (dstF (isDst 32)) none none (srcF isP) 32) f fun c s =>
    c.lanes f.guard s fun ls =>
      let ps := ls.map fun l => c.g.pred c.tk l f.c.num
      let lo := (ps.filter (· == .t)).length
      let hi := (ps.filter (· != .f)).length
      if isS f.d then
        (if lo = hi then .next (s.setGroup c.r (c.g.setScalar c.tk f.d.num (BitVec.ofNat 64 lo))) else c.done s (c.g, ls))
      else .next (s.setGroup c.r (ls.foldl (fun g l => g.writeIv c.tk l f.d.num 32 ⟨lo, hi, 0, false, false⟩) c.g))

/-- The source lane of SHFL (R160): 0 .idx, 1 .up, 2 .dn, 3 .xor. -/
def shflSource (v l b : Nat) : Option Nat :=
  let j := match v with
    | 0 => some b
    | 1 => if b ≤ l then some (l - b) else none
    | 2 => some (l + b)
    | _ => some (l ^^^ b)
  j.bind fun j => if j < 64 then some j else none

/-- What a lane receives from a source lane (R160). -/
def shflGet (val : Nat → Iv) (ls : List Nat) (j : Option Nat) : Iv :=
  match j with
  | some j => if ls.contains j then copyIv (val j) else Iv.pt 0 0
  | none => Iv.pt 0 0

/-- The hull of values in the KIND of the first (R325). -/
def hullAll : List Iv → Iv
  | [] => Iv.pt 0 0
  | i :: r => r.foldl (fun h j => Iv.hull 32 h (j.as h.kind 32)) i

/-- SHFL of one lane: with a non-point B the hull over the lanes it can name (R160, R325). -/
def shflOf (v : Nat) (val : Nat → Iv) (ls : List Nat) (l : Nat) (b : Iv) : Iv :=
  if b.isPoint then shflGet val ls (shflSource v l b.lo)
  else
    let u := b.as 1 32
    let far := if u.hi > 127 then [Iv.pt 0 0] else []
    let near := (List.range 128).filter fun k => u.lo ≤ k && k ≤ u.hi
    hullAll ((near.map fun k => shflGet val ls (shflSource v l k)) ++ far)

/-- SHFL and BCST. -/
def State.issueShfl (s : State) (f : Form) (v : Nat) (uni : Bool) : Host.Outcome State Fault Refusal :=
  s.issueForm (Rules.plain (dstF isV) (srcF isAny) (srcF (if uni then isUni else isAny)) none 32) f fun c s =>
    c.lanes f.guard s fun ls =>
      let val (l : Nat) : Iv := c.g.readIv c.tk f.lit 32 l f.a
      .next (s.setGroup c.r (ls.foldl
        (fun g l => g.writeIv c.tk l f.d.num 32 (shflOf v val ls l (c.g.readIv c.tk f.lit 32 l f.b))) c.g))

/-- LMASK (R161): by the lane alone, also for lanes whose threads have exited (assumption 92). -/
def State.issueLmask (s : State) (f : Form) (t : Nat → Nat → Bool) : Host.Outcome State Fault Refusal :=
  s.issueForm (Rules.plain (dstF isV2) none none none 32) f fun c s =>
    .next (s.setGroup c.r ((c.notOff f.guard).foldl
      (fun g l => c.putMask (c.guard f.guard l) f.d.num l 0 g (laneBits (t l))) c.g))

/-- RFL (R157). -/
def execRfl (f : Form) (s : State) : Host.Outcome State Fault Refusal := s.issueRfl f
/-- MATCH (R158). -/
def execMatchLanes (f : Form) (s : State) : Host.Outcome State Fault Refusal := s.issueMatch f
/-- VOTE.any (R159). -/
def execVoteAny (f : Form) (s : State) : Host.Outcome State Fault Refusal := s.issueVote f false
/-- VOTE.all (R159). -/
def execVoteAll (f : Form) (s : State) : Host.Outcome State Fault Refusal := s.issueVote f true
/-- VOTE.bal (R159). -/
def execVoteBal (f : Form) (s : State) : Host.Outcome State Fault Refusal := s.issueVoteBal f
/-- SHFL.idx (R160). -/
def execShflIdx (f : Form) (s : State) : Host.Outcome State Fault Refusal := s.issueShfl f 0 false
/-- SHFL.up (R160). -/
def execShflUp (f : Form) (s : State) : Host.Outcome State Fault Refusal := s.issueShfl f 1 false
/-- SHFL.dn (R160). -/
def execShflDn (f : Form) (s : State) : Host.Outcome State Fault Refusal := s.issueShfl f 2 false
/-- SHFL.xor (R160). -/
def execShflXor (f : Form) (s : State) : Host.Outcome State Fault Refusal := s.issueShfl f 3 false
/-- BCST (R160). -/
def execBcst (f : Form) (s : State) : Host.Outcome State Fault Refusal := s.issueShfl f 0 true
/-- LMASK.lt (R161). -/
def execLmaskLt (f : Form) (s : State) : Host.Outcome State Fault Refusal := s.issueLmask f fun l j => j < l
/-- LMASK.le (R161). -/
def execLmaskLe (f : Form) (s : State) : Host.Outcome State Fault Refusal := s.issueLmask f fun l j => j ≤ l
/-- LMASK.gt (R161). -/
def execLmaskGt (f : Form) (s : State) : Host.Outcome State Fault Refusal := s.issueLmask f fun l j => j > l
/-- LMASK.ge (R161). -/
def execLmaskGe (f : Form) (s : State) : Host.Outcome State Fault Refusal := s.issueLmask f fun l j => j ≥ l

end Sys2Proof.Machine
end

