-- ==== Sys2Proof/Machine/Sysreg.lean ====
section
/-! DEFINITION. The system registers, SYSRD and SYSWR (R36 to R40, R74, R133, R148, R202, R316, R356, R357, R373, R397, R405). -/

namespace Sys2Proof.Machine

open Sys2Proof

/-! ### Numbers (R356) -/

/-- The registers open to system groups only. -/
def sysOnly (n : Nat) : Bool := 0x100 ≤ n && n ≤ 0x1ff

/-- Is a number assigned? -/
def sysAssigned (n : Nat) : Bool :=
  (0x10 ≤ n && n ≤ 0x18) || (0x20 ≤ n && n ≤ 0x2f) || (0x100 ≤ n && n ≤ 0x10a)

/-- The bits of a register that SYSWR may set: GSTAT, SPZCFG, FRZTO, SFAULT, SAVING; none of the others. -/
def sysWritable (n : Nat) : Nat :=
  match n with
  | 0x14 => 3
  | 0x18 => 1 + 0x3fff * 2 ^ 8 + 0x3ff * 2 ^ 44
  | 0x105 => 0x3fff
  | 0x106 => 15 * 2 ^ 60 + (2 ^ 57 - 1)
  | 0x107 => 1
  | _ => 0

/-! ### Reading -/

/-- The group whose registers 0x000 to 0x0ff a group reaches: its own, or, for a system group, the one that SERV names, else its own
(R356). -/
def State.regOwner (s : State) (c : Ctx) : GRef × Option Group :=
  let w := (s.quarter c.r.core c.r.qtr).serv
  if c.sys && whoNames w then (whoRef w, s.group? (whoRef w)) else (c.r, some c.g)

/-- The team of a group; a system group has none. -/
def State.ownTeam (s : State) (r : GRef) (g : Group) : Option Team := if r.slot = 63 then none else s.team r g

/-- IDGRP (R37). -/
def State.idgrp (s : State) (r : GRef) (g : Group) : Nat :=
  let n := ((s.ownTeam r g).map (·.ngrp)).getD 1
  g.gidx % 32 + g.role.toNat * 2 ^ 5 + b2n g.lpass * 2 ^ 7 + g.ridx % 32 * 2 ^ 8 + r.qtr % 4 * 2 ^ 16 + r.slot % 64 * 2 ^ 18
    + (n - 1) % 32 * 2 ^ 24

/-- IDCLUS (R39). -/
def Team.idclus (t : Team) : Nat :=
  t.tidx % 16 + t.x0 % 16 * 2 ^ 16 + t.y0 % 16 * 2 ^ 20 + t.dx % 16 * 2 ^ 24 + t.dy % 16 * 2 ^ 28 + t.w % 16 * 2 ^ 32
    + t.h % 16 * 2 ^ 36 + t.wave % 256 * 2 ^ 40

/-- IDGRID (R40). -/
def Team.idgrid (t : Team) : Nat := t.cx % 65536 + t.cy % 65536 * 2 ^ 16 + t.gx % 65536 * 2 ^ 32 + t.gy % 65536 * 2 ^ 48

/-- GSTAT (R148). -/
def Group.gstat (g : Group) : Nat := b2n g.univ + 2 * b2n g.strict + 4 * b2n g.acqf

/-- PINFO (R405) of a partition. -/
def Part.pinfo (p : Part) (pid : Nat) : Nat := p.didx % 256 + p.ndev % 256 * 2 ^ 8 + pid % 65536 * 2 ^ 16

/-- The cycle counter of a core (R133): a spare's counts from the same events as the others' (R424). -/
def State.cycleOf (s : State) (_core : Nat) : Nat := s.cycle

/-- A register that any group may read, of a group. -/
def State.openReg (s : State) (r : GRef) (g : Group) (n : Nat) : Nat :=
  if 0x20 ≤ n then
    let x := s.slot g ((n - 0x20) / 2)
    if n % 2 = 0 then x.1 else x.2
  else match n with
  | 0x10 => s.idgrp r g
  | 0x11 => r.core % 256
  | 0x12 => ((s.ownTeam r g).map Team.idclus).getD 0
  | 0x13 => ((s.ownTeam r g).map Team.idgrid).getD 0
  | 0x14 => g.gstat
  | 0x15 => if g.lpass then ((s.gridOf g).map Grid.lqcnt).getD 0 else 0
  | 0x16 => ((s.part? g.part).map fun p => p.pinfo g.part).getD 0
  | 0x17 => s.cycleOf r.core
  | _ => ((s.ownTeam r g).map (·.spzcfg.toNat)).getD 0

/-- A register of a system group's quarter and core (R356, R397). -/
def State.closedReg (s : State) (r : GRef) (n : Nat) : Nat :=
  let q := s.quarter r.core r.qtr
  let p := ((s.core r.core).part).bind s.part?
  match n with
  | 0x100 => q.sroot.toNat
  | 0x101 => q.svec.toNat
  | 0x102 => q.serv.toNat
  | 0x103 => q.frec.toNat
  | 0x104 => q.fqb.toNat
  | 0x105 => q.frzto.toNat
  | 0x106 => q.sfault.toNat
  | 0x107 => (s.core r.core).saving.toNat
  | 0x108 => q.troot.toNat
  | 0x109 => (p.map (·.rfq.toNat)).getD 0
  | _ => (p.map (·.dirtyb.toNat)).getD 0

/-- What SYSRD reads. A register of a group that is gone reads 0. -/
def State.sysRead (s : State) (c : Ctx) (n : Nat) : Nat :=
  if sysOnly n then s.closedReg c.r n
  else match s.regOwner c with
    | (r, some g) => s.openReg r g n
    | (_, none) => 0

/-! ### Writing -/

/-- FRZTO's clamp (R357). -/
def clampTo (v : Nat) : Nat := if v < 1000 then 1000 else if v > 12000 then 12000 else v

/-- What SYSWR does with a value that sets no read-only bit. -/
def State.sysWrite (s : State) (c : Ctx) (n v : Nat) : State :=
  match n with
  | 0x14 => s.modGroup (s.regOwner c).1 fun g => { g with univ := bit v 0, strict := bit v 1 }
  | 0x18 => match s.regOwner c with
    | (r, some g) => if r.slot = 63 then s else s.modTeam r.core g.team fun t => { t with spzcfg := BitVec.ofNat 64 v }
    | (_, none) => s
  | 0x105 => s.modQuarter c.r.core c.r.qtr fun q => { q with frzto := BitVec.ofNat 64 (clampTo v) }
  | 0x106 => s.modQuarter c.r.core c.r.qtr fun q => { q with sfault := BitVec.ofNat 64 v }
  | 0x107 => s.modCore c.r.core fun k => { k with saving := BitVec.ofNat 64 v }
  | _ => s

/-! ### The instructions (R356, R372, R373) -/

/-- The shared course of SYSRD and SYSWR: privilege by the number, the operand fields, the number, and then the register. -/
def Ctx.sysReg (f : Form) (ru : Rules) (priv assigned : Bool) (body : Ctx → State → Res) (c : Ctx) (s : State) : Res :=
  let n := f.imm.toNat % 4096
  let bad : Res := .trap 0x02 5 c.mask 0 (BitVec.ofNat 64 n)
  if priv && !c.sys then .trap 0x03 0 c.mask 0 (BitVec.ofNat 64 n)
  else match ru.operandFault c.g f with
    | some sub => c.trapAll 0x02 sub
    | none => if assigned then ru.run f c body s else bad

/-- SYSRD. -/
def Ctx.sysrd (f : Form) (c : Ctx) (s : State) : Res :=
  c.done s (c.putScalar f.guard f.d.num (s.sysRead c (f.imm.toNat % 4096)))

/-- SYSWR: a set bit that is read-only raises the illegal-operand trap. -/
def Ctx.syswr (f : Form) (c : Ctx) (s : State) : Res :=
  let n := f.imm.toNat % 4096
  let v := c.g.read c.tk f.lit 64 0 f.a
  if v &&& sysWritable n ≠ v then c.trapOn f 0x02 5 0 n else .next (s.sysWrite c n v)

/-- Run SYSRD or SYSWR. -/
def State.issueSysReg (s : State) (f : Form) (ru : Rules) (priv assigned : Bool) (body : Ctx → State → Res) :
    Host.Outcome State Fault Refusal :=
  match s.ctx with
  | none => .fault .noIssuingGroup
  | some c => .next (c.settle s (c.latched f.hold f.a f.lit ru.aw) (c.sysReg f ru priv assigned body s))

/-- SYSRD (R373). -/
def execSysrd (f : Form) (s : State) : Host.Outcome State Fault Refusal :=
  let n := f.imm.toNat % 4096
  s.issueSysReg f (Rules.plain (dstF isS) none none none 64) (sysOnly n) (sysAssigned n) (Ctx.sysrd f)

/-- SYSWR (R373): GSTAT's write is privileged (R148). -/
def execSyswr (f : Form) (s : State) : Host.Outcome State Fault Refusal :=
  let n := f.imm.toNat % 4096
  s.issueSysReg f (Rules.plain none (srcF fun o => isSZ o || o == .lit) none none 64) (sysOnly n || n == 0x14) (sysWritable n != 0) (Ctx.syswr f)

end Sys2Proof.Machine
end

