-- ==== Sys2Proof/Machine/System.lean ====
section
/-! DEFINITION. The system instructions but SYSRD and SYSWR: ERET, TLBI, SLOG, FREEZE, THAW, WINSP, WINFL, HALT (R356, R372 to
R380). -/

namespace Sys2Proof.Machine

open Sys2Proof

/-- The rules of a privileged instruction (R356). -/
def Rules.privileged (long : Bool) (d a b : Option Field) : Rules := { Rules.plain d a b none 64 with priv := true, long := long }

/-- Scalar, or literal. -/
def scalarOrLit : Option Field := srcF isSL
/-- Scalar, `zero` or literal. -/
def scalarZeroLit : Option Field := srcF fun o => isSZ o || o == .lit

/-- The value of an operand. -/
def Ctx.arg (f : Form) (c : Ctx) (o : Opnd) : Nat := c.g.read c.tk f.lit 64 0 o

/-- A long-latency instruction whose result is at hand. -/
def Ctx.answer (f : Form) (c : Ctx) (s : State) (v : DWord) : Res := .next (c.start f s .ready [.scalar f.d.num] [v])

/-! ### ERET (R374) -/

/-- The group that the record being served names, when HALT has not ended it. -/
def State.servedGroup (s : State) (core qtr : Nat) : Option (GRef × Group) :=
  let q := s.quarter core qtr
  match q.serving with
  | none => none
  | some _ => (s.group? (whoRef q.serv)).map fun g => (whoRef q.serv, g)

/-- Threads that go on at RPC: inside their clause, or at a header. -/
def Group.resumeAt (g : Group) (lanes : List Nat) (rpc : DWord) (keep : Bool) (due : Nat) : Group :=
  g.modThreads lanes fun _ t => if keep then { t with pc := rpc } else { t with pc := rpc, cpos := due, left := some 0 }

/-- A group that its record no longer stops: ready, or, while its tenant is frozen, ready in the frozen state. -/
def State.goOn (s : State) (r : GRef) (f : Group → Group) : State :=
  let s := (s.modGroup r fun g => { f g with crec := none }).makeReady r
  s.fillTurns r.core r.qtr

/-- ERET of a trap's record: the threads of MASK resume at RPC, checked as R124 lays down when it is not the record's PC. -/
def State.eretTrap (s : State) (r : GRef) (g : Group) (x : Record) (rpc : DWord) : State :=
  let lanes := lanesOf x.mask
  if rpc = x.pc then s.goOn r fun g => g.resumeAt lanes rpc true 0
  else match s.checkTarget (s.origin r g) rpc with
    | (s, .ok) => s.goOn r fun g => g.resumeAt lanes rpc false 0
    | (s, .bad) =>
      (s.modGroup r fun g => { g with crec := none }).report r.core r.qtr (groupRecord g.ten r 0x04 0 x.len rpc rpc x.mask 0 rpc)
    | (s, .held e) =>
      let g := { g.resumeAt lanes rpc false targetDue with crec := none }
      (s.setGroup r g).fetchHold r g x.mask e

/-- A held access is tried again; of a frozen group it is left to THAW. -/
def State.eretAccess (s : State) (r : GRef) (g : Group) (p : Pend) : State :=
  let s := (s.modGroup r fun g => { g with st := .held p.id, crec := none }).modPend r p.id fun p => { p with since := 0 }
  if g.frozen then s.modPend r p.id fun p => p.setWhy (some .lock) else s.serveAgain r p.id

/-- ERET of a held access's record. -/
def State.eretHeld (s : State) (r : GRef) (g : Group) : State :=
  match g.st with
  | .held id => (match g.pend.find? fun p => p.id == id with
    | some p => s.eretAccess r g p
    | none => s.goOn r id_)
  | .fetchHeld _ => s.goOn r id_
  | _ => s.modGroup r fun g => { g with crec := none }
where
  /-- no further change. -/
  id_ (g : Group) : Group := g

/-- ERET of a remote-timeout record: the access is reissued and its time starts anew (R366). -/
def State.eretRemote (s : State) (r : GRef) (g : Group) : State :=
  match g.pend.find? fun p => !p.done && p.why == some .peer with
  | some p => s.eretAccess r g p
  | none => s.goOn r fun g => g

/-- ERET of a side-log record: its entry may replay (R364). -/
def State.eretLog (s : State) (core : Nat) (idx : Nat) : State :=
  let free (e : LogEntry) : LogEntry := if e.idx = idx then { e with told := false } else e
  s.modCore core fun k => { k with log := k.log.map free, saved := k.saved.map fun x => { x with log := x.log.map free } }

/-- An engine's retry in the saved state of a frozen tenant. -/
def Saved.retry (x : Saved) (kind num id : Nat) : Saved :=
  match kind with
  | 1 => { x with chans := x.chans.map fun c => (c.1, if c.1 = num then c.2.retry id else c.2) }
  | 2 => { x with mats := x.mats.map fun m => if m.why == some .record then { m with why := none } else m }
  | 3 => { x with sess := x.sess.map fun c => (c.1, if c.1 = num % 2 then c.2.retry else c.2) }
  | _ => x

/-- Operations of a group whose accesses an engine makes go on: STOPK of a session, or LSUM. -/
def State.eretEngineOp (s : State) (r : GRef) (p : Pend → Bool) : State :=
  s.modGroup r fun g => { g with pend := g.pend.map fun x => if p x && x.why == some .record then x.setWhy none else x }

/-- ERET of an engine's record (R374): the engine tries its faulting sector, unit, block or write again. -/
def State.eretEngine (s : State) (r : GRef) (ten kind num id : Nat) : State :=
  let s := s.modCore r.core fun k => k.modSaved ten fun x => x.retry kind num id
  match kind with
  | 1 => s.copyRetry r.core num id
  | 2 => s.matRetry r.core
  | 3 => (s.modSess r.core (num % 2) Session.retry).eretEngineOp r fun p => match p.kind with
    | .stopk n _ _ _ _ => n == num % 2
    | _ => false
  | 4 => s.eretEngineOp r fun p => match p.kind with
    | .lsum _ _ _ _ _ => true
    | _ => false
  | 5 =>
    let s := s.modGroup r fun g => g.modThread num fun t =>
      { t with fills := match t.fills with
        | [] => []
        | f :: fs => { f with told := false } :: fs }
    if s.stopped ten then s else s.performFills r num 5
  | _ => s

/-- A translation that software has dealt with may be asked for again: a failed pull of the page, a page request that the host has
refused (R401, R416). -/
def State.askAgain (s : State) (ten : Nat) (addr : DWord) : State :=
  let s := s.pullAgain ten (slice addr.toNat 56 16)
  match (s.tenant? ten).bind (·.pasid) with
  | none => s
  | some p => { s with host := { s.host with denied := s.host.denied.filter fun d => !(d.1 == p && d.2.1 == slice addr.toNat 54 12) } }

/-- What ERET does about a record of a group, by its cause. -/
def State.eretGroup (s : State) (r : GRef) (g : Group) (x : Record) (rpc : DWord) : State :=
  let ten := whoTen x.who
  match x.cause with
  | 0x0f => s.eretRemote r g
  | 0x10 => (s.askAgain ten x.addr).eretHeld r g
  | 0x11 => (s.askAgain ten x.addr).eretLog r.core x.info.toNat
  | 0x12 => (s.askAgain ten x.addr).eretEngine r ten (slice x.info.toNat 15 8) (slice x.info.toNat 7 0) x.id
  | 0x13 => (s.askAgain ten x.addr).eretHeld r g
  | _ => s.eretTrap r g x rpc

/-- What ERET does about a record that names no group. -/
def State.eretDevice (s : State) (x : Record) : State :=
  match x.cause with
  | 0x14 => s.fabricSend (.resolved x.info.toNat x.addr)
  | 0x1e => { s with host := { s.host with out := s.host.out ++ [.managerDone x.info.toNat] } }
  | _ => s

/-- A side-log entry or an engine outlives its group: its record is acted on all the same. -/
def lastsOn (cause : Nat) : Bool := cause == 0x11 || cause == 0x12

/-- ERET acts on a record. When HALT has ended the record's group it does nothing. -/
def State.eretAct (s : State) (core qtr : Nat) (x : Record) (rpc : DWord) : State :=
  let s := if x.cause = 0x11 then s.modCore core fun k =>
      { k with logWait := if k.logWait == some x.info.toNat then none else k.logWait } else s
  if !whoNames x.who then s.eretDevice x
  else match s.servedGroup core qtr with
    | some (r, g) => s.eretGroup r g x rpc
    | none =>
      if lastsOn x.cause && (s.quarter core qtr).serving.isSome then s.eretGroup (whoRef x.who) Group.start x rpc else s

/-- The ring head is free: the system group stops until its next record. -/
def State.freeHead (s : State) (core qtr : Nat) : State :=
  let s := s.modQuarter core qtr fun q =>
    { q with busy := false, serving := none, sysTurn := none, ring := q.ring.drop 1, head := (q.head + 1) % Config.ringRecords }
  (s.fillTurns core qtr).writeRecord core qtr

/-- Has a group requests at Clasp engines or at another device that are not performed yet? -/
def State.requestsOut (s : State) (r : GRef) : Bool :=
  s.clasp.reqs.any (fun e => e.2.any fun q => q.ref == r) || s.fabric.sent.any fun e => e.2.ref == r

/-- ERET: it waits for the system group's flags, stores and reductions, then acts on the record with the RPC that its memory holds
(R361). -/
def Ctx.eret (c : Ctx) (s : State) : Res :=
  if c.g.flags.any (· != 0) || s.requestsOut c.r then .stall s
  else
    let s := s.drainPub c.r.core fun e => e.ref == c.r
    let q := s.quarter c.r.core c.r.qtr
    match q.ring.head? with
    | none => .next s
    | some x =>
      match s.readVa (s.origin c.r c.g) .load (slice q.frec.toNat 56 0 + 16) 8 with
      | (s, .bytes bs _) => .went ((s.eretAct c.r.core c.r.qtr x (BitVec.ofNat 64 (ofLe bs))).freeHead c.r.core c.r.qtr)
      | (_, .fault c') => .trap 0x10 c' c.mask q.frec 0
      | (s, .wait _) => .stall s

/-- ERET (R374). -/
def execEret (f : Form) (s : State) : Host.Outcome State Fault Refusal :=
  s.issueForm { Rules.privileged false none none none with ctl := true } f Ctx.eret

/-! ### TLBI (R375) -/

/-- TLBI: the entries go, the stores that used one are performed, and it completes once the requests that wait at the engines have
been served. -/
def Ctx.tlbi (f : Form) (p : TlbEntry → Bool) (ten : Option Nat) (c : Ctx) (s : State) : Res :=
  let gone (e : PubEntry) : Bool := match ten with
    | some t => e.ten == t
    | none => true
  let s := (s.cores.map (·.1)).foldl (fun s k => s.drainPub k gone) (s.tlbDrop p)
  .next ((c.start f s (.tlbi ten) [] []).stampPend c.r c.g.nextId)

/-- The tenant that SERV names. -/
def Ctx.servTen (c : Ctx) (s : State) : Nat := whoTen (s.quarter c.r.core c.r.qtr).serv
/-- SUP. -/
def supBit (f : Form) : Bool := f.imm.getLsbD 2
/-- The translation whose accesses TLBI waits for; those of the supervisor are not told apart. -/
def Ctx.tlbiTen (f : Form) (c : Ctx) (s : State) : Option Nat := if supBit f then none else some (c.servTen s)
/-- The rules of TLBI. -/
def tlbiRules : Rules := Rules.privileged true none (srcF isSZ) none

/-- TLBI.page (R375). -/
def execTlbiPage (f : Form) (s : State) : Host.Outcome State Fault Refusal :=
  s.issueForm tlbiRules f fun c s => c.tlbi f (fun t => t.maps (c.servTen s) (supBit f) (slice (c.arg f f.a) 56 0)) (c.tlbiTen f s) s
/-- TLBI.ten (R375). -/
def execTlbiTen (f : Form) (s : State) : Host.Outcome State Fault Refusal :=
  s.issueForm tlbiRules f fun c s => c.tlbi f (fun t => t.sup == supBit f && (supBit f || t.ten == c.servTen s)) (c.tlbiTen f s) s
/-- TLBI.all (R375): A must be 0. -/
def execTlbiAll (f : Form) (s : State) : Host.Outcome State Fault Refusal :=
  s.issueForm tlbiRules f fun c s => if c.arg f f.a ≠ 0 then c.trapOn f 0x01 0 0 0 else c.tlbi f (fun _ => true) none s

/-! ### SLOG (R376) -/

/-- SLOG.st's value. -/
def Core.logState (k : Core) : Nat :=
  k.log.length % 1024 * 2 ^ 32 + (match k.log with
    | [] => k.logNext % 512
    | e :: _ => e.idx) % 1024

/-- SLOG.rd's value. -/
def Core.logWord (k : Core) (a : Nat) : Nat :=
  match k.log[slice a 10 2]? with
  | none => 0
  | some e => e.word (a % 4)

/-- Write sD at once. -/
def Ctx.put (f : Form) (c : Ctx) (s : State) (v : Nat) : Res := c.done s (c.putScalar f.guard f.d.num v)

/-- SLOG.st (R376). -/
def execSlogSt (f : Form) (s : State) : Host.Outcome State Fault Refusal :=
  s.issueForm (Rules.privileged false (dstF isS) none none) f fun c s => c.put f s (s.core c.r.core).logState
/-- SLOG.rd (R376). -/
def execSlogRd (f : Form) (s : State) : Host.Outcome State Fault Refusal :=
  s.issueForm (Rules.privileged false (dstF isS) scalarOrLit none) f fun c s => c.put f s ((s.core c.r.core).logWord (c.arg f f.a))
/-- Discard the side log's head; when its record is unserved, replay waits for that record's ERET (R364, R376). -/
def State.logDiscard (s : State) (core : Nat) : State :=
  s.modCore core fun k => { k with log := k.log.drop 1, logWait := match k.log with
    | e :: _ => if e.told then some e.idx else k.logWait
    | [] => k.logWait }
/-- SLOG.dh (R376). -/
def execSlogDh (f : Form) (s : State) : Host.Outcome State Fault Refusal :=
  s.issueForm (Rules.privileged false (dstF isS) none none) f fun c s =>
    c.put f (s.logDiscard c.r.core) (b2n (!(s.core c.r.core).log.isEmpty))

/-! ### FREEZE and THAW (R377, R378) -/

/-- FREEZE: a freeze in progress is joined; a frozen tenant answers ALREADY. -/
def Ctx.freeze (f : Form) (c : Ctx) (s : State) : Res :=
  let ten := c.arg f f.a % 65536
  let wait (s : State) : Res := .next (c.start f s (.freeze ten) [.scalar f.d.num] [])
  let start : Res := wait (s.freezeStart ten c.g.part (s.quarter c.r.core c.r.qtr).frzto.toNat)
  match s.tenant? ten with
  | none => start
  | some t => if t.frozen then c.answer f s (freezeWord 1 0 0) else if t.freezing then wait s else start

/-- FREEZE (R377). -/
def execFreeze (f : Form) (s : State) : Host.Outcome State Fault Refusal :=
  s.issueForm (Rules.privileged true (dstF isS) scalarOrLit none) f (Ctx.freeze f)

/-- THAW of a section: the capability check, the reads of the image, the needs, the restoring. A read that waits keeps the turn; one
that faults is the system group's own fault (R359). -/
def Ctx.thaw (f : Form) (c : Ctx) (s : State) : Res :=
  let cp := c.g.cap c.tk (f.a.num / 2)
  let k := cp.check 1 1 cp.len 0
  let at_ := c.arg f f.b
  if k ≠ 0 then c.trapOn f 0x0b k 0 (f.a.num / 2)
  else match s.readImage (s.engineOrigin c.r 0 16) c.g.part cp.base none with
    | (s, .bad) => c.answer f s (thawWord 1 0 0)
    | (s, .none) => c.answer f s (thawWord 2 0 0)
    | (s, .image i) =>
      let y := s.thawSection c.g.part i (at_ % 16) (slice at_ 7 4)
      c.answer f y.1 y.2
    | (s, .miss (.wait _)) => .stall s
    | (_, .miss (.fault sub a)) => .trap 0x12 sub c.mask (BitVec.ofNat 64 a) 0
    | (_, .miss (.path a)) => c.trapOn f 0x0a 0 a 0
    | (s, .miss (.bytes _)) => .next s

/-- THAW (R378). -/
def execThaw (f : Form) (s : State) : Host.Outcome State Fault Refusal :=
  s.issueForm (Rules.privileged true (dstF isS) (srcF isS2) scalarZeroLit) f (Ctx.thaw f)

/-- THAW.ip (R378). -/
def execThawIp (f : Form) (s : State) : Host.Outcome State Fault Refusal :=
  s.issueForm (Rules.privileged true (dstF isS) scalarOrLit none) f fun c s =>
    let y := s.thawIp (c.arg f f.a % 65536)
    c.answer f y.1 y.2

/-! ### WINSP and WINFL (R379) -/

/-- The count of B. -/
def winCount (b : Nat) : Nat := if slice b 63 16 = 0 then b % 65536 else 0

/-- A number rounded down to even in a Loupe grid. -/
def Group.ev (g : Group) (n : Nat) : Nat := if g.lpass then n / 2 * 2 else n

/-- The address of a word of a lane in the spill area, and of a hidden byte. -/
def winAddr (a lane w : Nat) : Nat := (a + 0x40000 * lane + 4 * w) % 2 ^ 57
/-- The address of the hidden byte of the register whose lower word is w. -/
def winHidden (a lane w : Nat) : Nat := (a + 0x40000 * lane + 0x34000 + w / 2) % 2 ^ 57

/-- How one move of a word ends. -/
inductive Moved where
  | ok
  | fault
  | wait
deriving DecidableEq, Repr

/-- A hidden byte (R390). -/
def Hidden.byte (h : Hidden) : Byte := BitVec.ofNat 8 (h.kind.toNat + 4 * b2n h.np + 8 * b2n h.wide)
/-- The hidden bits of a byte. -/
def Hidden.ofByte (b : Byte) : Hidden := ⟨b.setWidth 2, b.getLsbD 2, b.getLsbD 3⟩

/-- Store bytes through the tenant window. -/
def State.winStore (s : State) (o : Origin) (va : Nat) (bs : List Byte) : State × Moved :=
  match s.tenantLeaf o va true with
  | (s, .ok l) =>
    ((s.drainPub o.r.core fun e => (List.range bs.length).any fun i => (e.covers (l.add i)).isSome).writeLoc l bs false, .ok)
  | (s, .wait _) => (s, .wait)
  | (s, .fault sub) => (s.setSfault o.r sub va, .fault)
  | (s, .remote _) => (s, .wait)

/-- Load bytes through the tenant window. -/
def State.winLoad (s : State) (o : Origin) (va n : Nat) : State × Moved × List Byte :=
  match s.tenantLeaf o va false with
  | (s, .ok l) => (s, .ok, s.readBuffered o.r.core l n)
  | (s, .wait _) => (s, .wait, [])
  | (s, .fault sub) => (s.setSfault o.r sub va, .fault, [])
  | (s, .remote _) => (s, .wait, [])

/-- Store word w of a lane, and its hidden byte. -/
def State.winOut (s : State) (o : Origin) (r : GRef) (a lane w : Nat) : State × Moved :=
  match s.group? r with
  | none => (s, .fault)
  | some g => match s.winStore o (winAddr a lane w) (leBytes 4 (g.stored s.ticket lane w).toNat) with
    | (s, .ok) =>
      if g.lpass ∧ w % 2 = 0 then s.winStore o (winHidden a lane w) [((g.thread lane).hidden w).byte] else (s, .ok)
    | x => x

/-- Load word w of a lane, and its hidden byte. -/
def State.winIn (s : State) (o : Origin) (r : GRef) (a lane w : Nat) : State × Moved :=
  match s.group? r with
  | none => (s, .fault)
  | some g => match s.winLoad o (winAddr a lane w) 4 with
    | (s, .ok, bs) =>
      let put (s : State) : State := s.modGroup r fun g => g.modThread lane fun t => { t with stack := mset t.stack w (BitVec.ofNat 32 (ofLe bs)) }
      if g.lpass ∧ w % 2 = 0 then
        (match s.winLoad o (winHidden a lane w) 1 with
         | (s, .ok, h) => ((put s).modGroup r fun g => g.setHidden lane w (Hidden.ofByte (h.headD 0)), .ok)
         | (s, m, _) => (s, m))
      else (put s, .ok)
    | (s, m, _) => (s, m)

/-- Move words one after another: the number moved before a fault, or `none` at a wait. -/
def State.winMoves (s : State) (one : State → Nat → State × Moved) : List Nat → State × Option Nat
  | [] => (s, some 0)
  | w :: ws => match one s w with
    | (s, .ok) => (match s.winMoves one ws with
      | (s, some n) => (s, some (n + 1))
      | x => x)
    | (s, .fault) => (s, some 0)
    | (s, .wait) => (s, none)

/-- The words that WINSP (`out`) or WINFL moves for a thread, in order. -/
def Group.winWordsOf (g : Group) (out : Bool) (n lane : Nat) : List Nat :=
  let t := g.thread lane
  if out then (List.range (g.ev (min n (t.wb - t.rb)))).map fun i => t.rb + i
  else (List.range (g.ev (min n (min t.rb (t.rb + g.words - t.wb - g.winWords))))).map fun i => t.rb - 1 - i

/-- Move the words of some threads: the smallest number moved, or `none` at a wait. -/
def State.winLanes (s : State) (out : Bool) (o : Origin) (r : GRef) (a n : Nat) : List Nat → State × Option Nat
  | [] => (s, some 65536)
  | l :: ls => match s.group? r with
    | none => (s, some 0)
    | some g =>
      match s.winMoves (fun s w => if out then s.winOut o r a l w else s.winIn o r a l w) (g.winWordsOf out n l) with
      | (s, none) => (s, none)
      | (s, some k) =>
        let s := s.modGroup r fun g => g.modThread l fun t => { t with rb := if out then t.rb + k else t.rb - k }
        match s.winLanes out o r a n ls with
        | (s, some m) => (s, some (min k m))
        | x => x

/-- WINSP and WINFL: the threads in MASK of the record being served. An access that waits keeps the turn, with nothing moved. -/
def Ctx.win (out : Bool) (f : Form) (c : Ctx) (s : State) : Res :=
  let q := s.quarter c.r.core c.r.qtr
  let lanes := lanesOf ((q.ring.head?.map (·.mask)).getD 0)
  match s.servedGroup c.r.core c.r.qtr with
  | none => c.answer f s 0
  | some (r, _) =>
    if lanes.isEmpty then c.answer f s 0
    else match s.winLanes out (s.origin c.r c.g) r (c.arg f f.a) (winCount (c.arg f f.b)) lanes with
      | (s', none) => .stall { s with moves := s'.moves, fabric := { s.fabric with pulls := s'.fabric.pulls, out := s'.fabric.out } }
      | (s', some n) => c.answer f s' (BitVec.ofNat 64 n)

/-- The rules of WINSP and WINFL. -/
def winRules : Rules := Rules.privileged true (dstF isS) (srcF isS) scalarOrLit

/-- WINSP (R379). -/
def execWinsp (f : Form) (s : State) : Host.Outcome State Fault Refusal := s.issueForm winRules f (Ctx.win true f)
/-- WINFL (R379). -/
def execWinfl (f : Form) (s : State) : Host.Outcome State Fault Refusal := s.issueForm winRules f (Ctx.win false f)

/-! ### HALT (R380) -/

/-- HALT.grid: the grid of the group that SERV names ends. -/
def Ctx.haltGrid (f : Form) (c : Ctx) (s : State) : Res :=
  match s.servedGroup c.r.core c.r.qtr with
  | none => c.answer f s 0
  | some (_, g) =>
    let y := s.haltGrid g.part g.handle
    c.answer f y.1 (BitVec.ofNat 64 y.2)

/-- HALT.grid (R380). -/
def execHaltGrid (f : Form) (s : State) : Host.Outcome State Fault Refusal :=
  s.issueForm (Rules.privileged true (dstF isS) none none) f (Ctx.haltGrid f)

/-- HALT.ten (R380). -/
def execHaltTen (f : Form) (s : State) : Host.Outcome State Fault Refusal :=
  s.issueForm (Rules.privileged true (dstF isS) scalarOrLit none) f fun c s =>
    let y := s.haltTen (c.arg f f.a % 65536)
    c.answer f y.1 (BitVec.ofNat 64 y.2)

end Sys2Proof.Machine
end

