-- ==== Sys2Proof/Machine/Dispatch.lean ====
section
/-! DEFINITION. The dispatch of every constructor of `Instr` to its meaning, one arm each. -/

namespace Sys2Proof.Machine

open Sys2Proof

/-- The meaning of an instruction for the group whose barrel turn it is, or of an event. -/
def exec (i : Instr) (s : State) : Host.Outcome State Fault Refusal :=
  match i with
  | .nop => Sys2Proof.Machine.execNop s
  | .nopExtended => Sys2Proof.Machine.execNopExtended s
  | .br g off => Sys2Proof.Machine.execBr g off s
  | .brWide g off => Sys2Proof.Machine.execBrWide g off s
  | .bru g off => Sys2Proof.Machine.execBru g off s
  | .bruWide g off => Sys2Proof.Machine.execBruWide g off s
  | .jmp h g a => Sys2Proof.Machine.execJmp h g a s
  | .jmpExtended h g a => Sys2Proof.Machine.execJmpExtended h g a s
  | .call g fr off => Sys2Proof.Machine.execCall g fr off s
  | .callWide g fr off => Sys2Proof.Machine.execCallWide g fr off s
  | .ret g => Sys2Proof.Machine.execRet g s
  | .retExtended g => Sys2Proof.Machine.execRetExtended g s
  | .exit g => Sys2Proof.Machine.execExit g s
  | .exitExtended g => Sys2Proof.Machine.execExitExtended g s
  | .add f => Sys2Proof.Machine.execAdd f s
  | .addExtended f => Sys2Proof.Machine.execAddExtended f s
  | .sub f => Sys2Proof.Machine.execSub f s
  | .subExtended f => Sys2Proof.Machine.execSubExtended f s
  | .mul f => Sys2Proof.Machine.execMul f s
  | .mulExtended f => Sys2Proof.Machine.execMulExtended f s
  | .mad f => Sys2Proof.Machine.execMad f s
  | .madExtended f => Sys2Proof.Machine.execMadExtended f s
  | .and f => Sys2Proof.Machine.execAnd f s
  | .andExtended f => Sys2Proof.Machine.execAndExtended f s
  | .or f => Sys2Proof.Machine.execOr f s
  | .orExtended f => Sys2Proof.Machine.execOrExtended f s
  | .xor f => Sys2Proof.Machine.execXor f s
  | .xorExtended f => Sys2Proof.Machine.execXorExtended f s
  | .shl f => Sys2Proof.Machine.execShl f s
  | .shlExtended f => Sys2Proof.Machine.execShlExtended f s
  | .shr f => Sys2Proof.Machine.execShr f s
  | .shrExtended f => Sys2Proof.Machine.execShrExtended f s
  | .sar f => Sys2Proof.Machine.execSar f s
  | .sarExtended f => Sys2Proof.Machine.execSarExtended f s
  | .min f => Sys2Proof.Machine.execMin f s
  | .minExtended f => Sys2Proof.Machine.execMinExtended f s
  | .max f => Sys2Proof.Machine.execMax f s
  | .maxExtended f => Sys2Proof.Machine.execMaxExtended f s
  | .cmp f => Sys2Proof.Machine.execCmp f s
  | .cmpExtended f => Sys2Proof.Machine.execCmpExtended f s
  | .sel f => Sys2Proof.Machine.execSel f s
  | .selExtended f => Sys2Proof.Machine.execSelExtended f s
  | .mov f => Sys2Proof.Machine.execMov f s
  | .movExtended f => Sys2Proof.Machine.execMovExtended f s
  | .lea f => Sys2Proof.Machine.execLea f s
  | .leaExtended f => Sys2Proof.Machine.execLeaExtended f s
  | .fadd f => Sys2Proof.Machine.execFadd f s
  | .faddExtended f => Sys2Proof.Machine.execFaddExtended f s
  | .fmul f => Sys2Proof.Machine.execFmul f s
  | .fmulExtended f => Sys2Proof.Machine.execFmulExtended f s
  | .fma f => Sys2Proof.Machine.execFma f s
  | .fmaExtended f => Sys2Proof.Machine.execFmaExtended f s
  | .fmin f => Sys2Proof.Machine.execFmin f s
  | .fminExtended f => Sys2Proof.Machine.execFminExtended f s
  | .fmax f => Sys2Proof.Machine.execFmax f s
  | .fmaxExtended f => Sys2Proof.Machine.execFmaxExtended f s
  | .fcmp f => Sys2Proof.Machine.execFcmp f s
  | .fcmpExtended f => Sys2Proof.Machine.execFcmpExtended f s
  | .ld f => Sys2Proof.Machine.execLd f s
  | .ldExtended f => Sys2Proof.Machine.execLdExtended f s
  | .st f => Sys2Proof.Machine.execSt f s
  | .stExtended f => Sys2Proof.Machine.execStExtended f s
  | .ldc f => Sys2Proof.Machine.execLdc f s
  | .ldcExtended f => Sys2Proof.Machine.execLdcExtended f s
  | .addc f => Sys2Proof.Machine.execAddc f s
  | .mulh f => Sys2Proof.Machine.execMulh f s
  | .div f => Sys2Proof.Machine.execDiv f s
  | .rem f => Sys2Proof.Machine.execRem f s
  | .neg f => Sys2Proof.Machine.execNeg f s
  | .abs f => Sys2Proof.Machine.execAbs f s
  | .not f => Sys2Proof.Machine.execNot f s
  | .rot f => Sys2Proof.Machine.execRot f s
  | .popc f => Sys2Proof.Machine.execPopc f s
  | .clz f => Sys2Proof.Machine.execClz f s
  | .brev f => Sys2Proof.Machine.execBrev f s
  | .bfx f => Sys2Proof.Machine.execBfx f s
  | .bfi f => Sys2Proof.Machine.execBfi f s
  | .idx f => Sys2Proof.Machine.execIdx f s
  | .fsub f => Sys2Proof.Machine.execFsub f s
  | .frcp f => Sys2Proof.Machine.execFrcp f s
  | .frsq f => Sys2Proof.Machine.execFrsq f s
  | .fsqrt f => Sys2Proof.Machine.execFsqrt f s
  | .fex2 f => Sys2Proof.Machine.execFex2 f s
  | .flg2 f => Sys2Proof.Machine.execFlg2 f s
  | .frnd f => Sys2Proof.Machine.execFrnd f s
  | .fclass f => Sys2Proof.Machine.execFclass f s
  | .vdot4 f => Sys2Proof.Machine.execVdot4 f s
  | .hfma2 f => Sys2Proof.Machine.execHfma2 f s
  | .hadd2 f => Sys2Proof.Machine.execHadd2 f s
  | .hmul2 f => Sys2Proof.Machine.execHmul2 f s
  | .cvtTo f => Sys2Proof.Machine.execCvtTo f s
  | .cvtFr f => Sys2Proof.Machine.execCvtFr f s
  | .cvtBlk f => Sys2Proof.Machine.execCvtBlk f s
  | .cvtUblk f => Sys2Proof.Machine.execCvtUblk f s
  | .fcvt f => Sys2Proof.Machine.execFcvt f s
  | .icvt f => Sys2Proof.Machine.execIcvt f s
  | .rq f => Sys2Proof.Machine.execRq f s
  | .pln f => Sys2Proof.Machine.execPln f s
  | .unpl f => Sys2Proof.Machine.execUnpl f s
  | .rfl f => Sys2Proof.Machine.execRfl f s
  | .matchLanes f => Sys2Proof.Machine.execMatchLanes f s
  | .voteAny f => Sys2Proof.Machine.execVoteAny f s
  | .voteAll f => Sys2Proof.Machine.execVoteAll f s
  | .voteBal f => Sys2Proof.Machine.execVoteBal f s
  | .shflIdx f => Sys2Proof.Machine.execShflIdx f s
  | .shflUp f => Sys2Proof.Machine.execShflUp f s
  | .shflDn f => Sys2Proof.Machine.execShflDn f s
  | .shflXor f => Sys2Proof.Machine.execShflXor f s
  | .lmaskLt f => Sys2Proof.Machine.execLmaskLt f s
  | .lmaskLe f => Sys2Proof.Machine.execLmaskLe f s
  | .lmaskGt f => Sys2Proof.Machine.execLmaskGt f s
  | .lmaskGe f => Sys2Proof.Machine.execLmaskGe f s
  | .bcst f => Sys2Proof.Machine.execBcst f s
  | .calls f => Sys2Proof.Machine.execCalls f s
  | .yield f => Sys2Proof.Machine.execYield f s
  | .trap f => Sys2Proof.Machine.execTrap f s
  | .waitf f => Sys2Proof.Machine.execWaitf f s
  | .acq f => Sys2Proof.Machine.execAcq f s
  | .rel f => Sys2Proof.Machine.execRel f s
  | .ldk f => Sys2Proof.Machine.execLdk f s
  | .stk f => Sys2Proof.Machine.execStk f s
  | .atomAdd f => Sys2Proof.Machine.execAtomAdd f s
  | .atomFadd f => Sys2Proof.Machine.execAtomFadd f s
  | .atomMin f => Sys2Proof.Machine.execAtomMin f s
  | .atomMax f => Sys2Proof.Machine.execAtomMax f s
  | .atomAnd f => Sys2Proof.Machine.execAtomAnd f s
  | .atomOr f => Sys2Proof.Machine.execAtomOr f s
  | .atomXor f => Sys2Proof.Machine.execAtomXor f s
  | .atomXchg f => Sys2Proof.Machine.execAtomXchg f s
  | .atomCas f => Sys2Proof.Machine.execAtomCas f s
  | .redAdd f => Sys2Proof.Machine.execRedAdd f s
  | .redFadd f => Sys2Proof.Machine.execRedFadd f s
  | .redMin f => Sys2Proof.Machine.execRedMin f s
  | .redMax f => Sys2Proof.Machine.execRedMax f s
  | .redAnd f => Sys2Proof.Machine.execRedAnd f s
  | .redOr f => Sys2Proof.Machine.execRedOr f s
  | .redXor f => Sys2Proof.Machine.execRedXor f s
  | .poolA f => Sys2Proof.Machine.execPoolA f s
  | .poolF f => Sys2Proof.Machine.execPoolF f s
  | .cpy f => Sys2Proof.Machine.execCpy f s
  | .cpwp f => Sys2Proof.Machine.execCpwp f s
  | .cpwt f => Sys2Proof.Machine.execCpwt f s
  | .cpcan f => Sys2Proof.Machine.execCpcan f s
  | .binit f => Sys2Proof.Machine.execBinit f s
  | .barv f => Sys2Proof.Machine.execBarv f s
  | .bexp f => Sys2Proof.Machine.execBexp f s
  | .bwait f => Sys2Proof.Machine.execBwait f s
  | .btry f => Sys2Proof.Machine.execBtry f s
  | .phase f => Sys2Proof.Machine.execPhase f s
  | .fence f => Sys2Proof.Machine.execFence f s
  | .fopd f => Sys2Proof.Machine.execFopd f s
  | .tokwt f => Sys2Proof.Machine.execTokwt f s
  | .mma f => Sys2Proof.Machine.execMma f s
  | .mmac f => Sys2Proof.Machine.execMmac f s
  | .msmx f => Sys2Proof.Machine.execMsmx f s
  | .mdrn f => Sys2Proof.Machine.execMdrn f s
  | .mzero f => Sys2Proof.Machine.execMzero f s
  | .mlda f => Sys2Proof.Machine.execMlda f s
  | .mside f => Sys2Proof.Machine.execMside f s
  | .cnar f => Sys2Proof.Machine.execCnar f s
  | .cperm f => Sys2Proof.Machine.execCperm f s
  | .cget f => Sys2Proof.Machine.execCget f s
  | .cchk f => Sys2Proof.Machine.execCchk f s
  | .cmint f => Sys2Proof.Machine.execCmint f s
  | .lfill f => Sys2Proof.Machine.execLfill f s
  | .lsplit f => Sys2Proof.Machine.execLsplit f s
  | .ivpt f => Sys2Proof.Machine.execIvpt f s
  | .ivlo f => Sys2Proof.Machine.execIvlo f s
  | .ivhi f => Sys2Proof.Machine.execIvhi f s
  | .lsum f => Sys2Proof.Machine.execLsum f s
  | .sopen f => Sys2Proof.Machine.execSopen f s
  | .srun f => Sys2Proof.Machine.execSrun f s
  | .stopk f => Sys2Proof.Machine.execStopk f s
  | .sstat f => Sys2Proof.Machine.execSstat f s
  | .launch f => Sys2Proof.Machine.execLaunch f s
  | .lqry f => Sys2Proof.Machine.execLqry f s
  | .lcan f => Sys2Proof.Machine.execLcan f s
  | .sysrd f => Sys2Proof.Machine.execSysrd f s
  | .syswr f => Sys2Proof.Machine.execSyswr f s
  | .eret f => Sys2Proof.Machine.execEret f s
  | .tlbiPage f => Sys2Proof.Machine.execTlbiPage f s
  | .tlbiTen f => Sys2Proof.Machine.execTlbiTen f s
  | .tlbiAll f => Sys2Proof.Machine.execTlbiAll f s
  | .slogSt f => Sys2Proof.Machine.execSlogSt f s
  | .slogRd f => Sys2Proof.Machine.execSlogRd f s
  | .slogDh f => Sys2Proof.Machine.execSlogDh f s
  | .freeze f => Sys2Proof.Machine.execFreeze f s
  | .thaw f => Sys2Proof.Machine.execThaw f s
  | .thawIp f => Sys2Proof.Machine.execThawIp f s
  | .winsp f => Sys2Proof.Machine.execWinsp f s
  | .winfl f => Sys2Proof.Machine.execWinfl f s
  | .haltGrid f => Sys2Proof.Machine.execHaltGrid f s
  | .haltTen f => Sys2Proof.Machine.execHaltTen f s
  | .barrelTurn => Sys2Proof.Machine.execBarrelTurn s
  | .quantumExpiry r => Sys2Proof.Machine.execQuantumExpiry r s
  | .longLatencyCompletion r id => Sys2Proof.Machine.execLongLatencyCompletion r id s
  | .acquireDeadlockBreak core qtr => Sys2Proof.Machine.execAcquireDeadlockBreak core qtr s
  | .spilledRefill core qtr => Sys2Proof.Machine.execSpilledRefill core qtr s
  | .gridRetire part handle => Sys2Proof.Machine.execGridRetire part handle s
  | .gridStart part => Sys2Proof.Machine.execGridStart part s
  | .clusterAdmission part handle idx => Sys2Proof.Machine.execClusterAdmission part handle idx s
  | .cooperativeAdmission part handle => Sys2Proof.Machine.execCooperativeAdmission part handle s
  | .coreWithdraw part cores => Sys2Proof.Machine.execCoreWithdraw part cores s
  | .parkedResume part handle => Sys2Proof.Machine.execParkedResume part handle s
  | .publicationBufferDrain core => Sys2Proof.Machine.execPublicationBufferDrain core s
  | .sideLogReplay core => Sys2Proof.Machine.execSideLogReplay core s
  | .faultRecordWrite core qtr => Sys2Proof.Machine.execFaultRecordWrite core qtr s
  | .systemGroupService core qtr => Sys2Proof.Machine.execSystemGroupService core qtr s
  | .claspRequest engine => Sys2Proof.Machine.execClaspRequest engine s
  | .hotLineWriteback engine line => Sys2Proof.Machine.execHotLineWriteback engine line s
  | .pageMoveRequest ten va m => Sys2Proof.Machine.execPageMoveRequest ten va m s
  | .pageMoveComplete ten va => Sys2Proof.Machine.execPageMoveComplete ten va s
  | .engineCompress ten va => Sys2Proof.Machine.execEngineCompress ten va s
  | .copySector core ch recv => Sys2Proof.Machine.execCopySector core ch recv s
  | .matrixOperationStart core => Sys2Proof.Machine.execMatrixOperationStart core s
  | .matrixUnit core => Sys2Proof.Machine.execMatrixUnit core s
  | .matrixOperationComplete core => Sys2Proof.Machine.execMatrixOperationComplete core s
  | .mmacQuarterEnqueue core => Sys2Proof.Machine.execMmacQuarterEnqueue core s
  | .barrierUnitOperation core => Sys2Proof.Machine.execBarrierUnitOperation core s
  | .strandBlock core sess => Sys2Proof.Machine.execStrandBlock core sess s
  | .loupeBatchStart r => Sys2Proof.Machine.execLoupeBatchStart r s
  | .freezeReachCore ten core => Sys2Proof.Machine.execFreezeReachCore ten core s
  | .reconvergenceTimeout ten core => Sys2Proof.Machine.execReconvergenceTimeout ten core s
  | .freezeComplete ten => Sys2Proof.Machine.execFreezeComplete ten s
  | .peerRequest q => Sys2Proof.Machine.execPeerRequest q s
  | .resolvedMessage dev va => Sys2Proof.Machine.execResolvedMessage dev va s
  | .remoteTimeout r id => Sys2Proof.Machine.execRemoteTimeout r id s
  | .pagePull ten va => Sys2Proof.Machine.execPagePull ten va s
  | .pullService ten va dev => Sys2Proof.Machine.execPullService ten va dev s
  | .pullRefusalTimeout ten va => Sys2Proof.Machine.execPullRefusalTimeout ten va s
  | .forwardedAtomic q => Sys2Proof.Machine.execForwardedAtomic q s
  | .routeSwitch old new => Sys2Proof.Machine.execRouteSwitch old new s
  | .migration ten act => Sys2Proof.Machine.execMigration ten act s
  | .managerRequest core qtr code ten => Sys2Proof.Machine.execManagerRequest core qtr code ten s
  | .haltNotice core => Sys2Proof.Machine.execHaltNotice core s
  | .coreRepair core spare => Sys2Proof.Machine.execCoreRepair core spare s
  | .voltageReplan => Sys2Proof.Machine.execVoltageReplan s
  | .hostRead off len => Sys2Proof.Machine.execHostRead off len s
  | .hostWrite off data => Sys2Proof.Machine.execHostWrite off data s
  | .hostAtomicop off size op uns value cmp => Sys2Proof.Machine.execHostAtomicop off size op uns value cmp s
  | .hostFaultService => Sys2Proof.Machine.execHostFaultService s
  | .caphi bell value => Sys2Proof.Machine.execCaphi bell value s
  | .hostLaunchOutcome bell => Sys2Proof.Machine.execHostLaunchOutcome bell s
  | .crst => Sys2Proof.Machine.execCrst s
  | .attestationSign => Sys2Proof.Machine.execAttestationSign s
  | .hostRegisterWrite off data => Sys2Proof.Machine.execHostRegisterWrite off data s
  | .atsInvalidateRequest pasid va => Sys2Proof.Machine.execAtsInvalidateRequest pasid va s
  | .pageRequestResponse pasid va code => Sys2Proof.Machine.execPageRequestResponse pasid va code s
  | .computeReset => Sys2Proof.Machine.execComputeReset s
  | .computeResetComplete => Sys2Proof.Machine.execComputeResetComplete s
  | .fullReset => Sys2Proof.Machine.execFullReset s
  | .powerGood => Sys2Proof.Machine.execPowerGood s
  | .bringupStepEnd => Sys2Proof.Machine.execBringupStepEnd s
  | .attestationReportSigned => Sys2Proof.Machine.execAttestationReportSigned s
  | .atsTranslationCompletion pasid va ans => Sys2Proof.Machine.execAtsTranslationCompletion pasid va ans s
  | .partitionCreate pid ndev didx cores => Sys2Proof.Machine.execPartitionCreate pid ndev didx cores s
  | .lsumBlock r id => Sys2Proof.Machine.execLsumBlock r id s
  | .peerRetryResponse r id => Sys2Proof.Machine.execPeerRetryResponse r id s
  | .peerRefusalResponse r id => Sys2Proof.Machine.execPeerRefusalResponse r id s

end Sys2Proof.Machine
end

