-- ==== Sys2Proof/Machine/Step.lean ====
section
/-! DEFINITION. One step of the device: the next due event, or, when none is due, a barrel turn with the instruction
that it issues. -/

namespace Sys2Proof.Machine

open Sys2Proof

/-- The event that comes next: the oldest due one, or a barrel turn. -/
def State.nextEvent (s : State) : Instr :=
  match s.agenda with
  | [] => .barrelTurn
  | i :: _ => i

/-- What follows the step's work: after a barrel turn the turn ends and the due events are listed. -/
def State.close (s : State) (turn : Bool) : State := if turn then s.endTurn.endStep else s.endStep

/-- Run the instruction that a barrel turn has read, if any. -/
def State.runIssued (s : State) (turn : Bool) : Host.Outcome State Fault Refusal :=
  match s.issue with
  | none => .next (s.close turn)
  | some i => match exec i { s with issue := none } with
    | .next s' => .next (s'.close turn)
    | .fault r => .fault r
    | .refused r => .refused r

/-- One step (R132 and the chapters of the engines): one event of the device, or one barrel turn. -/
def step (s : State) : Host.Outcome State Fault Refusal :=
  match exec s.nextEvent { s with agenda := s.agenda.drop 1 } with
  | .next s' => s'.runIssued s.agenda.isEmpty
  | .fault r => .fault r
  | .refused r => .refused r

/-- The state with an instruction where the next step fetches: the bits of `w` below `nbits`, the rest of the 20
bytes 0 (assumption 13). -/
def State.withFetchWord (s : State) (nbits w : Nat) : State := s.boot (leBytes 20 (w % 2 ^ nbits))

end Sys2Proof.Machine
end

