-- ==== Sys2Proof/Safety.lean ====
section
/-! DEFINITION. What counts as a safe state and a safe run. -/

namespace Sys2Proof

/-- A state between steps: no instruction is latched, and the barrel turn names a core of the mesh and one of its
quarters. -/
def Between (s : Machine.State) : Prop := s.issue = none ∧ s.turn.core < 256 ∧ s.turn.qtr < 4

/-- Every memory of the device has the canonical form. -/
def MemoriesWf (s : Machine.State) : Prop :=
  Machine.Memory.wf s.mem = true ∧ ∀ c ∈ s.cores, Machine.Memory.wf c.2.spad = true

/-- Each place holds at most one group: the groups stand by rising places. -/
def PlacesRise (s : Machine.State) : Prop := (s.groups.map (·.1)).Pairwise (· < ·)

/-- A step that neither faults nor refuses. -/
def Goes (s : Machine.State) : Prop := ∃ t, Machine.step s = .next t

end Sys2Proof
end

