-- ==== Sys2Proof/Claims.lean ====
section
/-! DEFINITION. The terms of the statements: what an issue is, what operands the manual admits, what an instruction leaves of
the device, and the manual's own formulas for results. -/

namespace Sys2Proof.Claims

open Sys2Proof Sys2Proof.Machine

/-! ### Issue -/

/-- An instruction issues in an ordinary grid with no undecided guard, and some thread's guard holds (R20, R141). -/
structure Issuing (s : State) (c : Ctx) (gd : Guard) : Prop where
  ctx   : s.ctx = some c
  plain : c.g.lpass = false
  sure  : ∀ l ∈ c.set, c.guard gd l ≠ .u
  runs  : c.on gd ≠ []

/-- A thread past an instruction of the issue's length (R124). -/
def past (c : Ctx) (t : Thread) : Thread :=
  { t with pc := t.pc + BitVec.ofNat 64 (lenSize c.len), cpos := t.cpos + 1, left := t.left.map (· - 1) }

/-- The group that a short-latency instruction leaves: its own change of the group's registers, the latches aged and captured
(R19), each thread of the issuing set past the instruction with its own change, every other thread and field as it was. -/
def Left (c : Ctx) (hold : BitVec 2) (a : Opnd) (lit : Option DWord) (aw : Nat) (own : Group → Group)
    (upd : Nat → Thread → Thread) (g : Group) : Prop :=
  g = { own c.g with threads := g.threads, latches := (c.latched hold a lit aw c.g).latches } ∧
    ∀ l, g.thread l = if l ∈ c.set then past c (upd l (c.g.thread l)) else c.g.thread l

/-- The state that it leaves: the issuing group changed so, and nothing else of the device. -/
def After (s : State) (c : Ctx) (f : Form) (aw : Nat) (own : Group → Group) (upd : Nat → Thread → Thread) (t : State) : Prop :=
  ∃ g, t = s.setGroup c.r g ∧ Left c f.hold f.a f.lit aw own upd g

/-- The state after an instruction without operands. -/
def AfterBare (s : State) (c : Ctx) (t : State) : Prop :=
  ∃ g, t = s.setGroup c.r g ∧ Left c 0 .zero none 64 id (fun _ th => th) g

/-! ### Operands (R19, R117, R162, R163) -/

/-- A source that an instruction at width w admits in a thread's own right. -/
def threadSource (g : Group) (lit : Option DWord) (w : Nat) : Opnd → Bool
  | .v n => w != 64 || n.val % 2 == 0
  | .s _ => true
  | .l n => (g.latches.getD n.val Latch.empty).inRange
  | .zero => true
  | .lane => true
  | .lit => lit.isSome
  | .rsv _ => false

/-- A group-uniform source. -/
def uniformSource (lit : Option DWord) : Opnd → Bool
  | .s _ => true
  | .zero => true
  | .lit => lit.isSome
  | _ => false

/-- A capability's name: an even scalar (R118). -/
def capName : Opnd → Bool
  | .s n => n.val % 2 == 0
  | _ => false

/-- A predicate's number in an operand field (R120). -/
def predName : Opnd → Option Nat
  | .v n => if n.val < 8 then some n.val else none
  | _ => none

/-- A value of w bits written into vector register n, or into the pair n, n + 1 (R142, R163). -/
def putVec (n w v : Nat) (t : Thread) : Thread :=
  if w = 64 then
    { t with stack := mset (mset t.stack (t.wb + n) (BitVec.ofNat 32 (v % 2 ^ 32))) (t.wb + n + 1) (BitVec.ofNat 32 (v / 2 ^ 32)) }
  else { t with stack := mset t.stack (t.wb + n) (BitVec.ofNat 32 v) }

/-- A value written into scalar register n; the tag of its pair is cleared (R80). -/
def putScal (n v : Nat) (g : Group) : Group :=
  { g with scal := lput 0 g.scal n (BitVec.ofNat 64 v), ctag := g.ctag &&& ~~~(1#24 <<< (n / 2)) }

/-- A capability written into register cn with its tag (R78, R80). -/
def putCap (n : Nat) (k : Cap) (g : Group) : Group :=
  let g := putScal (2 * n + 1) (k.bits.extractLsb' 64 64).toNat (putScal (2 * n) (k.bits.extractLsb' 0 64).toNat g)
  if k.tag then { g with ctag := g.ctag ||| (1#24 <<< n) } else g

/-- A truth value written into predicate n; p0 discards it (R120). -/
def putPred (n : Nat) (v : Bool) (t : Thread) : Thread :=
  if n = 0 then t else { t with preds := lput .f t.preds (n - 1) (if v then .t else .f) }

/-- No uncovered operation writes the register or pair n of some lanes (R140). -/
def freeVec (c : Ctx) (ls : List Nat) (n w : Nat) : Bool :=
  ls.all fun l => (List.range (w / 32)).all fun i => !c.g.uncovered (.word l ((c.g.thread l).wb + n + i))

/-- No uncovered operation writes scalar n. -/
def freeScal (c : Ctx) (n : Nat) : Bool := !c.g.uncovered (.scalar n)

/-- No uncovered operation writes predicate n of some lanes. -/
def freePred (c : Ctx) (ls : List Nat) (n : Nat) : Bool := ls.all fun l => !c.g.uncovered (.pred l n)

/-! ### Results in registers -/

/-- What a short-latency instruction does to its group, and the conditions on its operands: `own` changes the group's
registers, `upd` a thread of the issuing set; `aw` is the width at which A is read, for the hold (R19). -/
structure Effect where
  form : Form
  ok   : Bool
  aw   : Nat
  own  : Group → Group
  upd  : Nat → Thread → Thread

/-- An operation as the manual's tables give it: its form, the width of its result, its sources with the width at which the
field is checked and the width at which it is read, and the result of the values read. -/
structure RegOp where
  form : Form
  dw   : Nat
  aw   : Nat
  srcs : List (Opnd × Nat × Nat)
  val  : List Nat → Nat

/-- The values that a thread reads. -/
def RegOp.read (o : RegOp) (c : Ctx) (lane : Nat) : List Nat :=
  o.srcs.map fun x => c.g.read c.tk o.form.lit x.2.2 lane x.1

/-- Some threads write vector register n, or the pair n, n + 1, each with its own value. -/
def vecEffect (c : Ctx) (f : Form) (aw : Nat) (ls : List Nat) (n w : Nat) (ok : Bool) (val : Nat → Nat) : Effect :=
  ⟨f, ok && (w != 64 || n % 2 == 0) && freeVec c ls n w, aw, id, fun l t => if l ∈ ls then putVec n w (val l) t else t⟩

/-- The group writes scalar register n once. -/
def scalEffect (c : Ctx) (f : Form) (aw n : Nat) (ok : Bool) (v : Nat) : Effect :=
  ⟨f, ok && freeScal c n, aw, putScal n v, fun _ t => t⟩

/-- The threads whose guard holds write predicate n. -/
def predEffect (c : Ctx) (f : Form) (aw n : Nat) (ok : Bool) (val : Nat → Bool) : Effect :=
  ⟨f, ok && freePred c (c.on f.guard) n, aw, id, fun l t => if l ∈ c.on f.guard then putPred n (val l) t else t⟩

/-- No effect that a statement speaks of. -/
def noEffect (f : Form) : Effect := ⟨f, false, 0, id, fun _ t => t⟩

/-- What an operation does (R163): with a vector destination each thread whose guard holds writes its own result; with a
scalar one the group writes once, zero-extended. -/
def RegOp.effect (o : RegOp) (c : Ctx) : Effect :=
  match o.form.d with
  | .v n => vecEffect c o.form o.aw (c.on o.form.guard) n.val o.dw
      (o.srcs.all fun x => threadSource c.g o.form.lit x.2.1 x.1) fun l => o.val (o.read c l)
  | .s n => scalEffect c o.form o.aw n.val (o.srcs.all fun x => uniformSource o.form.lit x.1) (o.val (o.read c 0))
  | _ => noEffect o.form

/-- An operation whose result is a predicate. -/
structure PredOp where
  form : Form
  aw   : Nat
  srcs : List (Opnd × Nat × Nat)
  val  : List Nat → Bool

/-- What it does: each thread whose guard holds writes its own truth value into predicate D. -/
def PredOp.effect (o : PredOp) (c : Ctx) : Effect :=
  match predName o.form.d with
  | some n => predEffect c o.form o.aw n (o.srcs.all fun x => threadSource c.g o.form.lit x.2.1 x.1)
      fun l => o.val (o.srcs.map fun x => c.g.read c.tk o.form.lit x.2.2 l x.1)
  | none => noEffect o.form

/-! ### Integer formulas (R167 to R175) -/

/-- x read as a W-bit value: Ug under UNS, Sg otherwise. -/
def valIn (uns : Bool) (w x : Nat) : Int := if uns then ((BitVec.ofNat w x).toNat : Int) else (BitVec.ofNat w x).toInt

/-- An exact integer as W bits: clamped to the type under SAT, else taken modulo 2^W. -/
def valLim (uns sat : Bool) (w : Nat) (v : Int) : Nat :=
  let lo : Int := if uns then 0 else -(2 ^ (w - 1))
  let hi : Int := if uns then 2 ^ w - 1 else 2 ^ (w - 1) - 1
  (BitVec.ofInt w (if sat then max lo (min v hi) else v)).toNat

/-- Operand n of the values read. -/
def arg (vs : List Nat) (n : Nat) : Nat := vs.getD n 0

/-- DIV: zero divisors give all ones; the quotient truncates toward zero. -/
def valDiv (uns sat : Bool) (w a b : Nat) : Nat :=
  if valIn uns w b = 0 then 2 ^ w - 1
  else valLim uns (sat && !uns) w (Int.tdiv (valIn uns w a) (valIn uns w b))

/-- REM: a zero divisor gives A; the remainder takes the sign of the dividend. -/
def valRem (uns : Bool) (w a b : Nat) : Nat :=
  if valIn uns w b = 0 then a % 2 ^ w else valLim uns false w (Int.tmod (valIn uns w a) (valIn uns w b))

/-- The number of one bits of a word. -/
def ones {w : Nat} (x : BitVec w) : Nat := (List.range w).countP x.getLsbD

/-- The number of zero bits above the highest one bit. -/
def leading {w : Nat} (x : BitVec w) : Nat := ((List.range w).takeWhile fun i => !x.getMsbD i).length

/-- BFX: the field at p of length l, cut at the word's end. -/
def valBfx (uns : Bool) (w a pos len : Nat) : Nat :=
  let p := min pos w
  let l := min len (w - p)
  let x := (BitVec.ofNat w a >>> p).setWidth l
  if uns then x.toNat else (x.signExtend w).toNat

/-- BFI: the bits p to p + l − 1 of D are replaced by the low bits of A. -/
def valBfi (w d a pos len : Nat) : Nat :=
  let p := min pos w
  let l := min len (w - p)
  let m : BitVec w := ((BitVec.allOnes w) >>> (w - l)) <<< p
  ((BitVec.ofNat w d &&& ~~~m) ||| ((BitVec.ofNat w a <<< p) &&& m)).toNat

/-- Sources that are checked and read at one width. -/
def atW (w : Nat) (os : List Opnd) : List (Opnd × Nat × Nat) := os.map fun o => (o, w, w)

/-- The width of R9 and R162. -/
def wOf (f : Form) : Nat :=
  if f.mod.extractLsb' 4 2 = 1 then 32 else if f.mod.extractLsb' 4 2 = 2 then 64 else if isS f.d then 64 else 32

/-- An operation at width W over whole sources. -/
def opW (f : Form) (os : List Opnd) (val : List Nat → Nat) : RegOp := ⟨f, wOf f, wOf f, atW (wOf f) os, val⟩

/-- ADD, SUB, MUL, MAD, MULH, DIV, REM, NEG, ABS, MIN and MAX (R167, R169). -/
def arithOp : Instr → Option RegOp
  | .add f | .addExtended f =>
    some (opW f [f.a, f.b] fun v => valLim f.uns f.sat (wOf f) (valIn f.uns (wOf f) (arg v 0) + valIn f.uns (wOf f) (arg v 1)))
  | .sub f | .subExtended f =>
    some (opW f [f.a, f.b] fun v => valLim f.uns f.sat (wOf f) (valIn f.uns (wOf f) (arg v 0) - valIn f.uns (wOf f) (arg v 1)))
  | .mul f | .mulExtended f =>
    some (opW f [f.a, f.b] fun v => valLim f.uns f.sat (wOf f) (valIn f.uns (wOf f) (arg v 0) * valIn f.uns (wOf f) (arg v 1)))
  | .mad f | .madExtended f =>
    some (opW f [f.a, f.b, if f.ext then f.c else f.d] fun v => valLim f.uns f.sat (wOf f)
      (valIn f.uns (wOf f) (arg v 0) * valIn f.uns (wOf f) (arg v 1) + valIn f.uns (wOf f) (arg v 2)))
  | .mulh f =>
    some (opW f [f.a, f.b] fun v =>
      (BitVec.ofInt (2 * wOf f) (valIn f.uns (wOf f) (arg v 0) * valIn f.uns (wOf f) (arg v 1))).toNat / 2 ^ wOf f)
  | .div f => some (opW f [f.a, f.b] fun v => valDiv f.uns f.sat (wOf f) (arg v 0) (arg v 1))
  | .rem f => some (opW f [f.a, f.b] fun v => valRem f.uns (wOf f) (arg v 0) (arg v 1))
  | .neg f => some (opW f [f.a] fun v => valLim false f.sat (wOf f) (-(valIn false (wOf f) (arg v 0))))
  | .abs f => some (opW f [f.a] fun v => valLim false f.sat (wOf f) (valIn false (wOf f) (arg v 0)).natAbs)
  | .min f | .minExtended f =>
    some (opW f [f.a, f.b] fun v => valLim f.uns false (wOf f) (min (valIn f.uns (wOf f) (arg v 0)) (valIn f.uns (wOf f) (arg v 1))))
  | .max f | .maxExtended f =>
    some (opW f [f.a, f.b] fun v => valLim f.uns false (wOf f) (max (valIn f.uns (wOf f) (arg v 0)) (valIn f.uns (wOf f) (arg v 1))))
  | _ => none

/-- AND, OR, XOR, NOT, POPC, CLZ, BREV (R170), the shifts (R171) and the bit fields (R172). -/
def bitsOp : Instr → Option RegOp
  | .and f | .andExtended f => some (opW f [f.a, f.b] fun v => (BitVec.ofNat (wOf f) (arg v 0) &&& BitVec.ofNat (wOf f) (arg v 1)).toNat)
  | .or f | .orExtended f => some (opW f [f.a, f.b] fun v => (BitVec.ofNat (wOf f) (arg v 0) ||| BitVec.ofNat (wOf f) (arg v 1)).toNat)
  | .xor f | .xorExtended f => some (opW f [f.a, f.b] fun v => (BitVec.ofNat (wOf f) (arg v 0) ^^^ BitVec.ofNat (wOf f) (arg v 1)).toNat)
  | .not f => some (opW f [f.a] fun v => (~~~(BitVec.ofNat (wOf f) (arg v 0))).toNat)
  | .popc f => some (opW f [f.a] fun v => ones (BitVec.ofNat (wOf f) (arg v 0)))
  | .clz f => some (opW f [f.a] fun v => leading (BitVec.ofNat (wOf f) (arg v 0)))
  | .brev f => some (opW f [f.a] fun v => (BitVec.ofNat (wOf f) (arg v 0)).reverse.toNat)
  | .shl f | .shlExtended f =>
    some ⟨f, wOf f, wOf f, [(f.a, wOf f, wOf f), (f.b, wOf f, 32)], fun v => (BitVec.ofNat (wOf f) (arg v 0) <<< arg v 1).toNat⟩
  | .shr f | .shrExtended f =>
    some ⟨f, wOf f, wOf f, [(f.a, wOf f, wOf f), (f.b, wOf f, 32)], fun v => (BitVec.ofNat (wOf f) (arg v 0) >>> arg v 1).toNat⟩
  | .sar f | .sarExtended f =>
    some ⟨f, wOf f, wOf f, [(f.a, wOf f, wOf f), (f.b, wOf f, 32)], fun v => ((BitVec.ofNat (wOf f) (arg v 0)).sshiftRight (arg v 1)).toNat⟩
  | .rot f =>
    some ⟨f, wOf f, wOf f, [(f.a, wOf f, wOf f), (f.b, wOf f, 32)], fun v => ((BitVec.ofNat (wOf f) (arg v 0)).rotateLeft (arg v 1)).toNat⟩
  | .bfx f =>
    some ⟨f, wOf f, wOf f, [(f.a, wOf f, wOf f), (f.b, wOf f, 32), (f.c, wOf f, 32)],
      fun v => valBfx f.uns (wOf f) (arg v 0) (arg v 1) (arg v 2)⟩
  | .bfi f =>
    some ⟨f, wOf f, wOf f, [(f.a, wOf f, wOf f), (f.b, wOf f, 32), (f.c, wOf f, 32), (f.d, wOf f, wOf f)],
      fun v => valBfi (wOf f) (arg v 3) (arg v 0) (arg v 1) (arg v 2)⟩
  | _ => none

/-- Is B of LEA a 32-bit index whatever W is (R175)? -/
def leaIndexed : Opnd → Bool
  | .v _ => true
  | .lane => true
  | _ => false

/-- MOV (R174) and LEA (R175). -/
def moveOp : Instr → Option RegOp
  | .mov f | .movExtended f => some (opW f [f.a] fun v => arg v 0)
  | .lea f | .leaExtended f =>
    let bw := if leaIndexed f.b then 32 else wOf f
    some ⟨f, wOf f, wOf f, [(f.a, wOf f, wOf f), (f.b, bw, bw)], fun v =>
      valLim f.uns false (wOf f) (valIn f.uns (wOf f) (arg v 0) + valIn f.uns bw (arg v 1) * 2 ^ (f.imm.toNat % 8))⟩
  | _ => none

/-! ### Predicates, SEL, ADDC and IDX (R168, R173, R174, R176) -/

/-- A COND on integers (R121): eq, ne, lt, le, gt, ge. -/
def valCond (k : Nat) (a b : Int) : Bool :=
  match k with
  | 0 => decide (a = b)
  | 1 => decide (a ≠ b)
  | 2 => decide (a < b)
  | 3 => decide (a ≤ b)
  | 4 => decide (b < a)
  | _ => decide (b ≤ a)

/-- CMP; the condition codes 6 and 7 are no integer conditions. -/
def cmpOp : Instr → Option PredOp
  | .cmp f | .cmpExtended f =>
    if f.mod.toNat % 8 < 6 then
      some ⟨f, wOf f, atW (wOf f) [f.a, f.b], fun v =>
        valCond (f.mod.toNat % 8) (valIn f.uns (wOf f) (arg v 0)) (valIn f.uns (wOf f) (arg v 1))⟩
    else none
  | _ => none

/-- Both sources of a form at a width, as a thread or, with a scalar destination, the group reads them. -/
def goodAB (c : Ctx) (f : Form) (w : Nat) : Bool :=
  if isS f.d then uniformSource f.lit f.a && uniformSource f.lit f.b
  else threadSource c.g f.lit w f.a && threadSource c.g f.lit w f.b

/-- SEL (R174): every thread of the issuing set writes A or B by its guard; a scalar takes the lowest thread's guard. -/
def selEffect (c : Ctx) : Instr → Option Effect
  | .sel f | .selExtended f =>
    let val (l r : Nat) : Nat := c.g.read c.tk f.lit (wOf f) r (if c.guard f.guard l = .t then f.a else f.b)
    match f.d with
    | .v n => some (vecEffect c f (wOf f) c.set n.val (wOf f) (goodAB c f (wOf f)) fun l => val l l)
    | .s n => some (scalEffect c f (wOf f) n.val (goodAB c f (wOf f)) (val (c.set.headD 0) 0))
    | _ => none
  | _ => none

/-- Two effects of one instruction on different registers: the conditions of both, one after the other. -/
def Effect.also (e d : Effect) : Effect :=
  { e with ok := e.ok && d.ok, own := fun g => d.own (e.own g), upd := fun l t => d.upd l (e.upd l t) }

/-- ADDC (R168): the exact sum of A, B and the carry of predicate C; the low W bits and the carry out. -/
def addcEffect (c : Ctx) : Instr → Option Effect
  | .addc f =>
    match predName f.c with
    | none => none
    | some p =>
      let sum (l r : Nat) : Nat := c.g.read c.tk f.lit (wOf f) r f.a + c.g.read c.tk f.lit (wOf f) r f.b +
        (if c.g.pred c.tk l p = .t then 1 else 0)
      -- no predicate of an ordinary group is undecided
      let sure := (c.on f.guard).all fun l => c.g.pred c.tk l p != .u
      match f.d with
      | .v n => some ((vecEffect c f (wOf f) (c.on f.guard) n.val (wOf f) (goodAB c f (wOf f)) fun l => sum l l % 2 ^ wOf f).also
          (predEffect c f (wOf f) p sure fun l => decide (2 ^ wOf f ≤ sum l l)))
      | .s n =>
        let v := sum ((c.on f.guard).headD 0) 0
        some ((scalEffect c f (wOf f) n.val (goodAB c f (wOf f)) (v % 2 ^ wOf f)).also
          (predEffect c f (wOf f) p sure fun _ => decide (2 ^ wOf f ≤ v)))
      | _ => none
  | _ => none

/-- The capability in the pair that an operand names (R78). -/
def capIn (c : Ctx) (o : Opnd) : Cap := c.g.cap c.tk (o.num / 2)

/-- IDX (R176): the address of element (row, column); with IMM[0] the row's block must lie in the capability. -/
def idxEffect (c : Ctx) : Instr → Option Effect
  | .idx f =>
    let k := capIn c f.a
    let row (l : Nat) : Nat := c.g.read c.tk f.lit 32 l f.b
    let col (l : Nat) : Nat := c.g.read c.tk f.lit 32 l f.c
    let addr (l : Nat) : Nat := (k.base + row l * 64 * k.pitch + col l * 2 ^ k.esz) % 2 ^ 64
    let inside (l : Nat) : Bool := !f.imm.getLsbD 0 || k.check 0 (row l + 1) (2 ^ k.esz) (col l * 2 ^ k.esz) == 0
    match f.d with
    | .v n => some (vecEffect c f 64 (c.on f.guard) n.val 64 (capName f.a && threadSource c.g f.lit 64 f.b &&
        threadSource c.g f.lit 64 f.c && (c.on f.guard).all inside) addr)
    | .s n => some (scalEffect c f 64 n.val (capName f.a && uniformSource f.lit f.b && uniformSource f.lit f.c &&
        inside 0) (addr 0))
    | _ => none
  | _ => none

/-! ### Floating point (R177 to R187) -/

/-- An operation on 32-bit sources. -/
def op32 (f : Form) (os : List Opnd) (val : List Nat → Nat) : RegOp := ⟨f, 32, 32, atW 32 os, val⟩

/-- A correctly rounded operation on binary32 codes: read under FTZ, exact, rounded once by RND, written under FTZ. -/
def fop (f : Form) (os : List Opnd) (exact : List Flo → Flo) : RegOp :=
  op32 f os fun v => fp32.write f.rnd false f.ftz (exact (v.map (fp32.read f.ftz)))

/-- Value n of some. -/
def farg (vs : List Flo) (n : Nat) : Flo := vs.getD n .nan

/-- FMIN and FMAX of two codes (R181): a single NaN is passed over, two give the canonical NaN, and −0 lies below +0. -/
def valMinMax (larger : Bool) (a b : Nat) : Nat :=
  let nan (x : Nat) : Bool := decide (0x7f800000 < x % 2 ^ 31)
  let key (x : Nat) : Int := if 2 ^ 31 ≤ x then -((x % 2 ^ 31 : Nat) : Int) - 1 else x
  if nan a && nan b then 0x7fc00000
  else if nan a then b
  else if nan b then a
  else if larger then (if key a < key b then b else a)
  else (if key a < key b then a else b)

/-- FRND (R184): a NaN gives the canonical NaN, an infinity itself, a finite value the integral value that RND names,
with the operand's sign. -/
def valRnd (rnd x : Nat) : Nat :=
  match fp32.unpack x with
  | .nan => 0x7fc00000
  | .inf _ => x
  | .fin neg m e => fp32.pack 0 false (.fin neg (roundShift rnd neg m (-e)) 0)

/-- FCLASS (R185): the class code of a binary32 value. -/
def valClass (x : Nat) : Nat :=
  let mag := x % 2 ^ 31
  if 0x7f800000 < mag then (if mag < 0x7fc00000 then 0 else 1)
  else
    let k := if mag = 0x7f800000 then 0 else if 0x00800000 ≤ mag then 1 else if 0 < mag then 2 else 3
    if 2 ^ 31 ≤ x then 2 + k else 9 - k

/-- A packed operation on both halves (R186): BF selects BF16, else binary16. -/
def hop (f : Form) (os : List Opnd) (exact : List Flo → Flo) : RegOp :=
  let F := if f.imm.getLsbD 0 then bf16 else fp16
  op32 f os fun v =>
    F.write f.rnd false f.ftz (exact (v.map fun x => F.read f.ftz (x % 65536))) +
      F.write f.rnd false f.ftz (exact (v.map fun x => F.read f.ftz (x / 65536))) * 65536

/-- Byte i of a word, unsigned or signed. -/
def byteIn (u : Bool) (x i : Nat) : Int := valIn u 8 (x / 256 ^ i)

/-- The floating-point instructions that write a register. -/
def floatOp : Instr → Option RegOp
  | .fadd f | .faddExtended f => some (fop f [f.a, f.b] fun v => (farg v 0).add f.rnd (farg v 1))
  | .fsub f => some (fop f [f.a, f.b] fun v => (farg v 0).add f.rnd (farg v 1).neg)
  | .fmul f | .fmulExtended f => some (fop f [f.a, f.b] fun v => (farg v 0).mul (farg v 1))
  | .fma f | .fmaExtended f =>
    some (fop f [f.a, f.b, if f.ext then f.c else f.d] fun v => ((farg v 0).mul (farg v 1)).add f.rnd (farg v 2))
  | .fmin f | .fminExtended f =>
    some (op32 f [f.a, f.b] fun v => valMinMax false (fp32.flush f.ftz (arg v 0)) (fp32.flush f.ftz (arg v 1)))
  | .fmax f | .fmaxExtended f =>
    some (op32 f [f.a, f.b] fun v => valMinMax true (fp32.flush f.ftz (arg v 0)) (fp32.flush f.ftz (arg v 1)))
  | .frcp f => some (fop f [f.a] fun v => (farg v 0).recip)
  | .frsq f => some (fop f [f.a] fun v => (farg v 0).rsqrt)
  | .fsqrt f => some (fop f [f.a] fun v => (farg v 0).sqrt)
  | .fex2 f => some (fop f [f.a] fun v => (farg v 0).exp2)
  | .flg2 f => some (fop f [f.a] fun v => (farg v 0).log2)
  | .frnd f => some (op32 f [f.a] fun v => valRnd f.rnd (fp32.flush f.ftz (arg v 0)))
  | .fclass f => if f.imm.getLsbD 10 then none else some (op32 f [f.a] fun v => valClass (arg v 0))
  | .vdot4 f =>
    let prod (v : List Nat) (i : Nat) : Int := byteIn (f.imm.getLsbD 0) (arg v 0) i * byteIn (f.imm.getLsbD 1) (arg v 1) i
    some (op32 f [f.a, f.b, f.c] fun v =>
      valLim false (f.imm.getLsbD 2) 32 (valIn false 32 (arg v 2) + prod v 0 + prod v 1 + prod v 2 + prod v 3))
  | .hadd2 f => some (hop f [f.a, f.b] fun v => (farg v 0).add f.rnd (farg v 1))
  | .hmul2 f => some (hop f [f.a, f.b] fun v => (farg v 0).mul (farg v 1))
  | .hfma2 f => some (hop f [f.a, f.b, f.c] fun v => ((farg v 0).mul (farg v 1)).add f.rnd (farg v 2))
  | _ => none

/-- FCMP (R182): of unordered operands only ne and uno hold. -/
def valFcond (k : Nat) (x y : Flo) : Bool :=
  match x.cmp y with
  | none => k == 1 || k == 6
  | some d => k == 7 || (k != 6 && valCond k d 0)

/-- The floating-point instructions that write a predicate. -/
def fpredOp : Instr → Option PredOp
  | .fcmp f | .fcmpExtended f =>
    some ⟨f, 32, atW 32 [f.a, f.b], fun v => valFcond (f.mod.toNat % 8) (fp32.read f.ftz (arg v 0)) (fp32.read f.ftz (arg v 1))⟩
  | .fclass f => if f.imm.getLsbD 10 then some ⟨f, 32, atW 32 [f.a], fun v => f.imm.getLsbD (valClass (arg v 0))⟩ else none
  | _ => none

/-! ### Conversions (R188 to R197) -/

/-- Half HI of a word. -/
def half (hi : Bool) (x : Nat) : Nat := if hi then x / 65536 % 65536 else x % 65536

/-- FCVT (R188) by KIND: to binary16 or BF16, from the half HI, and the packing of two values. -/
def fcvtOp : Instr → Option RegOp
  | .fcvt f =>
    let narrow (F : FFmt) (x : Nat) : Nat := F.write f.rnd (f.imm.getLsbD 0) f.ftz (fp32.read f.ftz x)
    let widen (F : FFmt) (x : Nat) : Nat := fp32.write 0 false f.ftz (F.read f.ftz (half (f.imm.getLsbD 1) x))
    match f.mod.toNat % 8 with
    | 0 => some (op32 f [f.a] fun v => narrow fp16 (arg v 0))
    | 1 => some (op32 f [f.a] fun v => narrow bf16 (arg v 0))
    | 2 => some (op32 f [f.a] fun v => widen fp16 (arg v 0))
    | 3 => some (op32 f [f.a] fun v => widen bf16 (arg v 0))
    | 4 => some (op32 f [f.a, f.b] fun v => narrow fp16 (arg v 0) + narrow fp16 (arg v 1) * 65536)
    | 5 => some (op32 f [f.a, f.b] fun v => narrow bf16 (arg v 0) + narrow bf16 (arg v 1) * 65536)
    | _ => none
  | _ => none

/-- The bounds of an integer type. -/
def typeLo (u : Bool) (w : Nat) : Int := if u then 0 else -(2 ^ (w - 1))
/-- The upper bound. -/
def typeHi (u : Bool) (w : Nat) : Int := if u then 2 ^ w - 1 else 2 ^ (w - 1) - 1

/-- ICVT (R189): TOF is MOD[2], W64 MOD[1] and UNS MOD[0]. -/
def icvtOp : Instr → Option RegOp
  | .icvt f =>
    let w := if f.mod.getLsbD 1 then 64 else 32
    let u := f.mod.getLsbD 0
    if f.mod.getLsbD 2 then
      some ⟨f, 32, w, atW w [f.a], fun v => fp32.pack f.rnd false (Flo.ofInt false (valIn u w (arg v 0)) 0)⟩
    else
      some ⟨f, w, 32, atW 32 [f.a], fun v =>
        (BitVec.ofInt w ((fp32.read f.ftz (arg v 0)).toRange f.rnd (typeLo u w) (typeHi u w))).toNat⟩
  | _ => none

/-- The instructions that convert by a format slot (R191 to R194), of a group's slot with low word `sl.1`. -/
def slotOp (sl : Nat × Nat) : Instr → Option RegOp
  | .cvtTo f =>
    let w := elemWidth (slotFmt sl.1)
    if cvtSlotOk sl then
      some ⟨f, w, 32, atW 32 [f.a], fun v => elemCode (slotFmt sl.1) f.rnd (f.mod.getLsbD 3) (fp32.unpack (arg v 0)) % 2 ^ w⟩
    else none
  | .cvtFr f =>
    let w := elemWidth (slotFmt sl.1)
    if cvtSlotOk sl then
      some ⟨f, 32, w, atW w [f.a], fun v => fp32.packInf f.rnd (f.mod.getLsbD 3) (elemValue (slotFmt sl.1) (arg v 0))⟩
    else none
  | .cvtUblk f =>
    match f.d, f.a with
    | .v _, .v n =>
      if blkSlotOk sl && n.val % 2 == 0 then
        some ⟨f, 32, 64, atW 32 [f.a, .v ⟨(n.val + 1) % 32, Nat.mod_lt _ (by decide)⟩], fun v =>
          if valIn false 16 (arg v 1) = 32767 then 0x7fc00000
          else fp32.packInf f.rnd (f.mod.getLsbD 3) (Flo.ofInt false (valIn false 32 (arg v 0)) (valIn false 16 (arg v 1)))⟩
      else none
    | _, _ => none
  | _ => none

/-! ### Blocks and planes (R193, R195 to R197) -/

/-- Some threads write the pair n, n + 1 as two words. -/
def pairEffect (c : Ctx) (f : Form) (aw : Nat) (ls : List Nat) (n : Nat) (ok : Bool) (val : Nat → Nat × Nat) : Effect :=
  vecEffect c f aw ls n 64 ok fun l => (val l).1 + (val l).2 * 2 ^ 32

/-- The next register of a pair. -/
def nextReg (n : Fin 32) : Opnd := .v ⟨(n.val + 1) % 32, Nat.mod_lt _ (by decide)⟩

/-- The lanes of a set in half h of the group, ascending. -/
def inHalf (ls : List Nat) (h : Nat) : List Nat := ls.filter fun l => 32 * h ≤ l && l < 32 * h + 32

/-- CVT.blk, RQ, PLN and UNPL, of a slot with low word `sl.1`. -/
def blockEffect (c : Ctx) (sl : Nat × Nat) : Instr → Option Effect
  | .cvtBlk f =>
    match f.d, f.a with
    | .v n, .v a =>
      let w := elemWidth (slotFmt sl.1)
      let on := c.on f.guard
      -- each half is one block of the format: the exponent, and the mantissas of the half's lanes in order
      let blk (h : Nat) : Int × List Int := blockOf (slotFmt sl.1) (slotP sl.1) ((inHalf on h).map fun l => c.g.read c.tk f.lit w l f.a)
      let at_ (l : Nat) : Nat := (inHalf on (l / 32)).findIdx (· == l)
      if blkSlotOk sl then
        some (pairEffect c f w on n.val (threadSource c.g f.lit w (.v a)) fun l =>
          ((BitVec.ofInt 32 ((blk (l / 32)).2.getD (at_ l) 0)).toNat, (BitVec.ofInt 32 (blk (l / 32)).1).toNat))
      else none
    | _, _ => none
  | .rq f =>
    match f.d, f.a with
    | .v n, .v a =>
      if plnSlotOk sl && a.val % 2 == 0 then
        some (pairEffect c f 64 (c.on f.guard) n.val (threadSource c.g f.lit 32 f.b) fun l =>
          let r := requantise (slotP sl.1) (valIn false 32 (c.g.read c.tk f.lit 32 l f.a))
            (valIn false 16 (c.g.read c.tk f.lit 32 l (nextReg a))) (valIn false 32 (c.g.read c.tk f.lit 32 l f.b))
          ((BitVec.ofInt 32 r.1).toNat, (BitVec.ofInt 32 r.2).toNat))
      else none
    | _, _ => none
  | .pln f =>
    match f.d, f.a with
    | .v n, .v _ =>
      let on := c.on f.guard
      -- lane 32h + k holds bit P − 1 − k of every mantissa of the half, lane 32h + j's in bit j
      if plnSlotOk sl then
        some (vecEffect c f 32 on n.val 32 true fun l =>
          if l % 32 < slotP sl.1 then
            (((List.range 32).map fun j => if on.contains (l / 32 * 32 + j) &&
              (c.g.read c.tk f.lit 32 (l / 32 * 32 + j) f.a).testBit (slotP sl.1 - 1 - l % 32) then 2 ^ j else 0).foldl (· + ·) 0)
          else 0)
      else none
    | _, _ => none
  | .unpl f =>
    match f.d, f.a with
    | .v n, .v _ =>
      let on := c.on f.guard
      let p := slotP sl.1
      if plnSlotOk sl then
        some (vecEffect c f 32 on n.val 32 true fun l =>
          let m := ((List.range p).map fun i => if on.contains (l / 32 * 32 + (p - 1 - i)) &&
              (c.g.read c.tk f.lit 32 (l / 32 * 32 + (p - 1 - i)) f.a).testBit (l % 32) then 2 ^ i else 0).foldl (· + ·) 0
          (BitVec.ofInt 32 (valIn false p m)).toNat)
      else none
    | _, _ => none
  | _ => none

/-! ### Lane instructions (R156 to R161) -/

/-- The number whose bits are some lanes. -/
def laneSet (t : Nat → Bool) : Nat := ((List.range 64).map fun j => if t j then 2 ^ j else 0).foldl (· + ·) 0

/-- The lane that SHFL and BCST read. -/
def fromLane (k : Nat) (l b : Nat) : Option Nat :=
  match k with
  | 1 => if b ≤ l then some (l - b) else none
  | 2 => if l + b < 64 then some (l + b) else none
  | 3 => if l ^^^ b < 64 then some (l ^^^ b) else none
  | _ => if b < 64 then some b else none

/-- SHFL and BCST: a source lane that does not participate, or lies outside the group, gives 0. -/
def shflEffect (c : Ctx) (f : Form) (k : Nat) (uni : Bool) : Option Effect :=
  match f.d with
  | .v n => some (vecEffect c f 32 (c.on f.guard) n.val 32
      (threadSource c.g f.lit 32 f.a && (if uni then uniformSource f.lit f.b else threadSource c.g f.lit 32 f.b)) fun l =>
        match fromLane k l (c.g.read c.tk f.lit 32 l f.b) with
        | some j => if (c.on f.guard).contains j then c.g.read c.tk f.lit 32 j f.a else 0
        | none => 0)
  | _ => none

/-- LMASK: a 64-bit mask into the pair. -/
def lmaskEffect (c : Ctx) (f : Form) (m : Nat → Nat) : Option Effect :=
  match f.d with
  | .v n => some (vecEffect c f 32 (c.on f.guard) n.val 64 true m)
  | _ => none

/-- VOTE.any and VOTE.all: one truth value for every participating thread. -/
def voteEffect (c : Ctx) (f : Form) (v : List Bool → Bool) : Option Effect :=
  match predName f.d, predName f.c with
  | some n, some p => some (predEffect c f 32 n ((c.on f.guard).all fun l => c.g.pred c.tk l p != .u) fun _ =>
      v ((c.on f.guard).map fun l => c.g.pred c.tk l p == .t))
  | _, _ => none

/-- The lane instructions. -/
def laneEffect (c : Ctx) : Instr → Option Effect
  | .rfl f =>
    let w := if f.mod.getLsbD 0 || isS f.a then 64 else 32
    let ok := if f.mod.getLsbD 0 then isV2 f.a else threadSource c.g f.lit 32 f.a
    match f.d with
    | .s n => some (scalEffect c f w n.val ok (c.g.read c.tk f.lit w ((c.on f.guard).headD 0) f.a))
    | _ => none
  | .matchLanes f =>
    let val (l : Nat) : Nat := c.g.read c.tk f.lit 32 l f.a
    match f.d with
    | .v n => some (vecEffect c f 32 (c.on f.guard) n.val 64 (threadSource c.g f.lit 32 f.a) fun l =>
        laneSet fun j => (c.on f.guard).contains j && val j == val l)
    | _ => none
  | .voteAny f => voteEffect c f fun bs => bs.any id
  | .voteAll f => voteEffect c f fun bs => bs.all id
  | .voteBal f =>
    match predName f.c with
    | none => none
    | some p =>
      let ok := (c.on f.guard).all fun l => c.g.pred c.tk l p != .u
      let n := (c.on f.guard).countP fun l => c.g.pred c.tk l p == .t
      match f.d with
      | .v d => some (vecEffect c f 32 (c.on f.guard) d.val 32 ok fun _ => n)
      | .s d => some (scalEffect c f 32 d.val ok n)
      | _ => none
  | .shflIdx f => shflEffect c f 0 false
  | .shflUp f => shflEffect c f 1 false
  | .shflDn f => shflEffect c f 2 false
  | .shflXor f => shflEffect c f 3 false
  | .bcst f => shflEffect c f 0 true
  | .lmaskLt f => lmaskEffect c f fun l => 2 ^ l - 1
  | .lmaskLe f => lmaskEffect c f fun l => 2 ^ (l + 1) - 1
  | .lmaskGt f => lmaskEffect c f fun l => 2 ^ 64 - 2 ^ (l + 1)
  | .lmaskGe f => lmaskEffect c f fun l => 2 ^ 64 - 2 ^ l
  | _ => none

/-! ### Capabilities (R78 to R91) -/

/-- The group writes capability register n once. -/
def capEffect (c : Ctx) (f : Form) (o : Opnd) (ok : Bool) (k : Cap) : Option Effect :=
  match o with
  | .s n => some ⟨f, ok && n.val % 2 == 0 && freeScal c n.val && freeScal c (n.val + 1), 64, putCap (n.val / 2) k, fun _ t => t⟩
  | _ => none

/-- The capability instructions: CNAR, CPERM, CGET and CCHK. -/
def capEffectOf (c : Ctx) : Instr → Option Effect
  | .cnar f =>
    let a := capIn c f.a
    let b := c.g.read c.tk f.lit 64 0 f.b
    let n := c.g.read c.tk f.lit 64 0 f.c
    let relay := f.imm.getLsbD 23
    let esz := if relay then f.imm.toNat / 2 ^ 12 % 16 else a.esz
    let pitch := if relay then f.imm.toNat % 2 ^ 12 else a.pitch
    capEffect c f f.d (capName f.a && uniformSource f.lit f.b && uniformSource f.lit f.c && (!a.tag || b + n ≤ a.len))
      (capOf ((a.base + b) % 2 ^ 64) (n % 2 ^ 40) a.perm esz pitch (a.tag && (!relay || esz ≤ 4)))
  | .cperm f =>
    let a := capIn c f.a
    capEffect c f f.d (capName f.a && uniformSource f.lit f.b)
      (capOf a.base a.len (a.perm &&& c.g.read c.tk f.lit 64 0 f.b % 256) a.esz a.pitch a.tag)
  | .cget f =>
    let a := capIn c f.a
    let v := match f.imm.toNat % 8 with
      | 0 => a.base
      | 1 => a.len
      | 2 => a.perm
      | 3 => a.esz
      | 4 => 64 * a.pitch
      | 5 => if a.tag then 1 else 0
      | _ => (a.base + a.len) % 2 ^ 64
    match f.d with
    | .s n => some (scalEffect c f 64 n.val (capName f.a) v)
    | _ => none
  | .cchk f =>
    match f.d with
    | .s n => some (scalEffect c f 64 n.val (capName f.a && uniformSource f.lit f.b && uniformSource f.lit f.c)
        ((capIn c f.a).check (f.imm.toNat % 256) 1 (c.g.read c.tk f.lit 64 0 f.c) (c.g.read c.tk f.lit 64 0 f.b)))
    | _ => none
  | _ => none

/-- CMINT (R91), in a system group: the capability of three plain numbers, tagged when it is well formed. -/
def mintEffect (c : Ctx) : Instr → Option Effect
  | .cmint f =>
    let a := c.g.read c.tk f.lit 64 0 f.a
    let b := c.g.read c.tk f.lit 64 0 f.b
    let n := c.g.read c.tk f.lit 64 0 f.c
    let k := capOf a b (n % 256) (n / 2 ^ 8 % 16) (n / 2 ^ 12) true
    capEffect c f f.d (c.sys && uniformSource f.lit f.a && uniformSource f.lit f.b && uniformSource f.lit f.c &&
      decide (b < 2 ^ 40) && decide (n < 2 ^ 24) && k.formed) k
  | _ => none

/-! ### Control transfers (R124, R142 to R149) -/

/-- A transfer: the operand fields that a hold captures, the guard, the conditions, the lanes that go to a target, the change
of the group, and the change of a lane that goes. -/
structure Jump where
  hold  : BitVec 2
  a     : Opnd
  lit   : Option DWord
  guard : Guard
  ok    : Bool
  tgts  : List (Nat × DWord)
  own   : Group → Group
  upd   : Nat → Thread → Thread

/-- The address v words from the base word (R125). -/
def offsetBy (c : Ctx) (v : Int) : DWord := c.pc + BitVec.ofInt 64 (4 * v)

/-- An offset of IMM or of the literal. -/
def wideInt : WideOff → Int
  | .imm o => o.toInt
  | .lit o => o.toInt

/-- BR: the threads whose guard holds go. -/
def branchJump (c : Ctx) (g : Guard) (v : Int) : Jump :=
  ⟨0, .zero, none, g, true, (c.on g).map fun l => (l, offsetBy c v), id, fun _ t => t⟩

/-- BRU (R147): the guard of the lowest thread counts for the whole set; a guard that diverges sets UNIF_VIOL, where it does
not trap. In a Loupe grid it acts as BR (R329). -/
def uniformJump (c : Ctx) (g : Guard) (v : Int) : Jump :=
  if c.g.lpass then branchJump c g v
  else
    let mixed := !(c.on g).isEmpty && (c.on g).length != c.set.length
    ⟨0, .zero, none, g, !(mixed && c.g.strict),
      if (c.on g).contains (c.set.headD 0) then c.set.map fun l => (l, offsetBy c v) else [],
      fun x => if mixed then { x with univ := true } else x, fun _ t => t⟩

/-- A point of 32 bits in register n: in a Loupe grid both words, and the hidden bits of KIND S (R317). -/
def putPoint (lpass : Bool) (n v : Nat) (t : Thread) : Thread :=
  if lpass then
    { t with stack := mset (mset t.stack (t.wb + 2 * n) (BitVec.ofNat 32 v)) (t.wb + 2 * n + 1) (BitVec.ofNat 32 v),
             hid := mset t.hid (t.wb + 2 * n) ⟨0, false, false⟩ }
  else { t with stack := mset t.stack (t.wb + n) (BitVec.ofNat 32 v) }

/-- CALL (R143) with frame code fr: the link in the two registers below the new window, the window and the depth. -/
def callJump (c : Ctx) (hold : BitVec 2) (a : Opnd) (lit : Option DWord) (g : Guard) (fr : Nat) (target : DWord) : Jump :=
  let k := if c.g.lpass then 2 else 1
  let fits (l : Nat) : Bool :=
    let t := c.g.thread l
    decide (t.depth < 1023) && decide (t.wb + k * (8 * fr + 32) ≤ t.rb + k * c.g.allot)
  let free (l : Nat) : Bool := (List.range (2 * k)).all fun i => !c.g.uncovered (.word l ((c.g.thread l).wb + k * (8 * fr - 2) + i))
  ⟨hold, a, lit, g, decide (0 < fr) && (c.on g).all fun l => fits l && free l, (c.on g).map fun l => (l, target), id, fun _ t =>
    let t := putPoint c.g.lpass (8 * fr - 2) ((c.after.extractLsb' 2 30).toNat * 4 + fr) t
    let t := putPoint c.g.lpass (8 * fr - 1) (c.after.extractLsb' 32 28).toNat t
    { t with wb := t.wb + k * (8 * fr), depth := t.depth + 1 }⟩

/-- RET (R144): the link below the window names the target and the frame. -/
def retJump (c : Ctx) (g : Guard) : Jump :=
  let k := if c.g.lpass then 2 else 1
  let lo (l : Nat) : Word := c.g.word c.tk l ((c.g.thread l).wb - 2 * k)
  let hi (l : Nat) : Word := c.g.word c.tk l ((c.g.thread l).wb - k)
  let fr (l : Nat) : Nat := (lo l).toNat % 4
  let good (l : Nat) : Bool :=
    let t := c.g.thread l
    decide (0 < t.depth) && decide (t.rb + 2 * k ≤ t.wb) && decide (0 < fr l) && decide (t.rb + k * (8 * fr l) ≤ t.wb)
  ⟨0, .zero, none, g, (c.on g).all good,
    (c.on g).map fun l => (l, (hi l).extractLsb' 0 28 ++ (lo l).extractLsb' 2 30 ++ 0#2 |>.setWidth 64), id,
    fun l t => { t with wb := t.wb - k * (8 * fr l), depth := t.depth - 1 }⟩

/-- The control transfers. -/
def jumpOf (c : Ctx) : Instr → Option Jump
  | .br g off => some (branchJump c g off.toInt)
  | .brWide g off => some (branchJump c g (wideInt off))
  | .bru g off => some (uniformJump c g off.toInt)
  | .bruWide g off => some (uniformJump c g (wideInt off))
  | .jmp h g a | .jmpExtended h g a =>
    some ⟨h, a, none, g, isS a, (c.on g).map fun l => (l, c.g.scalar c.tk a.num), id, fun _ t => t⟩
  | .call g fr off => some (callJump c 0 .zero none g fr.toNat (offsetBy c off.toInt))
  | .callWide g fr off => some (callJump c 0 .zero none g fr.toNat (offsetBy c (wideInt off)))
  | .calls f =>
    let j := callJump c f.hold f.a f.lit f.guard (f.mod.toNat % 4) (c.g.scalar c.tk f.a.num)
    some { j with ok := j.ok && isS f.a }
  | .ret g | .retExtended g => some (retJump c g)
  | _ => none

/-- The group that a transfer leaves: the lanes that go stand at their target, where a header is due; the other threads of the
set go on to the next word. -/
def Landed (c : Ctx) (j : Jump) (g : Group) : Prop :=
  g = { j.own c.g with threads := g.threads, latches := (c.latched j.hold j.a j.lit 64 c.g).latches } ∧
    ∀ l, g.thread l = match j.tgts.find? fun x => x.1 == l with
      | some x => { j.upd l (c.g.thread l) with pc := x.2, cpos := 0, left := some 0 }
      | none => if l ∈ c.set then past c (c.g.thread l) else c.g.thread l

end Sys2Proof.Claims
end

