-- ==== Sys2Proof/MemoryClaims.lean ====
section
/-! DEFINITION. The terms of the statements on memory: long-latency operations, loads, stores, atomics and what serves them. -/

namespace Sys2Proof.Claims

open Sys2Proof Sys2Proof.Machine

/-! ### Long-latency operations (R123) -/

/-- The operation that an instruction starts: its flag, its place in the group, its registers and the values that they take. -/
def opOf (c : Ctx) (f : Form) (kind : PendKind) (dests : List Reg) (vals : List DWord) : Pend :=
  { Pend.new (selectFlag c.lead f.fs) c.pc c.len (maskOf (c.on f.guard)) kind dests vals with id := c.g.nextId, issued := c.tk }

/-- An operation that was issued as `kind` and whose values are at hand at once. -/
def metOp (c : Ctx) (f : Form) (kind : PendKind) (dests : List Reg) (vals : List DWord) : Pend :=
  { opOf c f kind dests vals with kind := .ready }

/-- A group whose flag counts one more operation. -/
def counted (p : Pend) (g : Group) : Group :=
  { g with flags := lput 0 g.flags p.flag (g.flag p.flag + 1), pend := g.pend ++ [p], nextId := g.nextId + 1 }

/-- The clause names a flag for the instruction, and the flag can count one more (R122, R123). -/
def flagFree (c : Ctx) (f : Form) : Bool :=
  selectFlag c.lead f.fs != 15 && decide (c.g.flag (selectFlag c.lead f.fs) < 63)

/-- The state after a long-latency instruction whose own work has made s of the state: the group counts the operation, and its
threads go on. -/
def Started (s : State) (c : Ctx) (f : Form) (p : Pend) (t : State) : Prop := After s c f 64 (counted p) (fun _ th => th) t

/-! ### Loads (R222 to R227) -/

/-- A load: its form, the conditions on its operands, how it accesses memory, its requests, and whether it loads a capability. -/
structure LoadOp where
  form : Form
  ok   : Bool
  acc  : Access
  reqs : List Req
  ldk  : Bool

/-- The address A + B of a lane. -/
def addrOf (c : Ctx) (f : Form) (l : Nat) : Nat :=
  (c.g.read c.tk f.lit 64 l f.a + c.g.read c.tk f.lit (match f.b with | .v _ => 32 | .lane => 32 | _ => 64) l f.b) % 2 ^ 64

/-- One request for the group. -/
def onceReq (c : Ctx) (f : Form) (n : Nat) : Req := ⟨64, BitVec.ofNat 64 (addrOf c f 0), n, 0, 0⟩

/-- LD with a vector D asks for each thread whose guard holds; LD with a scalar D, LDC and LDK ask once. -/
def loadOf (c : Ctx) : Instr → Option LoadOp
  | .ld f | .ldExtended f =>
    let n := accessBytes f
    if isS f.d then some ⟨f, isS f.a && uniformSource f.lit f.b && isData n f.d, .load, [onceReq c f n], false⟩
    else some ⟨f, isS f.a && threadSource c.g f.lit 32 f.b && isData n f.d, .load, (c.on f.guard).map fun l =>
      ⟨l, BitVec.ofNat 64 (addrOf c f l), n, 0, BitVec.ofNat 64 (addrOf c f l)⟩, false⟩
  | .ldc f | .ldcExtended f =>
    some ⟨f, isS f.a && uniformSource f.lit f.b && isData (accessBytes f) f.d && decide (addrOf c f 0 < 2 ^ 61), .con,
      [onceReq c f (accessBytes f)], false⟩
  | .ldk f => some ⟨{ f with mod := 32 }, isS f.a && uniformSource f.lit f.b && isS2 f.d, .load, [onceReq c f 16], true⟩
  | _ => none

/-- The registers that a load writes: one or two scalars, or the words of each thread's registers. -/
def loadRegs (c : Ctx) (f : Form) : List Reg :=
  match f.d with
  | .s k => if accessBytes f = 16 then [.scalar k.val, .scalar (k.val + 1)] else [.scalar k.val]
  | .v k => ((c.on f.guard).map fun l => (List.range ((accessBytes f + 3) / 4)).map fun i =>
      Reg.word l ((c.g.thread l).wb + k.val + i)).flatten
  | _ => []

/-- The values of some bytes: a short integer is extended with its sign under SX and with zeros otherwise (R223). -/
def loadVals (f : Form) (bs : List Byte) : List DWord :=
  let v : Nat := if f.mod.getLsbD 2 && decide (bs.length < 4) then ((BitVec.ofNat (8 * bs.length) (ofLe bs)).signExtend 64).toNat else ofLe bs
  match f.d with
  | .s _ => if bs.length = 16 then [BitVec.ofNat 64 v, BitVec.ofNat 64 (v / 2 ^ 64)] else [BitVec.ofNat 64 v]
  | .v _ => (List.range ((bs.length + 3) / 4)).map fun i => BitVec.ofNat 64 (v / 2 ^ (32 * i) % 2 ^ 32)
  | _ => []

/-- The values of a load's data: a request made once serves every thread. -/
def loadData (c : Ctx) (o : LoadOp) (bss : List (List Byte)) : List DWord :=
  match o.form.d, o.reqs with
  | .v _, [q] => if q.lane = 64 then ((c.on o.form.guard).map fun _ => loadVals o.form (bss.headD [])).flatten
    else (bss.map (loadVals o.form)).flatten
  | _, _ => (bss.map (loadVals o.form)).flatten

/-- The load as an operation, with its data. -/
def LoadOp.op (o : LoadOp) (c : Ctx) (vals : List DWord) (tag : Option (Nat × Bool)) : Pend :=
  { opOf c o.form (.load none o.acc o.reqs o.form o.ldk) (loadRegs c o.form) vals with capTag := tag }

/-- The state in which its requests are served: the operation is counted. -/
def LoadOp.asks (o : LoadOp) (s : State) (c : Ctx) : State := s.setGroup c.r (counted (o.op c [] none) c.g)

/-! ### Stores (R225, R227) -/

/-- One lane's store: lane, address, bytes, the tag that goes with them. -/
def storeOf (c : Ctx) : Instr → Option (Form × Bool × List Put)
  | .st f | .stExtended f =>
    let n := accessBytes f
    let once := isUni f.d && isUni f.b
    let data (l : Nat) : Nat := match f.d with
      | .v k => ((List.range ((n + 3) / 4)).map fun i => (c.g.word c.tk l ((c.g.thread l).wb + k.val + i)).toNat * 2 ^ (32 * i)).foldl (· + ·) 0
      | .s k => (c.g.scalar c.tk k.val).toNat + (if n = 16 then (c.g.scalar c.tk (k.val + 1)).toNat * 2 ^ 64 else 0)
      | .zero => 0
      | .lane => l
      | o => c.g.read c.tk f.lit (if n < 8 then 32 else 64) l o
    some (f, isS f.a && threadSource c.g f.lit 32 f.b && threadSource c.g f.lit 32 f.d && (!(isV f.d || isS f.d) || isData n f.d)
        && (n != 16 || isV f.d || isS f.d || f.d == .zero || f.d == .lane),
      if once then [⟨64, addrOf c f 0, leBytes n (data 0 % 2 ^ (8 * n)), false⟩]
      else (c.on f.guard).map fun l => ⟨l, addrOf c f l, leBytes n (data l % 2 ^ (8 * n)), false⟩)
  | .stk f =>
    match f.d with
    | .s k =>
      let cp := c.g.cap c.tk (k.val / 2)
      some (f, isS f.a && uniformSource f.lit f.b && k.val % 2 == 0 && ([0, 2, 4].contains (addrOf c f 0 / 2 ^ 60)) &&
          !(decide (addrOf c f 0 / 2 ^ 60 = 0) && cp.tag && !bit cp.perm 5),
        [⟨64, addrOf c f 0, leBytes 16 cp.bits.toNat, cp.tag⟩])
    | _ => none
  | _ => none

/-- Every store is aligned and has a path that admits it. -/
def storesFit (s : State) (c : Ctx) (xs : List Put) : Bool :=
  xs.all fun x => x.addr % x.bs.length == 0 && (s.path (s.origin c.r c.g) .store x.addr x.bs.length).isSome

/-- The scratchpad byte that the last of some stores to a core and offset leaves there. -/
def lastByte (at_ : Put → Option (Nat × Nat)) (core off : Nat) : List Put → Option Byte
  | [] => none
  | x :: xs => match lastByte at_ core off xs with
    | some b => some b
    | none => match at_ x with
      | some (k, o) => if k = core ∧ o ≤ off then x.bs[off - o]? else none
      | none => none

/-- Where a store through SPD or DSP goes. -/
def spadAt (s : State) (c : Ctx) (x : Put) : Option (Nat × Nat) :=
  match s.path (s.origin c.r c.g) .store x.addr x.bs.length with
  | some (.spad k off _) => some (k, off)
  | _ => none

/-- The entries that stores at some places make in the publication buffer. -/
def pubOf (c : Ctx) (xs : List Put) (ls : List Loc) : List PubEntry :=
  (xs.zip ls).map fun x => ⟨x.2, x.1.bs, c.r, if c.sys then 0 else c.g.ten, x.1.tag, c.tk⟩

/-! ### Atomics (R229 to R234) -/

/-- The new word of w bits: m the old one, a the operand, b the value compared with. -/
def atomNew (op : AtomOp) (uns : Bool) (w m a b : Nat) : Nat :=
  match op with
  | .add => (BitVec.ofNat w m + BitVec.ofNat w a).toNat
  | .fadd => f32Add (m % 2 ^ 32) (a % 2 ^ 32)
  | .min => if valIn uns w a < valIn uns w m then a else m
  | .max => if valIn uns w m < valIn uns w a then a else m
  | .and => (BitVec.ofNat w m &&& BitVec.ofNat w a).toNat
  | .or => (BitVec.ofNat w m ||| BitVec.ofNat w a).toNat
  | .xor => (BitVec.ofNat w m ^^^ BitVec.ofNat w a).toNat
  | .xchg => a
  | .cas => if m = b then a else m

/-- ATOM: its operation and form. -/
def atomOf : Instr → Option (AtomOp × Form)
  | .atomAdd f => some (.add, f)
  | .atomFadd f => some (.fadd, f)
  | .atomMin f => some (.min, f)
  | .atomMax f => some (.max, f)
  | .atomAnd f => some (.and, f)
  | .atomOr f => some (.or, f)
  | .atomXor f => some (.xor, f)
  | .atomXchg f => some (.xchg, f)
  | .atomCas f => some (.cas, f)
  | _ => none

/-- RED: its operation and form. -/
def redOf : Instr → Option (AtomOp × Form)
  | .redAdd f => some (.add, f)
  | .redFadd f => some (.fadd, f)
  | .redMin f => some (.min, f)
  | .redMax f => some (.max, f)
  | .redAnd f => some (.and, f)
  | .redOr f => some (.or, f)
  | .redXor f => some (.xor, f)
  | _ => none

/-- The bytes of an atomic's word. -/
def wordBytes (f : Form) : Nat := if accessBytes f = 8 then 8 else 4

/-- The requests of an atomic: `v` is the operand added, `k` the value compared with. -/
def atomReqs (c : Ctx) (f : Form) (once : Bool) (v k : Nat → Nat) : List Req :=
  (if once then [64] else c.on f.guard).map fun l =>
    ⟨l, BitVec.ofNat 64 (addrOf c f (l % 64)), wordBytes f, BitVec.ofNat 64 (v (l % 64)), BitVec.ofNat 64 (k (l % 64))⟩

/-- Every request is aligned, has a path that admits it, and a scope that a PEER address admits (R231). -/
def atomsFit (s : State) (c : Ctx) (f : Form) (qs : List Req) : Bool :=
  qs.all fun q => q.addr.toNat % q.size == 0 && (s.path (s.origin c.r c.g) .atomic q.addr.toNat q.size).isSome &&
    (q.addr.toNat / 2 ^ 60 != 7 || decide (8 ≤ f.scope.toNat))

/-- Where a word lies, as an engine's request names it. -/
def placeOf : WordAt → Option Nat × Nat
  | .mem k => (none, k)
  | .spad k off => (some k, off)
  | .peer _ va => (none, va)

/-- The requests as their engines hold them; every word lies on the device. -/
def claspReqs (s : State) (c : Ctx) (f : Form) (op : AtomOp) (pend : Option Nat) (xs : List (Req × WordAt)) : List (Nat × ClaspReq) :=
  xs.filterMap fun x => (engineAt (s.origin c.r c.g) x.2).map fun e =>
    (e.1, { port := e.2, ref := c.r, pend := pend, ten := (s.origin c.r c.g).ten, op := op, uns := f.imm.getLsbD 0,
            wide := wordBytes f == 8, req := x.1, core := (placeOf x.2).1, loc := (placeOf x.2).2, pool := false, serial := c.tk })

/-- Engines with requests put at the ends of their lists. -/
def asked (k : Clasp) : List (Nat × ClaspReq) → Clasp
  | [] => k
  | x :: xs => asked { k with reqs := mset k.reqs x.1 (mgetD k.reqs x.1 [] ++ [x.2]) } xs

/-- The entry that a served request leaves in its operation: the old word of its lane, in D's place for that lane. -/
def answered (p : Pend) (wide : Bool) (lane old : Nat) : List DWord :=
  match p.dests with
  | .scalar _ :: _ => [BitVec.ofNat 64 old]
  | _ => p.vals.mapIdx fun i v =>
    let k := if lane = 64 then 0 else (lanesOf p.mask).findIdx (· == lane)
    if wide then (if i = 2 * k then BitVec.ofNat 64 (old % 2 ^ 32) else if i = 2 * k + 1 then BitVec.ofNat 64 (old / 2 ^ 32 % 2 ^ 32) else v)
    else if i = k then BitVec.ofNat 64 (old % 2 ^ 32) else v

/-- The state in which an engine has taken a request: it leaves the list, and its port was served last (R233). -/
def taken (s : State) (e : Nat) (q : ClaspReq) : State :=
  let r := (mgetD s.clasp.reqs e []).erase q
  { s with clasp := { s.clasp with reqs := if r.isEmpty then mdel s.clasp.reqs e else mset s.clasp.reqs e r, rr := mset s.clasp.rr e q.port } }

/-- A byte of the address space of a request's word: memory's, or a scratchpad's. -/
def wordByte (core : Option Nat) (s : State) (a : Nat) : Byte :=
  match core with
  | none => cget s.mem a
  | some k => cget (s.core k).spad a

/-! ### Pools (R235 to R237) -/

/-- A field of a pool object, whose byte i is `rd i`. -/
def poolField (rd : Nat → Byte) (a n : Nat) : Nat := ofLe ((List.range n).map fun i => rd (a + i))
/-- ARENA, with its granule's tag. -/
def poolArena (rd : Nat → Byte) (tag : Bool) : Cap := ⟨BitVec.ofNat 128 (poolField rd 0 16), tag⟩
/-- NB. -/
def poolNb (rd : Nat → Byte) : Nat := poolField rd 0x14 2
/-- The bytes of a block. -/
def poolBlock (rd : Nat → Byte) : Nat := 2 ^ (poolField rd 0x10 4 % 64)
/-- INUSE. -/
def poolUsed (rd : Nat → Byte) : Nat := poolField rd 0x18 4
/-- Bytes of MAP. -/
def poolMap (rd : Nat → Byte) : Nat := (poolNb rd + 511) / 512 * 64
/-- Is block i allocated? -/
def poolTaken (rd : Nat → Byte) (i : Nat) : Bool := (rd (0x40 + i / 8)).getLsbD (i % 8)

/-- Is the pool well-formed, by a capability of LEN `len`? -/
def poolWhole (rd : Nat → Byte) (tag : Bool) (len : Nat) : Bool :=
  tag && decide (1 ≤ poolNb rd) && decide (poolNb rd ≤ 4096) && decide (6 ≤ poolField rd 0x10 4) && decide (poolField rd 0x10 4 ≤ 40) &&
    poolField rd 0x16 2 == 0 && (poolArena rd tag).base % poolBlock rd == 0 &&
    decide (poolNb rd * poolBlock rd ≤ (poolArena rd tag).len) && decide (64 + poolMap rd ≤ len)

/-- The block that POOL.A hands out: the lowest free one. -/
def poolGives (rd : Nat → Byte) (tag : Bool) (len : Nat) : Option Nat :=
  if poolWhole rd tag len && poolUsed rd != poolNb rd then (List.range (poolNb rd)).find? fun i => !poolTaken rd i else none

/-- The block that POOL.F takes back. -/
def poolTakes (rd : Nat → Byte) (tag : Bool) (len : Nat) (blk : Cap) : Option Nat :=
  let d : Int := (blk.base : Int) - (poolArena rd tag).base
  let i := d / poolBlock rd
  if poolWhole rd tag len && blk.tag && blk.len == poolBlock rd && decide (i * poolBlock rd = d) && decide (0 ≤ i) &&
      decide (i < poolNb rd) && poolTaken rd i.toNat then some i.toNat else none

/-- The capability of block i: ARENA with its BASE and LEN replaced. -/
def poolCapOf (rd : Nat → Byte) (i : Nat) : Cap :=
  let a := poolArena rd true
  capOf (a.base + i * poolBlock rd) (poolBlock rd) a.perm a.esz a.pitch true

/-- MAP's byte that holds block i's bit, with the bit set to v. -/
def poolMark (rd : Nat → Byte) (i : Nat) (v : Bool) : Byte :=
  if v then rd (0x40 + i / 8) ||| BitVec.ofNat 8 (2 ^ (i % 8)) else rd (0x40 + i / 8) &&& ~~~(BitVec.ofNat 8 (2 ^ (i % 8)))

/-- The operation of POOL.A and POOL.F: the pool's capability, POOL.F's block, predicate n. -/
def poolOp (c : Ctx) (f : Form) (free : Bool) (n : Nat) : Pend :=
  let dests := (if free then [] else [Reg.scalar f.d.num, Reg.scalar (f.d.num + 1)]) ++ (c.on f.guard).map fun l => Reg.pred l n
  { opOf c f (.pool none free (c.g.cap c.tk (f.a.num / 2)) (if free then c.g.cap c.tk (f.b.num / 2) else Cap.null)) dests
      (dests.map fun _ => 0) with capTag := if free then none else some (f.d.num / 2, false) }

/-- Its request, whose header line lies in a scratchpad or in memory. -/
def poolReq (s : State) (c : Ctx) (base port : Nat) (core : Option Nat) (loc : Nat) : ClaspReq :=
  ⟨port, c.r, some c.g.nextId, (s.origin c.r c.g).ten, .add, false, false, ⟨64, BitVec.ofNat 64 base, 64, 0, 0⟩, core, loc, true, c.tk⟩

/-- Its operation with the answer: POOL.A's capability or zeros, and whether it has succeeded in each thread's predicate. -/
def poolAnswer (free : Bool) (got : Option Cap) (p : Pend) : Pend :=
  let k := if free then 0 else 2
  let b := got.getD Cap.null
  { p with kind := .ready,
           vals := (if free then [] else [b.bits.extractLsb' 0 64, b.bits.extractLsb' 64 64]) ++
             List.replicate (p.dests.length - k) (if got.isSome then 1 else 0),
           capTag := if free then p.capTag else p.capTag.map fun t => (t.1, got.isSome) }

/-- A value put into one register of a group (R123). -/
def putReg (g : Group) (x : Reg × DWord) : Group :=
  match x.1 with
  | .word l w => g.modThread l fun t => { t with stack := mset t.stack w (x.2.setWidth 32) }
  | .scalar n => { g with scal := lput 0 g.scal n x.2, ctag := g.ctag &&& ~~~(1#24 <<< (n / 2)) }
  | .pred l n => if n = 0 then g else g.modThread l fun t => { t with preds := lput .f t.preds (n - 1) (if x.2 = 0 then .f else .t) }

/-- The group after a completion: the registers hold their values, the flag counts one less, the operation is complete. -/
def landed (p : Pend) (g : Group) : Group :=
  let h := (p.dests.zip p.vals).foldl putReg g
  let h := match p.capTag with
    | some (n, true) => { h with ctag := h.ctag ||| (1#24 <<< n) }
    | _ => h
  { h with flags := lput 0 g.flags p.flag (g.flag p.flag - 1),
           pend := g.pend.map fun x => if x.id = p.id then { x with done := true } else x }

end Sys2Proof.Claims
end

