-- ==== Sys2Proof/EngineClaims.lean ====
section
/-! DEFINITION. The terms of the statements on copies, barriers, the matrix engine and what acts by itself. -/

namespace Sys2Proof.Claims

open Sys2Proof Sys2Proof.Machine

/-- The state s1 that an instruction's own work has made, with the issuing set past the instruction and the latches aged (R19,
R124): nothing else differs from s1. -/
def PastIn (s1 : State) (c : Ctx) (f : Form) (t : State) : Prop :=
  ∃ g1 g, s1.group? c.r = some g1 ∧ t = s1.setGroup c.r g ∧
    g = { g1 with threads := g.threads, latches := (c.latched f.hold f.a f.lit 64 g1).latches } ∧
    ∀ l, g.thread l = if l ∈ c.set then past c (g1.thread l) else g1.thread l

/-- The state in which the group's flag counts one more operation. -/
def withOp (s : State) (c : Ctx) (p : Pend) : State := s.setGroup c.r (counted p c.g)

/-- The predicate D of each thread whose guard holds, as destinations. -/
def predRegs (c : Ctx) (f : Form) (n : Nat) : List Reg := (c.on f.guard).map fun l => Reg.pred l n

/-- One value for every destination. -/
def sameVals (ds : List Reg) (v : Nat) : List DWord := ds.map fun _ => BitVec.ofNat 64 v

/-- Scalar, `zero` or literal, where the literal is there. -/
def uniform (f : Form) (o : Opnd) : Bool := uniformSource f.lit o

/-- The address A + B, read whole. -/
def wholeAddr (c : Ctx) (f : Form) : Nat := (c.g.read c.tk f.lit 64 0 f.a + c.g.read c.tk f.lit 64 0 f.b) % 2 ^ 64

/-! ### Copies (R238 to R249) -/

/-- The channel that CPY's descriptor describes, with the slot word of its conversion and the address of its codebook. -/
def describedBy (s : State) (c : Ctx) (f : Form) : Channel :=
  let off := wholeAddr c f % 2 ^ 22
  let tags := (s.core c.r.core).stags
  let d := Channel.reset.describe (s.spadLoad c.r.core off 64) (tags.contains (off / 16)) (tags.contains (off / 16 + 1))
  { d with slotw := BitVec.ofNat 64 (copySlot s c d).1 }
where
  /-- The slot of the conversion; none without one. -/
  copySlot (s : State) (c : Ctx) (d : Channel) : Nat × Nat := if d.conv = 0 then (0, 0) else s.slot c.g d.cslot

/-- The launch arguments of a group. -/
def argsOf (s : State) (g : Group) : List Cap := ((s.gridOf g).map (·.args)).getD []

/-- The channel as CPY starts it (R243, R246): RUN, at the start of its stream, every WP 0. -/
def startedChannel (s : State) (c : Ctx) (f : Form) : Channel :=
  let d := describedBy s c f
  let recv := d.receivers (s.origin c.r c.g)
  { d with told := none, st := .run, ref := c.r, ten := if c.sys then 0 else c.g.ten, team := c.g.team, pend := c.g.nextId,
           pc := c.pc, len := c.len, recv := recv, wp := recv.map fun x => (x.1, 0), table := [],
           tabAt := ((argsOf s c.g).getD (slotCbix d.slotw.toNat) Cap.null).base, why := none, cancel := false, pos := 0, buf := [],
           drop := [], xs := [] }

/-- What CPWP reads of a channel (R247): the state's code, the owner's team slot, WP as a core sees it. -/
def channelWord (k : Channel) (core : Nat) : Nat :=
  (match k.st with | .idle => 0 | .run => 1 | .done => 2 | .held => 3 | .cancelled => 4 | .spzFull => 5) * 2 ^ 60
    + k.team % 16 * 2 ^ 40 + k.wpFor core % 2 ^ 40

/-! ### Barrier objects (R274 to R284) -/

/-- The object that A + B names: an aligned address on SPD or DSP. -/
def objectAt (s : State) (c : Ctx) (f : Form) : Option (Nat × Nat) :=
  if wholeAddr c f / 2 ^ 60 = 2 ∨ wholeAddr c f / 2 ^ 60 = 4 then
    match s.path (s.origin c.r c.g) .load (wholeAddr c f) 1 with
    | some (.spad k off _) => if wholeAddr c f % 16 = 0 then some (k, off) else none
    | _ => none
  else none

/-- A barrier instruction on an object: its form, the conditions on its operands, what it asks of the object's unit, and the
operation that waits for the answer. -/
def barrierOf (c : Ctx) (off core : Nat) : Instr → Option (Form × Bool × BarOp × Option Pend)
  | .binit f =>
    let n := c.g.read c.tk f.lit 64 0 f.c
    some (f, isS f.a && uniform f f.b && uniform f f.c && f.c != .zero && decide (0 < n) && decide (n < 4096), .init off n, none)
  | .barv f => some (f, isS f.a && uniform f f.b, .arrive off, none)
  | .bexp f => some (f, isS f.a && uniform f f.b && uniform f f.c, .expect off (c.g.read c.tk f.lit 64 0 f.c), none)
  | .bwait f =>
    match predName f.d with
    | some n =>
      let q := c.g.read c.tk f.lit 64 0 f.c % 2 == 1
      some (f, isS f.a && uniform f f.b && uniform f f.c && flagFree c f && !c.waitsFull true, .wait off q c.r c.g.nextId,
        some (opOf c f (.bsent core off q) (predRegs c f n) []))
    | none => none
  | .btry f =>
    let q := c.g.read c.tk f.lit 64 0 f.c % 2 == 1
    let code := f.imm.getLsbD 0
    let ok := isS f.a && uniform f f.b && uniform f f.c && flagFree c f && !c.waitsFull true
    let op (ds : List Reg) : Option Pend := some (opOf c f (.btry core off q code) ds [])
    if code then (match f.d with
      | .s n => some (f, ok, .test off q code c.r c.g.nextId, op [.scalar n.val])
      | _ => none)
    else (match predName f.d with
      | some n => some (f, ok, .test off q code c.r c.g.nextId, op (predRegs c f n))
      | none => none)
  | _ => none

/-- An object's fields as numbers: EXPA, PENA, BRK, PH, EXPB, DELB. -/
structure Obj where
  expa : Nat
  pena : Nat
  brk  : Bool
  ph   : Bool
  expb : Nat
  delb : Nat
deriving DecidableEq, Repr

/-- The object in a core's scratchpad (R274). -/
def objOf (s : State) (core off : Nat) : Obj :=
  let o := ofLe (cread (s.core core).spad off 16)
  ⟨o % 2 ^ 12, o / 2 ^ 12 % 2 ^ 12, o / 2 ^ 62 % 2 == 1, o / 2 ^ 63 % 2 == 1, o / 2 ^ 64 % 2 ^ 32, o / 2 ^ 96 % 2 ^ 32⟩

/-- The completion test (R276): with no arrival and no byte outstanding the phase flips, and the object starts its next one. -/
def tested (o : Obj) : Obj :=
  if o.pena = 0 ∧ o.expb ≤ o.delb then { o with pena := o.expa, ph := !o.ph, expb := 0, delb := o.delb - o.expb } else o

/-- What BARV and BEXP leave of an object in use; the first sum too large for EXPB breaks it (R277, R281, R282). -/
def objAfter (o : Obj) : BarOp → Obj
  | .arrive _ => if o.pena = 0 then o else tested { o with pena := o.pena - 1 }
  | .expect _ n => if 2 ^ 32 ≤ o.expb + n then { o with brk := true } else tested { o with expb := o.expb + n }
  | _ => o

/-- A waiting operation after an operation of a unit at the object `o`: a phase flip completes the BWAITs of the old parity. -/
def releasedBy (core off : Nat) (o : Obj) (op : BarOp) (p : Pend) : Pend :=
  if (objAfter o op).ph != o.ph && p.waitsOn core off && p.parity == o.ph then p.finishAll true else p

/-- A BTRY's operation with its answer: the code, or whether the phase is complete. -/
def tried (st : Bool) (code : Nat) (p : Pend) : Pend :=
  if st then p.finish [BitVec.ofNat 64 code] else p.finish (sameVals p.dests (if code = 0 then 1 else 0))

/-- A BWAIT's operation at the unit: met, failed, or waiting. -/
def waited (core off : Nat) (q armed : Bool) (o : Obj) (p : Pend) : Pend :=
  if o.brk || !armed then p.finish (sameVals p.dests 0)
  else if o.ph != q then p.finish (sameVals p.dests 1)
  else { p with kind := .bwait (some (core, off)) q 0 }

/-- A group with one of its operations changed. -/
def withPend (g : Group) (id : Nat) (f : Pend → Pend) : Group := { g with pend := g.pend.map fun p => if p.id = id then f p else p }

/-- Where an operation acts. -/
def opOffset : BarOp → Nat
  | .init off _ => off
  | .arrive off => off
  | .expect off _ => off
  | .test off _ _ _ _ => off
  | .wait off _ _ _ => off

/-! ### The matrix engine (R250 to R273) -/

/-- The function numbers of the matrix instructions (R252). -/
def matrixOf : Instr → Option (Nat × Form)
  | .mma f => some (1, f)
  | .mmac f => some (2, f)
  | .msmx f => some (3, f)
  | .mdrn f => some (4, f)
  | .mzero f => some (5, f)
  | .mlda f => some (6, f)
  | .mside f => some (7, f)
  | _ => none

/-- The operation that a matrix instruction names: MZERO's tile word in A, or the block at A + B with its granules' tags and slots. -/
def matrixOp (s : State) (c : Ctx) (fn : Nat) (f : Form) : MatOp :=
  if fn = 5 then c.matNew fn (leBytes 8 (c.g.read c.tk f.lit 64 0 f.a)) []
  else
    let off := wholeAddr c f % 2 ^ 22
    let m := c.matNew fn (s.spadLoad c.r.core off 128) ((List.range 8).map fun i => (s.core c.r.core).stags.contains (off / 16 + i))
    { m with slots := [s.slot c.g m.sla, s.slot c.g m.slb, s.slot c.g m.slc].map fun x => BitVec.ofNat 64 x.1 }

/-- Quarter (i, j) of an MMAC whose origin is a core (R263). -/
def quarterOf (m : MatOp) (core i j : Nat) : MatOp := { m with qi := i, qj := j, coreA := core + 16 * i, coreB := core + j }

/-- The quarters that go to the other cores of its square: those with rows and columns. -/
def quartersOf (m : MatOp) (core : Nat) : List (Nat × MatOp) :=
  if m.fn = 2 then [(0, 1), (1, 0), (1, 1)].filterMap fun x =>
    if 128 * x.1 < m.rows ∧ 192 * x.2 < m.cols then some (core + 16 * x.1 + x.2, quarterOf m core x.1 x.2) else none
  else []

/-- The cores after an operation has entered its queues: its own core's queue has it last, the other cores' have their quarters on the way. -/
def queuedAt (s : State) (core : Nat) (m : MatOp) (k : Nat) : Core :=
  if k = core then { s.core k with mat := (s.core k).mat ++ [m] }
  else { s.core k with matIn := (s.core k).matIn ++ ((quartersOf m core).filter fun x => x.1 == k).map (·.2) }

/-- The scratchpad byte, numbered over all cores, that an SPD or DSP address of the group names. -/
def byteAt (s : State) (c : Ctx) (a : Nat) : Nat :=
  let core := if a / 2 ^ 60 = 4 then (match s.team c.r c.g with
      | some t => 16 * (t.y0 + a / 2 ^ 26 % 16) + t.x0 + a / 2 ^ 22 % 16
      | none => c.r.core)
    else c.r.core
  core * 2 ^ 22 + a % 2 ^ 22

/-- The scratchpad ranges that an operation owns as its output (R262): MSMX's P tile, MDRN's rows, the pairs that MSIDE saves. -/
def outputOf (s : State) (c : Ctx) (m : MatOp) : List (Nat × Nat) :=
  let k := m.cap 0x10
  let row (r : Nat) : Nat := byteAt s c ((k.base + m.off30 + 64 * r * k.pitch) % 2 ^ 64)
  if k.base / 2 ^ 60 ≠ 2 ∧ k.base / 2 ^ 60 ≠ 4 then []
  else match m.fn with
    | 3 => [(row 0, m.pBytes)]
    | 4 => if m.dmode then [] else (List.range m.rows).map fun r => (row r, m.drainLen)
    | 7 => if m.opn = 1 then [(row 0, 8 * m.rows)] else []
    | _ => []

/-- The registers that it owns: in register mode MDRN's element (i, j) is v(VBASE + j) of lane i (R269). -/
def drainedRegs (c : Ctx) (m : MatOp) : List Reg :=
  if m.fn = 4 ∧ m.dmode = true then
    ((List.range m.rows).map fun i => (List.range m.cols).map fun j => Reg.word i ((c.g.thread i).wb + (m.vbase + j))).flatten
  else []

/-- The high words of its slots. -/
def matrixHigh (s : State) (c : Ctx) (fn : Nat) (f : Form) : List Nat :=
  let m := matrixOp s c fn f
  if fn = 5 then [] else [s.slot c.g m.sla, s.slot c.g m.slb, s.slot c.g m.slc].map (·.2)

end Sys2Proof.Claims
end

