-- ==== Sys2Proof/SystemClaims.lean ====
section
/-! DEFINITION. The terms of the statements on Strand sessions, Loupe passes, launches and the system instructions. -/

namespace Sys2Proof.Claims

open Sys2Proof Sys2Proof.Machine

/-! ### Strand (R339 to R352) -/

/-- The session that IMM names. -/
def sessNum (f : Form) : Nat := if f.imm.getLsbD 0 then 1 else 0

/-- SOPEN's descriptor: 512 bytes at A + B with the tags of their granules. -/
def sessDesc (s : State) (c : Ctx) (f : Form) : SessDesc :=
  let off := wholeAddr c f % 2 ^ 22
  ⟨s.spadLoad c.r.core off 512, (List.range 32).map fun i => (s.core c.r.core).stags.contains (off / 16 + i)⟩

/-- The session that SOPEN opens for a group. -/
def openedSession (s : State) (c : Ctx) (f : Form) : Session :=
  let d := sessDesc s c f
  { d.opened (s.spadLoad c.r.core d.taboff 2048) with ref := c.r, ten := if c.sys then 0 else c.g.ten, status := 0 }

/-- A session as SRUN starts it (R350): RUN from its first blocks, with an empty ranked list. -/
def runSession (x : Session) (c : Ctx) : Session :=
  let n := x.plan.countP fun w => w.toNat / 2 ^ 60 == 1
  { x with st := .run, topk := [], doc := none, cur := List.replicate n 0, posts := List.replicate n [], last := List.replicate n none,
           prev := List.replicate n none, gaps := [], again := [], floor := none, ref := c.r, ten := if c.sys then 0 else c.g.ten, pend := c.g.nextId, pc := c.pc,
           len := c.len, why := none }

/-- What SSTAT reads (R352): state, status, elements in the list, highest complete document. -/
def sessionWord (x : Session) : Nat :=
  (match x.st with | .closed => 0 | .opened => 1 | .run => 2 | .done => 3 | .fault => 4 | .held => 5) * 2 ^ 60
    + x.status % 256 * 2 ^ 52 + x.topk.length % 512 * 2 ^ 43 + (x.doc.getD 0xffffffff) % 2 ^ 32

/-- An operation that answers at once into scalar register n. -/
def answerOp (c : Ctx) (f : Form) (n v : Nat) : Pend := opOf c f .ready [.scalar n] [BitVec.ofNat 64 v]

/-! ### Loupe (R311 to R334) -/

/-- IVLO and IVHI of an ordinary grid copy A; of a Loupe grid they take an end of it (R333). -/
def endOf : Instr → Option RegOp
  | .ivlo f | .ivhi f => some ⟨f, if isS f.d then 64 else 32, if isS f.d then 64 else 32, atW (if isS f.d then 64 else 32) [f.a], fun v => arg v 0⟩
  | _ => none

/-- The interval in vector register n of a lane of a Loupe grid: its two words as bit patterns (R317). -/
def ends (c : Ctx) (l n : Nat) : Word × Word :=
  (c.g.word c.tk l ((c.g.thread l).wb + 2 * n), c.g.word c.tk l ((c.g.thread l).wb + 2 * n + 1))

/-- A point written into vector register n of a Loupe grid, with its KIND (R317). -/
def putLoupe (n : Nat) (v : Word) (kind : BitVec 2) (t : Thread) : Thread :=
  { t with stack := mset (mset t.stack (t.wb + 2 * n) v) (t.wb + 2 * n + 1) v, hid := mset t.hid (t.wb + 2 * n) ⟨kind, false, false⟩ }

/-- A number lies in an interval read as a type at a width (R318). -/
def holds (uns : Bool) (w : Nat) (i : Iv) (x : Nat) : Prop :=
  (i.ends uns w).1 ≤ valIn uns w x ∧ valIn uns w x ≤ (i.ends uns w).2

/-- Both ends are bit patterns of the width. -/
def fitsIn (w : Nat) (i : Iv) : Prop := i.lo < 2 ^ w ∧ i.hi < 2 ^ w ∧ (i.isPoint = true → i.wide = false)

/-! ### System registers (R36 to R40, R133, R148, R356, R357) -/

/-- The group whose registers a number below 0x100 names: the issuing group, or, for a system group, the one that SERV names. -/
def ownerOf (s : State) (c : Ctx) : GRef × Option Group :=
  let w := (s.quarter c.r.core c.r.qtr).serv
  if c.sys && !w.getLsbD 0 then
    let r : GRef := ⟨w.toNat / 2 ^ 32 % 256, w.toNat / 2 ^ 30 % 4, w.toNat / 2 ^ 24 % 64⟩
    (r, s.group? r)
  else (c.r, some c.g)

/-- The owner's team, in a slot of a tenant. -/
def ownerTeam (s : State) (c : Ctx) : Option Team :=
  (ownerOf s c).2.bind fun g => if (ownerOf s c).1.slot < 63 then s.team (ownerOf s c).1 g else none

/-- Its grid. -/
def ownerGrid (s : State) (c : Ctx) : Option Grid := (ownerOf s c).2.bind s.gridOf

/-- IDGRP (R37): NGRP, SLOT, QTR, RIDX, LPASS, ROLE, GIDX. -/
def idgrpOf (r : GRef) (g : Group) (tm : Team) : Nat :=
  (tm.ngrp - 1) % 32 * 0x1000000 + r.slot % 64 * 0x40000 + r.qtr % 4 * 0x10000 + g.ridx % 32 * 0x100 + (if g.lpass then 0x80 else 0)
    + g.role.toNat * 0x20 + g.gidx % 32

/-- IDCLUS (R39): WAVE, H, W, DY, DX, Y0, X0, TIDX. -/
def idclusOf (tm : Team) : Nat :=
  tm.wave % 256 * 2 ^ 40 + tm.h % 16 * 2 ^ 36 + tm.w % 16 * 2 ^ 32 + tm.dy % 16 * 2 ^ 28 + tm.dx % 16 * 2 ^ 24 + tm.y0 % 16 * 2 ^ 20
    + tm.x0 % 16 * 2 ^ 16 + tm.tidx % 16

/-- The value of a system register where the manual gives it. -/
def sysValue (s : State) (c : Ctx) (n : Nat) : Option Nat :=
  let q := s.quarter c.r.core c.r.qtr
  match n with
  | 0x10 => (ownerOf s c).2.bind fun g => (ownerTeam s c).map (idgrpOf (ownerOf s c).1 g)
  | 0x12 => (ownerTeam s c).map idclusOf
  | 0x13 => (ownerTeam s c).map fun tm => tm.gy % 65536 * 2 ^ 48 + tm.gx % 65536 * 2 ^ 32 + tm.cy % 65536 * 2 ^ 16 + tm.cx % 65536
  | 0x15 => (ownerOf s c).2.bind fun g => if g.lpass then (ownerGrid s c).map fun x =>
      x.loupe.decided * 2 ^ 48 + x.loupe.split * 2 ^ 32 + x.loupe.points * 2 ^ 16 + x.loupe.tiles.length % 65536 else some 0
  | 0x16 => (ownerOf s c).2.bind fun g => (s.part? g.part).map fun p => g.part % 65536 * 2 ^ 16 + p.ndev % 256 * 2 ^ 8 + p.didx % 256
  | 0x18 => (ownerTeam s c).map (·.spzcfg.toNat)
  | 0x109 => if c.sys then ((s.core c.r.core).part.bind s.part?).map (·.rfq.toNat) else none
  | 0x10a => if c.sys then ((s.core c.r.core).part.bind s.part?).map (·.dirtyb.toNat) else none
  | 0x11 => (ownerOf s c).2.map fun _ => (ownerOf s c).1.core % 256
  | 0x14 => (ownerOf s c).2.map fun g => (if g.univ then 1 else 0) + (if g.strict then 2 else 0) + (if g.acqf then 4 else 0)
  | 0x17 => (ownerOf s c).2.map fun _ => s.cycle
  | 0x100 => if c.sys then some q.sroot.toNat else none
  | 0x101 => if c.sys then some q.svec.toNat else none
  | 0x102 => if c.sys then some q.serv.toNat else none
  | 0x103 => if c.sys then some q.frec.toNat else none
  | 0x104 => if c.sys then some q.fqb.toNat else none
  | 0x105 => if c.sys then some q.frzto.toNat else none
  | 0x106 => if c.sys then some q.sfault.toNat else none
  | 0x107 => if c.sys then some (s.core c.r.core).saving.toNat else none
  | 0x108 => if c.sys then some q.troot.toNat else none
  | n => if 0x20 ≤ n ∧ n < 0x30 then (ownerGrid s c).map fun x => (x.lrec.getD (n - 0x10) 0).toNat else none

/-- The privileged instructions with the layout of R116, but SYSRD and SYSWR (R356). -/
def privilegedForm : Instr → Option Form
  | .eret f | .tlbiPage f | .tlbiTen f | .tlbiAll f | .slogSt f | .slogRd f | .slogDh f | .freeze f | .thaw f | .thawIp f
  | .winsp f | .winfl f | .haltGrid f | .haltTen f | .cmint f => some f
  | _ => none

/-! ### Windows, images and HALT (R378 to R380, R386 to R390) -/

/-- The stack words of a lane that WINSP (`out`) or WINFL of N words moves, in their order (R379). -/
def wordsMoved (g : Group) (out : Bool) (n l : Nat) : List Nat :=
  let t := g.thread l
  let ev (x : Nat) : Nat := if g.lpass then x / 2 * 2 else x
  if out then (List.range (ev (min n (t.wb - t.rb)))).map (t.rb + ·)
  else (List.range (ev (min n (min t.rb (t.rb + g.words - t.wb - (if g.lpass then 64 else 32)))))).map (t.rb - 1 - ·)

/-- Word w of lane l, at A + 0x40000 × l + 4 × w, is stored or loaded; in a Loupe grid the hidden byte of an even word goes with it,
at A + 0x40000 × l + 0x34000 + w / 2 (R379, R390). -/
def moveWord (out : Bool) (o : Origin) (r : GRef) (a l : Nat) (s : State) (w : Nat) : State × Moved :=
  let at_ := (a + 0x40000 * l + 4 * w) % 2 ^ 57
  let hid := (a + 0x40000 * l + 0x34000 + w / 2) % 2 ^ 57
  match s.group? r with
  | none => (s, .fault)
  | some g =>
    let two := g.lpass && w % 2 == 0
    let h := (g.thread l).hidden w
    if out then
      match s.winStore o at_ (leBytes 4 (g.stored s.ticket l w).toNat) with
      | (u, .ok) => if two then
          u.winStore o hid [BitVec.ofNat 8 (h.kind.toNat + (if h.np then 4 else 0) + (if h.wide then 8 else 0))] else (u, .ok)
      | x => x
    else
      let put (u : State) (bs : List Byte) : State :=
        u.modGroup r fun g => g.modThread l fun t => { t with stack := mset t.stack w (BitVec.ofNat 32 (ofLe bs)) }
      match s.winLoad o at_ 4 with
      | (u, .ok, bs) => if two then
          (match u.winLoad o hid 1 with
           | (v, .ok, b) =>
             let k := ofLe b
             ((put v bs).modGroup r fun g => g.setHidden l w ⟨BitVec.ofNat 2 k, k / 4 % 2 == 1, k / 8 % 2 == 1⟩, .ok)
           | (v, m, _) => (v, m))
        else (put u bs, .ok)
      | (u, m, _) => (u, m)

/-- Words one after another, up to the first fault: how many have moved; none when one waits. -/
def moveWords (one : State → Nat → State × Moved) : State → List Nat → State × Option Nat
  | s, [] => (s, some 0)
  | s, w :: ws => match one s w with
    | (u, .ok) => ((moveWords one u ws).1, (moveWords one u ws).2.map (· + 1))
    | (u, .fault) => (u, some 0)
    | (u, .wait) => (u, none)

/-- The threads one after another; RB of each moves by its own number, and the result is the smallest. -/
def moveLanes (out : Bool) (o : Origin) (r : GRef) (a n : Nat) : State → List Nat → State × Option Nat
  | s, [] => (s, some 65536)
  | s, l :: ls => match s.group? r with
    | none => (s, some 0)
    | some g => match moveWords (moveWord out o r a l) s (wordsMoved g out n l) with
      | (u, none) => (u, none)
      | (u, some k) =>
        let v := u.modGroup r fun g => g.modThread l fun t => { t with rb := if out then t.rb + k else t.rb - k }
        ((moveLanes out o r a n v ls).1, (moveLanes out o r a n v ls).2.map (min k))

/-- A group belongs to a grid. -/
def inGrid (part handle : Nat) (g : Group) : Bool := g.part == part && g.handle == handle

/-- The number of a tenant's groups that a test names: resident ones, and those spilled on any core (R41). -/
def groupCount (s : State) (p : Group → Bool) : Nat :=
  (s.tenantGroups.filter fun x => p x.2).length + ((s.cores.map fun c => (c.2.spilled.filter fun x => p x.2).length)).sum

/-- A section of one core whose one group, of GIDX gi, was saved Ready and stands for nothing but itself: no wait, no cancelled access, no
record, no flag, and no channel, operation, session or side-log entry of its core; `kp` is its core part (R386 to R390). -/
structure PlainSection (im : Image) (kp : List Byte) (gi : Nat) : Prop where
  one   : im.cw = 1 ∧ im.ch = 1 ∧ im.part 0 = some kp
  group : partGroups kp = [gi]
  ready : recordOf kp gi 0 / 2 ^ 60 = 1
  waits : ∀ k, k < 8 → recordOf kp gi (8 + 2 * k) / 2 ^ 60 = 0
  calm  : recordOf kp gi 6 = 0 ∧ recordOf kp gi 32 / 2 ^ 56 = 0 ∧ recordOf kp gi 2 = 0 ∧ recordOf kp gi 3 = 0
  chans : savedChans kp = []
  mats  : ∀ e, e < 8 → dwOff kp (0x25800 + 256 * e + 8 * 19) % 16 = 0
  sess  : ∀ n, n < 2 → dwOff kp (0x26000 + 8192 * n) / 2 ^ 60 = 0
  log   : partLog kp = 0

/-- A TLB entry that TLBI names (R375). -/
def tlbiHits (s : State) (c : Ctx) (f : Form) (kind : Nat) (t : TlbEntry) : Bool :=
  let ten := (s.quarter c.r.core c.r.qtr).serv.toNat / 2 ^ 48 % 65536
  let sup := f.imm.getLsbD 2
  let mine := t.sup == sup && (sup || t.ten == ten)
  match kind with
  | 0 => mine && t.vpn == vpnOf t.big (c.g.read c.tk f.lit 64 0 f.a % 2 ^ 57)
  | 1 => mine
  | _ => true

end Sys2Proof.Claims
end

