-- ==== Sys2Proof/OutsideClaims.lean ====
section
/-! DEFINITION. The terms of the statements on steps, turns, grids, freezes, pages, the fabric, the host and resets. -/

namespace Sys2Proof.Claims

open Sys2Proof Sys2Proof.Machine

/-! ### Words (R115 to R120) -/

/-- The operand fields of an instruction in its base word alone. -/
def bare (d a b : Opnd) : Form :=
  { ext := false, hold := 0, guard := ⟨false, 0⟩, d := d, a := a, b := b, c := .unused, mod := 0, scope := 0, slot := 0, fs := false, imm := 0,
    lit := none }

/-- The operand fields of an instruction with W1 and W2. -/
def wide (d a b c : Opnd) : Form := { bare d a b with ext := true, c := c }

/-! ### Steps and turns (R115, R122, R130, R132) -/

/-- The turn belongs to a group that may issue in it (R132, R134, R135, R420): bring-up has come to compute, its core runs, the turn is no
empty one, and no FREEZE makes the group halt. -/
def OnTurn (s : State) (r : GRef) (g : Group) : Prop :=
  (s.core s.turn.core).halted = false ∧ (s.core s.turn.core).inService = true ∧ s.resetting = false ∧ 2 ≤ s.host.step ∧
    (s.quarter s.turn.core s.turn.qtr).gap.getD (s.cycle % 8) false = false ∧ s.turnRef = some r ∧ s.group? r = some g ∧
    g.st = .ready ∧ g.frozen = false ∧ s.freezeHere r g = false

/-- The group as a turn takes it up: of threads that THAW has restored, the clause is read from the code (assumption 12). -/
def clauseKnown (s : State) (r : GRef) (g : Group) (ls : List Nat) : Group :=
  if (g.thread (ls.headD 0)).left.isSome then g else s.knowClause r g ls

/-- The state as a turn takes it up. -/
def clauseState (s : State) (r : GRef) (g : Group) (ls : List Nat) : State :=
  if (g.thread (ls.headD 0)).left.isSome then s else s.setGroup r (clauseKnown s r g ls)

/-- The bytes at a PC can be fetched and are the words of an instruction (R115, R130): `t` is the state after the fetch, with no
instruction latched and the instruction's LEN noted. -/
def Reads (s : State) (o : Origin) (pc : DWord) (i : Instr) (t : State) : Prop :=
  ∃ b0 rest s1 s2 n, s.fetchWord o pc = (s1, .bytes b0) ∧
    s1.fetchWords o (pc + 4) (lenBytes (ofLe b0 % 4) / 4 - 1) = (s2, .bytes rest) ∧ decode (b0 ++ rest) = .ok (i, n) ∧
    t = { s2 with issue := none, ilen := BitVec.ofNat 2 (ofLe b0 % 4) }

/-- What a step adds to the instruction of its turn: the turn ends, and the step ends. -/
def turnDone : Host.Outcome State Fault Refusal → Host.Outcome State Fault Refusal
  | .next t => .next t.endTurn.endStep
  | x => x

/-- A good header whose flags are clear (R122). -/
def headerOpen (g : Group) (w : Nat) : Bool :=
  w % 256 == 0 && !badSet (hdrSeta w) && !badSet (hdrSetb w) && g.clear (hdrWait w)

/-- A quarter after one of its waiting records has gone to the ring's tail (R360). -/
def ringTakes (x : Record) (q : Quarter) : Quarter :=
  { q with waitRec := q.waitRec.erase x, ring := q.ring ++ [{ x with seq := q.seq }], tail := (q.tail + 1) % Config.ringRecords, seq := q.seq + 1 }

/-! ### Grids (R98, R101 to R107) -/

/-- How many tokens of a grid's DONE words are a token (R98). -/
def doneCount (x : Grid) (n : Nat) : Nat := x.doneTokens.countP (· == n)

/-- A group of a team as its admission places it (R15, R28, R37): every thread at ENTRY, in GIDX's quarter. -/
def Placed (t : State) (x : Grid) (core slot gi : Nat) : Prop :=
  ∃ k g, k < 63 ∧ t.group? ⟨core, gi % 4, k⟩ = some g ∧ g.handle = x.handle ∧ g.ten = x.ten ∧ g.team = slot ∧ g.gidx = gi ∧
    ∀ l, l < 64 → (g.thread l).live = true ∧ (g.thread l).pc = BitVec.ofNat 64 (x.word 1)

/-! ### Freezes (R368, R369) -/

/-- What FREEZE_COMPLETE halts and performs before it looks whether everything stands still. -/
def stilled (s : State) (ten : Nat) : State :=
  let s := (s.cores.map (·.1)).foldl (fun s c => (s.haltGroups ten c fun g => !g.runsOn).haltSpilled ten c) s
  if s.tenantGroups.all (fun x => x.2.ten != ten || x.2.frozen) then s.drainTenant ten else s

/-! ### Pages (R218 to R220) -/

/-- A page's leaf in its tenant's tables. -/
def leafOf (s : State) (ten page : Nat) : Option Leaf :=
  match (s.moveRoot ten).map fun root => walk s.mem root (page * 65536) with
  | some (.ok l) => some l
  | _ => none

/-- A page's bytes and tags stand in the frame of a number as they stood in its leaf's frame (R82, R218), but where the leaf itself or the
dirty bitmap (R397) lies. -/
def pageComes (s t : State) (ten : Nat) (l : Leaf) (new : Nat) : Prop :=
  let src := frameKey (frameNumber l.e)
  let dst := frameKey new
  let u := s.copyFrame src dst
  let v := u.moveDirty (s.partOf ten) (frameNumber l.e) new
  (∀ i, i < 65536 → (dst + i < l.addr ∨ l.addr + 8 ≤ dst + i) → cget v.mem (dst + i) = cget u.mem (dst + i) →
    cget t.mem (dst + i) = cget s.mem (src + i)) ∧
  ∀ i, i < 4096 → (dst + 16 * i + 16 ≤ l.addr ∨ l.addr + 8 ≤ dst + 16 * i) → v.mtag (dst / 16 + i) = u.mtag (dst / 16 + i) →
    t.mtag (dst / 16 + i) = s.mtag (src / 16 + i)

/-- A page that has come from another device fills a near frame, but where the leaf itself or the dirty bitmap lies (R400); its tagged
granules satisfy R79. -/
def pageFills (s t : State) (ten page : Nat) (l : Leaf) (frame : Nat) : Prop :=
  let dst := frame * 65536
  let cells := s.pageCells ten (slice l.e 51 44) page dst
  let u : State := { s with mem := coverlay (cclear s.mem dst 65536) cells }
  (∀ i, i < 65536 → (dst + i < l.addr ∨ l.addr + 8 ≤ dst + i) →
    cget (u.setDirtyBit (s.partOf ten) frame).mem (dst + i) = cget u.mem (dst + i) → cget t.mem (dst + i) = cget cells (dst + i)) ∧
  ∀ i, i < 4096 → t.mtag (dst / 16 + i) = true →
    (capOfWords (BitVec.ofNat 64 (creadLe t.mem (dst + 16 * i) 8)) (BitVec.ofNat 64 (creadLe t.mem (dst + 16 * i + 8) 8)) true).formed = true


/-! ### The host (R408 to R412) -/

/-- The pieces of a host write, one after another, each marked as a write of its page (R213). -/
def putPieces : State → List HostPart → List Byte → State
  | s, [], _ => s
  | s, p :: r, bs => putPieces ((s.markHost p.va).writeLoc p.loc (bs.take p.n) false) r (bs.drop p.n)

/-- A Translation Request answered by a Page Request (R416). -/
def askedPage (h : Endpoint) (pasid page : Nat) : Endpoint :=
  { h with prs := h.prs ++ [(pasid, page, false)], out := [.prs pasid (BitVec.ofNat 64 (page * 4096)) false] }

end Sys2Proof.Claims
end

