-- ==== Sys2Proof/Certificates/Slice0/Obligations.lean ====
section
/-! DEFINITION. The statements for the provers. Each docstring names the rules of the manual that the statement rests on. -/

open Sys2Proof Sys2Proof.Machine Sys2Proof.Claims

/-! ### Encodings, steps and resets -/

/-- Words written out bit by bit from the layouts of R116 to R120, R125 and the assignments of R126 and R127 decode to their instructions;
two of R130's words are refused. The fields of a base word are H, N, G, B, A, D, OP and LEN. -/
def Obligations.WordsDecode : Prop :=
  decode (leBytes 4 0b00_0_000_000010_000011_000001_001000_00) = .ok (.add (bare (.v 1) (.v 3) (.v 2)), 4) ∧
  decode (leBytes 4 0b00_0_000_111011_001100_000001_010100_00) = .ok (.cmp (bare (.v 1) (.v 12) .zero), 4) ∧
  decode (leBytes 4 0b00_0_000_000110_000101_000100_011000_00) = .ok (.fadd (bare (.v 4) (.v 5) (.v 6)), 4) ∧
  decode (leBytes 4 0b00_0_000_000010_100000_000011_011110_00) = .ok (.ld (bare (.v 3) (.s 0) (.v 2)), 4) ∧
  decode (leBytes 4 0b00_0_001_111111111111111111_000010_00) = .ok (.br ⟨false, 1⟩ (-1), 4) ∧
  decode (leBytes 4 0b00_0_000_0000000000000101_01_000101_00) = .ok (.call ⟨false, 0⟩ 1 5, 4) ∧
  decode (leBytes 4 0b00_1_011_000000000000000000_000111_00) = .ok (.exit ⟨true, 3⟩, 4) ∧
  decode (leBytes 4 0b00_0_000_111101_010110_010111_110011_11 ++ leBytes 4 0x021 ++ leBytes 4 0 ++ leBytes 8 1) =
    .ok (.shflUp { wide (.v 23) (.v 22) .lit .unused with lit := some 1 }, 20) ∧
  decode (leBytes 4 0b00_0_000_000000_111011_000010_110111_01 ++ leBytes 4 0x004 ++ leBytes 4 0) =
    .ok (.bwait (wide (.v 2) .zero .unused .unused), 12) ∧
  decode (leBytes 4 0b00_0_000_000000_000000_000000_110111_01 ++ leBytes 4 0b000000_0110_000_0_000000_000000000110 ++ leBytes 4 0) =
    .ok (.phase { wide .unused .unused .unused .unused with scope := 6 }, 12) ∧
  decode (leBytes 4 0b00_0_000_000000_101100_100100_111100_01 ++ leBytes 4 0x001 ++ leBytes 4 0) =
    .ok (.launch (wide (.s 4) (.s 12) .unused .unused), 12) ∧
  decode (leBytes 4 0b00_0_000_000000_000000_101010_111101_01 ++ leBytes 4 0x001 ++ leBytes 4 0x103) =
    .ok (.sysrd { wide (.s 10) .unused .unused .unused with imm := 0x103 }, 12) ∧
  decode (leBytes 4 0x000000b4) = .error .reservedMajor ∧ decode (leBytes 4 0x000000c4) = .error .badLength

/-- Decoding is the inverse of encoding (R116 to R131): every well-formed instruction's words decode to it, with every operand and
modifier at every value that its encoding admits, whatever bytes follow. -/
def Obligations.DecodeOfEncode : Prop :=
  ∀ (i : Instr) (rest : List Byte), i.wf = true → i.isEvent = false → decode (encode i ++ rest) = .ok (i, (encode i).length)

/-- Encoding is the inverse of decoding (R116 to R131): bytes that decode are the words of the instruction that they decode to, which
is well-formed, so that no bit of an instruction is left unread and every reserved form is refused. -/
def Obligations.EncodeOfDecode : Prop :=
  ∀ (bs : List Byte) (i : Instr) (n : Nat), decode bs = .ok (i, n) →
    i.wf = true ∧ i.isEvent = false ∧ n ≤ bs.length ∧ bs.take n = encode i

/-- A step runs the decoded instruction (R115, R122, R124, R132): with no event due, the turn's group runs the instruction
whose words stand at its issuing set's PC, in its clause or first of a clause that its header opens in the same turn,
and the turn ends; a due event is run as it stands, and no turn ends with it. The order of the cores within a cycle,
which events are due, and how the clause of a restored thread is found, are the model's choice (log entries 4, 11, 12). -/
def Obligations.StepRunsDecoded : Prop :=
  (∀ s r g l ls i t, s.agenda = [] → OnTurn s r g → g.issuingSet = l :: ls →
    let k := clauseKnown s r g (l :: ls)
    let s0 := clauseState s r g (l :: ls)
    ((∃ n, (k.thread l).left = some (n + 1)) → Reads s0 (s0.origin r k) (k.thread l).pc i t → step s = turnDone (exec i t)) ∧
    ((k.thread l).left = some 0 ∨ (k.thread l).left = none → ∀ s1 b, s0.fetchWord (s0.origin r k) (k.thread l).pc = (s1, .bytes b) →
      headerOpen k (ofLe b) = true →
      let h := k.enterClause s1.ticket (l :: ls) (ofLe b)
      Reads (s1.setGroup r h) ((s1.setGroup r h).origin r h) ((k.thread l).pc + 4) i t → step s = turnDone (exec i t)) ∧
    ((k.thread l).left = none → (k.thread l).cpos < 16 → ∀ s1 b, s0.fetchWord (s0.origin r k) (k.thread l).pc = (s1, .bytes b) →
      ofLe b % 256 ≠ 0 → Reads s1 (s1.origin r k) (k.thread l).pc i t → step s = turnDone (exec i t))) ∧
  (∀ s i rest t, s.agenda = i :: rest → exec i { s with agenda := rest } = .next t → t.issue = none → step s = .next t.endStep)

/-- Between steps no instruction is latched and the barrel turn names a core of the mesh and one of its quarters (R1, R132); every step
keeps this, from any state. -/
def Obligations.StepsKeepBetween : Prop := ∀ s t, step s = .next t → Between s → Between t

/-- Every step keeps every memory in its canonical form, so that one content of memory is one state (the near and capacity
memory and each core's scratchpad), and keeps each place to one group at most (R30, R198). The canonical form is the model's own
representation of memory. -/
def Obligations.StepsKeepCanonicalForms : Prop := ∀ s t, step s = .next t → MemoriesWf s ∧ PlacesRise s → MemoriesWf t ∧ PlacesRise t

/-! ### Register results -/

/-- ADD, SUB, MUL, MAD, MULH, DIV, REM, NEG, ABS, MIN and MAX, the bit operations, shifts and bit fields, MOV and LEA write the results
of R163, R167 and R169 to R175, and change nothing else. -/
def Obligations.IntegerResults : Prop :=
  ∀ i o s c, (arithOp i = some o ∨ bitsOp i = some o ∨ moveOp i = some o) → Issuing s c o.form.guard → (o.effect c).ok = true →
    ∃ t, exec i s = .next t ∧ After s c o.form o.aw (o.effect c).own (o.effect c).upd t

/-- CMP, FCMP and FCLASS with a predicate destination write their truth values (R173, R182, R185), p0 discarding its own (R120), and
change nothing else; SEL writes A or B in every thread of the issuing set by its guard, which never suppresses it (R174). -/
def Obligations.PredicateAndSelectResults : Prop :=
  (∀ i o s c, (cmpOp i = some o ∨ fpredOp i = some o) → Issuing s c o.form.guard → (o.effect c).ok = true →
     ∃ t, exec i s = .next t ∧ After s c o.form o.aw (o.effect c).own (o.effect c).upd t) ∧
  (∀ i e s c, s.ctx = some c → c.g.lpass = false → selEffect c i = some e → (∀ l ∈ c.set, c.guard e.form.guard l ≠ .u) →
     e.ok = true → ∃ t, exec i s = .next t ∧ After s c e.form e.aw e.own e.upd t)

/-- ADDC chains its carry through predicate C (R168), IDX forms the address of a capability's element (R176), and CVT.blk,
RQ, PLN and UNPL write each half's block or planes (R193, R195 to R197); they change nothing else. -/
def Obligations.CarryElementAndBlockResults : Prop :=
  ∀ i e s c, (addcEffect c i = some e ∨ idxEffect c i = some e ∨ blockEffect c (s.slot c.g e.form.slot.toNat) i = some e) →
    Issuing s c e.form.guard → e.ok = true → ∃ t, exec i s = .next t ∧ After s c e.form e.aw e.own e.upd t

/-- The binary32 and packed instructions write the correctly rounded results of R180 to R187, and FCVT, ICVT, CVT.to,
CVT.fr and CVT.ublk their conversions (R188, R189, R192, R194); they change nothing else. That FEX2 and FLG2 are
computed to more than 200 bits and then rounded once is the model's choice (log entry 49). -/
def Obligations.FloatAndConversionResults : Prop :=
  ∀ i o s c, (floatOp i = some o ∨ fcvtOp i = some o ∨ icvtOp i = some o ∨ slotOp (s.slot c.g o.form.slot.toNat) i = some o) →
    Issuing s c o.form.guard → (o.effect c).ok = true →
    ∃ t, exec i s = .next t ∧ After s c o.form o.aw (o.effect c).own (o.effect c).upd t

/-- RFL, MATCH, VOTE, SHFL, BCST and LMASK work over the participating lanes (R157 to R161), and change nothing else. The
operands that RFL.b64 takes are the model's reading (log entry 42). -/
def Obligations.LaneResults : Prop :=
  ∀ i e s c, laneEffect c i = some e → Issuing s c e.form.guard → e.ok = true →
    ∃ t, exec i s = .next t ∧ After s c e.form e.aw e.own e.upd t

/-- CNAR, CPERM, CGET and CCHK never widen a capability and write their results once for the group (R87 to R90); CMINT, in a
system group, mints a tagged one (R91). -/
def Obligations.CapabilityResults : Prop :=
  ∀ i e s c, (capEffectOf c i = some e ∨ mintEffect c i = some e) → Issuing s c e.form.guard → e.ok = true →
    ∃ t, exec i s = .next t ∧ After s c e.form e.aw e.own e.upd t

/-! ### Control -/

/-- BR, BRU, JMP, CALL, CALLS and RET (R142 to R149), in every form: when every target is a header that can be read, the
threads that go stand at it, CALL has written its link and slid the window, RET has slid it back, and the other
threads go on. -/
def Obligations.ControlTransfersLand : Prop :=
  ∀ i j s c s1, s.ctx = some c → jumpOf c i = some j → (∀ l ∈ c.set, c.guard j.guard l ≠ .u) → c.atEnd = true → j.ok = true →
    s.checkTargets c (s.origin c.r c.g) (maskOf (j.tgts.map (·.1))) j.tgts [] = (s1, none) →
    ∃ t, exec i s = .next t ∧ ∃ g, t = s1.setGroup c.r g ∧ Landed c j g

/-- A control transfer, EXIT, TRAP or ERET that is not the last instruction of its clause raises the illegal-instruction trap with no other
effect (R124, R150, R151, R374); a transfer whose target is no header at an aligned GEN address raises the branch-target trap, with the
address in INFO, and no thread moves (R124). -/
def Obligations.TransfersTrap : Prop :=
  (∀ i j s c, s.ctx = some c → jumpOf c i = some j → c.atEnd = false →
     exec i s = .next (s.trapGroup c.r c.g 0x01 0 c.len c.pc c.pc (maskOf c.set) 0 0)) ∧
  (∀ i s c, s.ctx = some c → (∃ g, i = .exit g ∨ i = .exitExtended g) ∨ (∃ f, i = .trap f ∨ i = .eret f) → c.atEnd = false →
     exec i s = .next (s.trapGroup c.r c.g 0x01 0 c.len c.pc c.pc (maskOf c.set) 0 0)) ∧
  (∀ i j s c l a s1, s.ctx = some c → jumpOf c i = some j → (∀ m ∈ c.set, c.guard j.guard m ≠ .u) → c.atEnd = true → j.ok = true →
     j.tgts = [(l, a)] → s.checkTarget (s.origin c.r c.g) a = (s1, .bad) →
     exec i s = .next (s.trapGroup c.r c.g 0x04 0 c.len c.pc c.pc (maskOf [l]) 0 a))

/-- NOP takes the turn and does nothing else, and so does YIELD of an ordinary group when no group of the pending set is ready; when one is,
the earliest of them takes the very turn, which stays empty once, and the group itself is pending and ready since this cycle, past the
instruction (R134, R135, R152). That YIELD of a system group does nothing is the model's reading (log entry 93). WAITF covers the operations of clear flags at once, and else holds the group, past it, until they clear (R153). -/
def Obligations.IdleYieldAndWait : Prop :=
  (∀ s c f, s.ctx = some c →
     (∃ t, exec .nop s = .next t ∧ AfterBare s c t) ∧
     (∃ t, exec .nopExtended s = .next t ∧ AfterBare s c t) ∧
     (c.on f.guard ≠ [] → (c.sys = true ∨ s.readyPending c.r.core c.r.qtr = []) →
       ∃ t, exec (.yield f) s = .next t ∧ After s c f 64 id (fun _ th => th) t)) ∧
  (∀ s c f n, s.ctx = some c → PlacesRise s → c.on f.guard ≠ [] → c.sys = false → s.readyPending c.r.core c.r.qtr ≠ [] →
     let q := s.quarter c.r.core c.r.qtr
     q.active.findIdx? (· == some c.r.slot) = some n →
     ∃ t g k since, exec (.yield f) s = .next t ∧ t.group? c.r = some g ∧
       Left c f.hold f.a f.lit 64 (fun x => { x with st := .ready, readyAt := s.cycle }) (fun _ th => th) g ∧
       (k, since) ∈ s.readyPending c.r.core c.r.qtr ∧
       (∀ x ∈ s.readyPending c.r.core c.r.qtr, since < x.2 ∨ since = x.2 ∧ k ≤ x.1) ∧
       t.quarter c.r.core c.r.qtr = { q with active := lput none q.active n (some k), owned := lput 0 q.owned n 0, gap := lput false q.gap n true } ∧
       t.mem = s.mem ∧ ∀ r, gkey r ≠ gkey c.r → t.group? r = s.group? r) ∧
  (∀ f s c, s.ctx = some c → c.on f.guard ≠ [] →
     let mask := BitVec.ofNat 12 f.imm.toNat
     (c.g.clear mask = true → ∃ t, exec (.waitf f) s = .next t ∧
       After s c f 64 (fun g => { g with covered := s.ticket, pend := g.pend.filter fun p => !(p.done && mask.getLsbD p.flag) }) (fun _ th => th) t) ∧
     (c.g.clear mask = false → c.waitsFull false = false → ∃ t g, exec (.waitf f) s = .next t ∧ t.group? c.r = some g ∧
       Left c f.hold f.a f.lit 64 (fun g => { g with st := .waiting mask true }) (fun _ th => th) g))

/-- EXIT ends the threads whose guard holds (R150): while a live thread is left the group goes on; with the last one it is
Draining, and with every flag clear it retires at once and its place is free (R41). -/
def Obligations.ExitEndsThreads : Prop :=
  ∀ i g s c, (i = .exit g ∨ i = .exitExtended g) → s.ctx = some c → c.g.lpass = false → (∀ l ∈ c.set, c.guard g l ≠ .u) →
    c.atEnd = true → c.on g ≠ [] → (∀ l ∈ c.on g, (c.g.thread l).lv = false) →
    ((∃ l ∈ c.g.liveLanes, l ∉ c.on g) → ∃ t x, exec i s = .next t ∧ t = s.setGroup c.r x ∧
      x = { c.g with threads := x.threads, latches := (c.latched 0 .zero none 64 c.g).latches } ∧
      ∀ l, x.thread l = if l ∈ c.on g then { c.g.thread l with live := false }
        else if l ∈ c.set then past c (c.g.thread l) else c.g.thread l) ∧
    ((∀ l ∈ c.g.liveLanes, l ∈ c.on g) → (∃ n, c.g.flags.getD n 0 ≠ 0) →
      ∃ t x, exec i s = .next t ∧ t.group? c.r = some x ∧ x.st = .draining ∧ x.liveLanes = []) ∧
    ((∀ l ∈ c.g.liveLanes, l ∈ c.on g) → c.g.flags.all (· == 0) = true →
      ∃ t, exec i s = .next t ∧ t.group? c.r = none)

/-- TRAP raises the software trap (R151): its record names the threads whose guard holds, carries k in INFO and resumes at the
next word, and the threads that it does not name go on. -/
def Obligations.SoftwareTrap : Prop :=
  ∀ f s c, Issuing s c f.guard → c.atEnd = true →
    ∃ t, exec (.trap f) s = .next t ∧
      ∃ g, g = { c.g with threads := g.threads } ∧
        (∀ l, g.thread l = if l ∈ c.set ∧ l ∉ c.on f.guard then past c (c.g.thread l) else c.g.thread l) ∧
        t = ((s.setGroup c.r g).trapGroup c.r g 0x0e 0 c.len c.pc c.after (maskOf (c.on f.guard)) 0
          (BitVec.ofNat 64 (f.imm.toNat % 65536))).modGroup c.r (c.latched f.hold f.a f.lit 64)

/-- Taking a trap (R136, R359 to R361, R415): the group of a tenant is trapped with every register as it was, its record waits in the core
or stands in the ring, and the system group gets the barrel turn that it had; a trap of a system group halts its core as unrecoverable
and posts one notice. -/
def Obligations.TrapEntry : Prop :=
  (∀ (s : State) (r : GRef) (g : Group) cause sub len pc rpc mask addr info, r.slot < 63 → r.qtr < 4 → s.group? r = some g →
     let t := s.trapGroup r g cause sub len pc rpc mask addr info
     t.group? r = some { g with st := .trapped } ∧
     (∃ x, (x ∈ (t.quarter r.core r.qtr).ring ∨ x ∈ (t.quarter r.core r.qtr).waitRec) ∧
       { x with seq := 0 } =
         ({ cause := cause, sub := sub, len := len, seq := 0, pc := pc, rpc := rpc, mask := mask, addr := addr, info := info, who := whoOf g.ten r } :
           Record)) ∧
     (∀ n, (s.quarter r.core r.qtr).active.findIdx? (· == some r.slot) = some n → (s.quarter r.core r.qtr).sysTurn = none →
       (t.quarter r.core r.qtr).sysTurn = some n) ∧
     (∀ q, gkey q ≠ gkey r → t.group? q = s.group? q)) ∧
  (∀ (s : State) (r : GRef) (g : Group) cause sub len pc rpc mask addr info, r.slot = 63 → (s.core r.core).halted = false →
     let t := s.trapGroup r g cause sub len pc rpc mask addr info
     (t.core r.core).halted = true ∧ (t.core r.core).inService = false ∧
     (∃ n, t.notices = s.notices ++ [n] ∧ n.core = r.core ∧ n.npc = pc ∧ n.naddr = addr) ∧ t.groups = s.groups ∧ t.mem = s.mem)

/-- ACQ gives the full allotment when it fits and waits in ACQ-wait, its PC unmoved, when it does not; REL goes back to
the prologue allotment where every live thread's window fits it (R154). That ACQ is passed at its service is the
model's reading (log entry 45). -/
def Obligations.AcquireAndRelease : Prop :=
  ∀ f s c, s.ctx = some c → c.on f.guard ≠ [] →
    (c.g.acqf = true → ∃ t, exec (.acq f) s = .next t ∧ After s c f 64 id (fun _ th => th) t) ∧
    (c.g.acqf = false → s.acqFits c = true → ∃ t, exec (.acq f) s = .next t ∧
      After s c f 64 (fun g => { g with allot := g.full, acqf := true }) (fun _ th => th) t) ∧
    (c.g.acqf = false → s.acqFits c = false → ∃ t g, exec (.acq f) s = .next t ∧ t.group? c.r = some g ∧ g.st = .acqWait ∧
      ∀ l, (g.thread l).pc = (c.g.thread l).pc) ∧
    (c.g.acqf = true → c.sys = false → (∀ l ∈ c.g.liveLanes, c.g.relShort l = 0) →
      ∃ t g, exec (.rel f) s = .next t ∧ t.group? c.r = some g ∧
        Left c f.hold f.a f.lit 64 (fun g => { g with allot := g.pro, acqf := false }) (fun _ th => th) g) ∧
    (c.g.acqf = false → ∃ t, exec (.rel f) s = .next t ∧ After s c f 64 id (fun _ th => th) t)

/-! ### Memory -/

/-- LD, LDC and LDK issue (R123, R222 to R227): when every request is aligned, has a path and finds its data, the flag
counts one operation with those data for D, extended as MOD says, and the threads go on; no register has changed yet.
That the data are those at the issue is the model's reading of when a load is served (log entry 47). -/
def Obligations.LoadsStart : Prop :=
  ∀ (i : Instr) (o : LoadOp) (s : State) (c : Ctx) (s1 : State) (bss : List (List Byte × Bool)), loadOf c i = some o →
    Issuing s c o.form.guard → o.ok = true → flagFree c o.form = true →
    (∀ q ∈ o.reqs, q.addr.toNat % q.size = 0 ∧ (s.path (s.origin c.r c.g) o.acc q.addr.toNat q.size).isSome = true) →
    bss.length = o.reqs.length → (∀ x ∈ bss, x.1.length = accessBytes o.form) →
    (o.asks s c).loadAll ((o.asks s c).origin c.r c.g) (counted (o.op c [] none) c.g) o.acc o.form o.reqs =
      (s1, (o.reqs.zip bss).map fun x => (x.1, .ok (.bytes x.2.1 x.2.2))) →
    ∃ t, exec i s = .next t ∧ Started s1 c o.form
      (o.op c (loadData c o (bss.map (·.1))) (if o.ldk then some (o.form.d.num / 2, bss.any (·.2)) else none)) t

/-- What a read finds (R198 to R201, R211 to R214, R362): an SPD or DSP address names scratchpad bytes; a GEN address
names the bytes of its translated place, each from the youngest buffered store of the core that covers it, or else
from memory. An address whose leaf permits the access, on a page that no move holds, goes to the leaf's place; a read
changes no byte of memory, and neither does a write whose leaf has DRT set. A walk that fails, or a leaf without the
permission, gives the fault. A near 64 KiB leaf without swizzle gives FRAME × 64 KiB plus the offset. What an
unwritten capacity byte reads as is the model's choice (log entry 1). -/
def Obligations.ReadsAndTranslation : Prop :=
  (∀ (s : State) (o : Origin) (acc : Access) (a n : Nat),
     (∀ k off d, s.path o acc a n = some (.spad k off d) → s.owning = [] →
       ∃ tag, s.groupRead o acc a n = (s, .bytes ((List.range n).map fun i => cget (s.core k).spad (off + i)) tag)) ∧
     (∀ va l s1, acc = .load → s.path o acc a n = some (.gen va) → s.overlapsLog o.r.core o.ten a n = false →
       s.translate o.who .load va = (s1, .ok l) →
       ∃ tag, s.groupRead o acc a n = (s1, .bytes ((List.range n).map fun i =>
         (bufferByte (s1.core o.r.core).pub (l.add i)).getD ((s1.readLoc (l.add i) 1).headD 0)) tag))) ∧
  (∀ (s : State) (w : Who) (acc : Access) (va : Nat), (w.sup = true ∨ inHostRegion va = false) →
     (∀ e, s.lookup w va = .error e → s.translate w acc va = (s, .fault e)) ∧
     (∀ l e, s.lookup w va = .ok l → leafFault l.e acc false = some e → e ≠ 3 → s.translate w acc va = (s, .fault e)) ∧
     (∀ l, s.lookup w va = .ok l → leafFault l.e acc false = none →
       (s.locked (s.moverOf w) (slice va 56 16) = false ∨ bit l.e 55 = true) → bit l.e 57 = false →
       ∃ s1, s.translate w acc va = (s1, .ok (l.loc va)) ∧ s1.groups = s.groups ∧
         (∀ k, (s1.core k).spad = (s.core k).spad) ∧
         (acc ≠ .store ∨ bit l.e 54 = true → s1.mem = s.mem ∧ s1.mtags = s.mtags) ∧
         (l.big = false → slice l.e 59 58 = 0 → slice l.e 63 60 = 0 → l.loc va = .phys (slice l.e 51 16 * 65536 + va % 65536))))

/-- ST and STK (R81, R200, R205, R225, R227): through SPD and DSP each byte is that of the highest thread that stores to
it, every other byte of every scratchpad and all of memory stay, a granule written by ST loses its tag, and STK gives
its granule the pair's tag; through GEN and PEER, when every lane finds its place and the buffer has room, the stores
enter the publication buffer in ascending lane order, and memory changes only when they drain. No scratchpad operation
or POOL request is uncovered (R140, R237). -/
def Obligations.StoresReachTheirPlaces : Prop :=
  (∀ (i : Instr) (f : Form) (ok : Bool) (xs : List Put) (s : State) (c : Ctx), storeOf c i = some (f, ok, xs) →
     MemoriesWf s → Issuing s c f.guard → ok = true → storesFit s c xs = true → s.owning = [] → (∀ x ∈ xs, (spadAt s c x).isSome = true) →
     (∀ k, (s.core k).armed = []) →
     ∃ t g, exec i s = .next t ∧ t.group? c.r = some g ∧ Left c f.hold f.a f.lit 64 id (fun _ th => th) g ∧
       (∀ k o, cget (t.core k).spad o = (lastByte (spadAt s c) k o xs).getD (cget (s.core k).spad o)) ∧
       (∀ k n, (t.core k).stags.contains n = ((xs.any fun x => x.tag && spadAt s c x == some (k, 16 * n)) ||
         ((s.core k).stags.contains n && !xs.any fun x => match spadAt s c x with
           | some (j, o) => j == k && (granules o x.bs.length).contains n
           | none => false))) ∧
       t.mem = s.mem ∧ t.mtags = s.mtags ∧ ∀ r, gkey r ≠ gkey c.r → t.group? r = s.group? r) ∧
  (∀ (i : Instr) (f : Form) (ok : Bool) (xs : List Put) (s s1 : State) (c : Ctx) (ls : List Loc), storeOf c i = some (f, ok, xs) →
     Issuing s c f.guard → ok = true → storesFit s c xs = true → (∀ x ∈ xs, x.addr / 2 ^ 60 = 0 ∨ x.addr / 2 ^ 60 = 7) →
     ls.length = xs.length → s.places (s.origin c.r c.g) .store xs = (s1, (xs.zip ls).map fun x => (x.1, .ok x.2)) →
     ((s.core c.r.core).pub.map (·.bytes.length)).sum + (xs.map (·.bs.length)).sum ≤ 65536 →
     ∃ t, exec i s = .next t ∧ t.mem = s1.mem ∧
       After (s1.modCore c.r.core fun k => { k with pub := k.pub ++ pubOf c xs ls }) c f 64 id (fun _ th => th) t)

/-- ATOM and RED issue (R229 to R234): each thread's request, or the group's one, goes to the end of the list of the
engine that its place names; ATOM's flag counts the operation, and no word has changed yet. Which engine a near line
has is the model's choice (log entry 15). -/
def Obligations.AtomicsReachTheirEngines : Prop :=
  ∀ (i : Instr) (op : AtomOp) (f : Form) (s s1 : State) (c : Ctx) (ws : List WordAt), Issuing s c f.guard →
    (s.core c.r.core).pub = [] → (∀ w ∈ ws, ∀ d va, w ≠ .peer d va) →
    isS f.a = true → threadSource c.g f.lit 32 f.b = true →
    (atomOf i = some (op, f) → isDst (8 * wordBytes f) f.d = true → threadSource c.g f.lit (8 * wordBytes f) f.c = true →
      flagFree c f = true →
      let reqs := atomReqs c f (isS f.d && isUni f.b && isUni f.c) (fun l => c.g.read c.tk f.lit (8 * wordBytes f) l f.c)
        (fun l => c.g.read c.tk none (8 * wordBytes f) l f.d)
      let p := opOf c f (.atom none op (f.imm.getLsbD 0) f.scope (wordBytes f == 8) reqs f) (loadRegs c f) ((loadRegs c f).map fun _ => 0)
      let s0 := (s.releases c.r.core).setGroup c.r (counted p c.g)
      atomsFit s c f reqs = true → (∀ q ∈ reqs, s.atEngine c.r c.g.nextId q.lane = false) → ws.length = reqs.length →
      s0.atomPlaces (s0.origin c.r c.g) (wordBytes f) reqs = (s1, (reqs.zip ws).map fun x => (x.1, .ok x.2)) →
      ∃ t, exec i s = .next t ∧
        Started { s1 with clasp := asked s1.clasp (claspReqs s c f op (some c.g.nextId) (reqs.zip ws)) } c f p t) ∧
    (redOf i = some (op, f) → threadSource c.g f.lit (8 * wordBytes f) f.d = true →
      let reqs := atomReqs c f (isS f.d && isUni f.b) (fun l => c.g.read c.tk f.lit (8 * wordBytes f) l f.d) (fun _ => 0)
      atomsFit s c f reqs = true → ws.length = reqs.length →
      (s.releases c.r.core).atomPlaces (s.origin c.r c.g) (wordBytes f) reqs = (s1, (reqs.zip ws).map fun x => (x.1, .ok x.2)) →
      ∃ t, exec i s = .next t ∧
        After { s1 with clasp := asked s1.clasp (claspReqs s c f op none (reqs.zip ws)) } c f 64 id (fun _ th => th) t)

/-- A Clasp engine serves its next request in one piece (R230, R233, R235 to R237): the word, in memory or in a scratchpad, takes its new
value and no other byte changes, the request leaves the list, and an ATOM's operation holds the old word for its lane; POOL.A marks the
lowest free block and POOL.F clears its block's bit, INUSE following, and the operation has its answer; of a pool that is not well-formed,
full or not fitting, nothing changes. A word's page counts as written just before (R213, R397). With no request nothing happens. That hot
lines hold no data of their own, and what becomes of a pool whose INUSE its MAP belies, are the model's reading (log entries 64, 103). -/
def Obligations.EnginesServeRequests : Prop :=
  (∀ (s : State) (e : Nat), MemoriesWf s →
    (mgetD s.clasp.reqs e [] = [] → exec (.claspRequest e) s = .next s) ∧
    (∀ q, nextRequest (mgetD s.clasp.reqs e []) (mgetD s.clasp.rr e 0) = some q → q.pool = false → q.ref.slot < 64 →
      let n := if q.wide then 8 else 4
      let s0 := if q.core.isSome then taken s e q else (taken s e q).markAtomic (s.reqWho q) (q.req.addr.toNat % 2 ^ 57)
      let m := ofLe ((List.range n).map fun i => wordByte q.core s0 (q.loc + i))
      (q.core = none → ∀ k, ∀ x ∈ (s.core k).pub, x.serial < (s.core k).released → x.meetsAt (.phys q.loc) n = false) →
      (∀ k, q.core = some k → s.owning = [] ∧ (s.core k).armed = []) →
      ∃ t, exec (.claspRequest e) s = .next t ∧
        mgetD t.clasp.reqs e [] = (mgetD s.clasp.reqs e []).erase q ∧
        (∀ a, wordByte q.core t a = if q.loc ≤ a ∧ a < q.loc + n then
            (leBytes n (atomNew q.op q.uns (8 * n) m (q.req.data.toNat % 2 ^ (8 * n)) (q.req.cmp.toNat % 2 ^ (8 * n)))).getD (a - q.loc) 0
          else wordByte q.core s0 a) ∧
        (∀ k, q.core ≠ some k → (t.core k).spad = (s.core k).spad) ∧ (q.core ≠ none → t.mem = s.mem) ∧
        (q.pend = none → t.groups = s.groups) ∧
        (∀ g p, s.group? q.ref = some g → q.pend = some p →
          ∃ h, t.group? q.ref = some h ∧ h = { g with pend := h.pend } ∧ h.pend.map (·.id) = g.pend.map (·.id) ∧
            (∀ x ∈ g.pend, x.id = p → x.ivs = [] → (∃ w op u sc wd left f, x.kind = .atom w op u sc wd left f ∧ wd = q.wide) →
              ∃ y ∈ h.pend, y.id = p ∧ y.vals = answered x q.wide q.req.lane m))) ∧
    (∀ q id g p w free cp blk hd mp, nextRequest (mgetD s.clasp.reqs e []) (mgetD s.clasp.rr e 0) = some q → q.pool = true → q.pend = some id →
      s.group? q.ref = some g → g.pend.find? (fun x => x.id == id) = some p → p.kind = .pool w free cp blk →
      let o := s.origin q.ref g
      let s0 := taken s e q
      let rd (i : Nat) : Byte := (hd ++ mp).getD i 0
      let tag := s0.poolTag o cp.base
      s0.poolRead o cp.base 64 = some hd →
      (poolWhole rd tag cp.len = true → s0.poolRead o ((cp.base + 64) % 2 ^ 64) (poolMap rd) = some mp) →
      let pick := if free then poolTakes rd tag cp.len blk else poolGives rd tag cp.len
      let s1 := match pick with
        | some i => (s0.poolWrite o ((cp.base + 0x40 + i / 8) % 2 ^ 64) [poolMark rd i (!free)]).poolWrite o ((cp.base + 0x18) % 2 ^ 64)
            (leBytes 4 (if free then poolUsed rd - 1 else poolUsed rd + 1))
        | none => s0
      ∃ g1, s1.group? q.ref = some g1 ∧ exec (.claspRequest e) s =
        .next (s1.setGroup q.ref (withPend g1 id (poolAnswer free (pick.map (poolCapOf rd))))))) ∧
  (∀ (s : State) (o : Origin) (a : Nat) (b : Byte) (bs : List Byte), MemoriesWf s →
    (∀ k off d, s.path o .atomic a 1 = some (.spad k off d) → (∀ p ∈ s.owning, p.owns = []) → (s.core k).armed = [] →
      (∀ n, s.poolRead o a (n + 1) = (s.poolRead o ((a + 1) % 2 ^ 64) n).map (cget (s.core k).spad off :: ·)) ∧
      ∃ s1 : State, s.poolWrite o a (b :: bs) = s1.poolWrite o ((a + 1) % 2 ^ 64) bs ∧ s1.mem = s.mem ∧
        (∀ j x, cget (s1.core j).spad x = if j = k ∧ x = off then b else cget (s.core j).spad x)) ∧
    (∀ va k s1, s.path o .atomic a 1 = some (.gen va) → s.translate o.who .store va = (s1, .ok (.phys k)) →
      (∀ j, ∀ x ∈ (s1.core j).pub, x.serial < (s1.core j).released → x.meetsAt (.phys k) 1 = false) →
      ((s.translate o.who .atomic va).2 = .ok (.phys k) →
        ∀ n, s.poolRead o a (n + 1) = (s.poolRead o ((a + 1) % 2 ^ 64) n).map (cget s.mem k :: ·)) ∧
      ∃ s2 : State, s.poolWrite o a (b :: bs) = s2.poolWrite o ((a + 1) % 2 ^ 64) bs ∧ (∀ j, (s2.core j).spad = (s1.core j).spad) ∧
        ∀ x, cget s2.mem x = if x = k then b else cget s1.mem x))

/-- POOL.A and POOL.F issue (R236, R237): with a capability of R, W and A over 64 aligned bytes that a scratchpad path reaches, or the GEN
path with all of the pool's lines translated, the flag counts the operation and the group's one request goes to its quad's engine, or to
the home engine of the header line in memory. Which engine a near line has is the model's choice (log entry 15). -/
def Obligations.PoolsReachTheirEngine : Prop :=
  ∀ (i : Instr) (f : Form) (free : Bool) (s : State) (c : Ctx) (n : Nat),
    (i = .poolA f ∧ free = false ∨ i = .poolF f ∧ free = true) → Issuing s c f.guard → flagFree c f = true →
    isS2 f.a = true → (free = false → isS2 f.d = true) → (free = true → isS2 f.b = true) → predName f.c = some n →
    let cp := c.g.cap c.tk (f.a.num / 2)
    let p := poolOp c f free n
    let o := s.origin c.r c.g
    cp.check 7 1 64 0 = 0 → cp.base % 64 = 0 → s.atEngine c.r c.g.nextId 64 = false →
    (∀ k off d, cp.base / 2 ^ 60 = 2 ∨ cp.base / 2 ^ 60 = 4 → s.path o .atomic cp.base 1 = some (.spad k off d) →
      ∃ t, exec i s = .next t ∧
        Started { s with clasp := asked s.clasp [(quadEngine o, poolReq s c cp.base c.r.core (some k) off)] } c f p t) ∧
    (∀ s1 s2 k va, cp.base / 2 ^ 60 = 0 → s.path o .atomic cp.base 1 = some (.gen va) →
      (withOp s c p).poolProbe o c.g.nextId (poolLines cp) = (s1, .ok ()) → s1.atomPlace o cp.base 1 = (s2, .ok (.mem k)) →
      (∀ j, (s2.core j).pub = []) →
      ∃ t, exec i s = .next t ∧
        Started { s2 with clasp := asked s2.clasp [(homeEngine k, poolReq s c cp.base (dieOf c.r.core) none k)] } c f p t)

/-- LONG_LATENCY_COMPLETION (R123, R139): an operation whose results are at hand writes its registers, and its flag counts
one less; the group is otherwise as it was, unless it waited for the flag or was Draining. PUBLICATION_BUFFER_DRAIN
(R200): the store that goes writes its bytes at its place and no other byte of memory changes; HOT_LINE_WRITEBACK
changes no byte (R232). The last is the model's reading of hot lines (log entry 64). The drained store meets no pool
object of an uncovered POOL request, whose contents it would leave undefined (R237). -/
def Obligations.OperationsAndStoresComplete : Prop :=
  (∀ (s : State) (r : GRef) (id : Nat) (g : Group) (p : Pend), id < 2 ^ 32 → s.group? r = some g →
     g.pend.find? (fun x => x.id == id) = some p → p.done = false → (s.core r.core).halted = false →
     (p.kind = .ready ∨ (∃ acc reqs f k, p.kind = .load none acc reqs f k) ∨ p.kind = .fence ∧ s.fenceMet r g p = true) → p.ivs = [] → p.clash = [] → p.dirty = [] →
     g.st ≠ .draining → (∀ m w, g.st ≠ .waiting m w) →
     exec (.longLatencyCompletion r id) s = .next (s.setGroup r (landed p g))) ∧
  (∀ (s : State), MemoriesWf s →
     (∀ (core : Nat) (x : PubEntry) (k : Nat), (s.core core).halted = false → (s.core core).pub = [x] → x.loc = .phys k → s.owning = [] →
       (∀ j, j ≠ core → (s.core j).pub = []) →
       ∃ t, exec (.publicationBufferDrain core) s = .next t ∧ (t.core core).pub = [] ∧ t.groups = s.groups ∧
         cread t.mem k x.bytes.length = x.bytes ∧ (∀ a, a < k ∨ k + x.bytes.length ≤ a → cget t.mem a = cget s.mem a)) ∧
     (∀ e line, ∃ t, exec (.hotLineWriteback e line) s = .next t ∧ t = { s with clasp := t.clasp } ∧
       t.clasp = { s.clasp with hot := t.clasp.hot } ∧ mgetD t.clasp.hot e [] = (mgetD s.clasp.hot e []).filter (· != line) ∧
       ∀ d, d ≠ e → mgetD t.clasp.hot d [] = mgetD s.clasp.hot d []))

/-- LD, LDC and LDK at a bad address trap before they do anything (R129, R199, R223, R226, R227): each thread's failure is cause 0x09 with a
misaligned address, or else 0x0A where no path admits it, and the record has the cause of the lowest failing thread, its address, and in
MASK the threads of that same cause; a request made once names every participating thread (R361, R362, R430). One whose page faults is
counted by its flag, reported with cause 0x10 and the sub-cause, and holds the group, its threads past the instruction (R228, R363). -/
def Obligations.LoadsFault : Prop :=
  (∀ (i : Instr) (o : LoadOp) (s : State) (c : Ctx) (q : Req) (cause : Nat), loadOf c i = some o → Issuing s c o.form.guard → o.ok = true →
     flagFree c o.form = true →
     let bad (x : Req) : Option Nat := if x.addr.toNat % x.size ≠ 0 then some 0x09
       else if (s.path (s.origin c.r c.g) o.acc x.addr.toNat x.size).isNone then some 0x0a else none
     o.reqs.find? (fun x => (bad x).isSome) = some q → bad q = some cause →
       exec i s = .next (s.trapGroup c.r c.g cause 0 c.len c.pc c.pc
         (if q.lane = 64 then maskOf (c.on o.form.guard) else maskOf ((o.reqs.filter fun x => bad x == some cause).map (·.lane))) q.addr 0)) ∧
  (∀ (i : Instr) (f : Form) (s : State) (c : Ctx), (i = .ldc f ∨ i = .ldcExtended f) → Issuing s c f.guard → isS f.a = true →
     uniformSource f.lit f.b = true → isData (accessBytes f) f.d = true → flagFree c f = true → 2 ^ 61 ≤ addrOf c f 0 →
     exec i s = .next (s.trapGroup c.r c.g (if addrOf c f 0 % accessBytes f ≠ 0 then 0x09 else 0x0a) 0 c.len c.pc c.pc
       (maskOf (c.on f.guard)) (BitVec.ofNat 64 (addrOf c f 0)) 0)) ∧
  (∀ (i : Instr) (o : LoadOp) (s : State) (c : Ctx) (q : Req) (sub va : Nat), loadOf c i = some o → Issuing s c o.form.guard → c.sys = false →
     c.r.qtr < 4 → o.ok = true → flagFree c o.form = true → o.reqs = [q] → q.addr.toNat % q.size = 0 →
     let faults (acc : Access) : Prop :=
       ∀ g, (s.setGroup c.r g).translate (s.origin c.r c.g).who acc va = (s.setGroup c.r g, .fault sub)
     let path := s.path (s.origin c.r c.g) o.acc q.addr.toNat q.size
     (path = some (.gen va) ∧ faults o.acc ∨ path = some (.con va) ∧ faults .con ∨ path = some (.dap va) ∧ faults .dap) →
     s.overlapsLog c.r.core (s.origin c.r c.g).ten q.addr.toNat q.size = false →
     s.overlapsLog c.r.core (s.origin c.r c.g).ten va q.size = false →
     ∃ t g, exec i s = .next t ∧ t.group? c.r = some g ∧ g.st = .held c.g.nextId ∧
       (∀ m, (g.thread m).pc = if m ∈ c.set then (c.g.thread m).pc + BitVec.ofNat 64 (lenSize c.len) else (c.g.thread m).pc) ∧
       g.flag (selectFlag c.lead o.form.fs) = c.g.flag (selectFlag c.lead o.form.fs) + 1 ∧
       ∃ x, (x ∈ (t.quarter c.r.core c.r.qtr).ring ∨ x ∈ (t.quarter c.r.core c.r.qtr).waitRec) ∧ x.cause = 0x10 ∧ x.sub = sub ∧
         x.pc = c.pc ∧ x.addr = q.addr ∧ x.mask = if q.lane = 64 then maskOf (c.on o.form.guard) else maskOf [q.lane])

/-! ### Copies and synchronisation -/

/-- CPY starts its channel (R242, R243, R246): when the channel is not busy and no check of R242 fails, the channel is RUN
at the start of its stream with every WP 0, the flag counts the copy, and no byte has moved. The bytes by which a path
is tested, and the checks' order, are the model's reading (log entries 50, 53). -/
def Obligations.CopyStarts : Prop :=
  ∀ (s : State) (c : Ctx) (f : Form), Issuing s c f.guard → flagFree c f = true → isS f.a = true → uniform f f.b = true →
    wholeAddr c f / 2 ^ 22 = 2 ^ 39 → wholeAddr c f % 64 = 0 → c.r.core < 256 →
    let n := f.imm.toNat % 8
    let k := (s.core c.r.core).chan n
    (k.st ≠ .run ∧ k.st ≠ .held) →
    s.copyCheck (s.origin c.r c.g) (describedBy s c f) (describedBy.copySlot s c (describedBy s c f)) (argsOf s c.g) = none →
    ∃ t g, exec (.cpy f) s = .next t ∧ (t.core c.r.core).chan n = startedChannel s c f ∧
      (∀ m, m ≠ n → (t.core c.r.core).chan m = (s.core c.r.core).chan m) ∧ t.mem = s.mem ∧
      (∀ j, (t.core j).spad = (s.core j).spad) ∧ t.group? c.r = some g ∧ Left c f.hold f.a f.lit 64
        (fun x => { counted (opOf c f (.copy n) [] []) x with pend := g.pend }) (fun _ th => th) g ∧
      ∃ q ∈ g.pend, q = opOf c f (.copy n) [] []

/-- CPWP, CPWT and CPCAN (R247 to R249): CPWP reads a channel of the rectangle; CPWT is met at once when WP has reached A, and
CPCAN of a channel that has stopped returns its state, while one that runs is marked to stop at its next sector. -/
def Obligations.CopyControls : Prop :=
  ∀ (s : State) (c : Ctx) (f : Form) (k n : Nat), Issuing s c f.guard → c.owner f s = some k → n = f.imm.toNat % 8 →
    (∀ d : Fin 48, f.d = .s d → freeScal c d.val = true → ∃ t, exec (.cpwp f) s = .next t ∧
      After s c f 64 (fun g => { putScal d.val (channelWord ((s.core k).chan n) c.r.core) g with covered := s.ticket }) (fun _ th => th) t) ∧
    (∀ d, predName f.d = some d → uniform f f.a = true → flagFree c f = true → c.waitsFull false = false → c.g.frozen = false →
      ∃ t g q, exec (.cpwt f) s = .next t ∧ t.group? c.r = some g ∧ Left c f.hold f.a f.lit 64
          (fun x => { counted (opOf c f .ready [] []) x with pend := g.pend }) (fun _ th => th) g ∧
        q ∈ g.pend ∧ q.id = c.g.nextId ∧ q.dests = predRegs c f d ∧
        (let v := c.g.read c.tk f.lit 64 0 f.a
         let ch := (s.core k).chan n
         (v ≤ ch.wpFor c.r.core → q.kind = .ready ∧ q.vals = sameVals q.dests 1) ∧
         (ch.wpFor c.r.core < v → ch.st ≠ .run ∧ ch.st ≠ .held → q.kind = .ready ∧ q.vals = sameVals q.dests 0) ∧
         (ch.wpFor c.r.core < v → ch.st = .run ∨ ch.st = .held → q.kind = .cpwt k n (BitVec.ofNat 64 v)))) ∧
    (∀ d : Fin 48, f.d = .s d → flagFree c f = true →
      let ch := (s.core c.r.core).chan n
      (ch.st ≠ .run → ch.st ≠ .held → ∃ t, exec (.cpcan f) s = .next t ∧
        Started s c f (opOf c f .ready [.scalar d.val]
          [BitVec.ofNat 64 (channelWord { ch with team := 0 } c.r.core)]) t) ∧
      (ch.st = .run → ∃ t, exec (.cpcan f) s = .next t ∧
        Started (s.modChan c.r.core n fun x => { x with cancel := true }) c f (opOf c f (.cpcan n 1) [.scalar d.val] []) t))

/-- COPY_SECTOR moves a sector (R243 to R245): of a plain copy within one scratchpad, without overlap and with one
receiver, the sector's bytes become those of the source, every other byte of memory and of the scratchpads stays, WP
rises by the length, and with the last byte the channel is DONE. What counts as overlap is the model's reading (log
entry 51). -/
def Obligations.SectorsMove : Prop :=
  ∀ (s : State) (core n rt p a len : Nat), let c := (s.core core).chan n
    let o := s.engineOrigin c.ref c.ten c.team
    MemoriesWf s → core < 256 → n < 8 → (s.core core).chans.length = 8 → c.st = .run → (s.core core).halted = false → c.conv = 0 → c.ben = false → c.recv = [(rt, core)] →
    mgetD c.wp rt 0 = c.pos → c.buf = [] → c.drop = [] → c.cancel = false → s.stopped c.ten = false → (s.core core).saving.getLsbD 0 = false →
    o.r.core = core → c.sector 8 c.pos none = [(p, a, len)] → pathOf c.dst.base = 2 → pathOf a = 2 →
    s.path o .load (c.srcAt (c.pos / c.rowLen) (c.pos % c.rowLen)) 1 = some (.spad core (c.srcAt (c.pos / c.rowLen) (c.pos % c.rowLen) % 2 ^ 22) false) →
    pathOf (c.srcAt (c.pos / c.rowLen) (c.pos % c.rowLen)) = 2 → 0 < len →
    c.srcAt (c.pos / c.rowLen) (c.pos % c.rowLen) % 2 ^ 22 + len ≤ 2 ^ 22 → a % 2 ^ 22 + len ≤ 2 ^ 22 →
    (∀ i, i < len → c.inSource o (2, spadKey core (a % 2 ^ 22 + i)) = false) → s.owning = [] → (s.core core).armed = [] →
    ∃ t, exec (.copySector core n rt) s = .next t ∧
      (∀ i, cget (t.core core).spad i = if a % 2 ^ 22 ≤ i ∧ i < a % 2 ^ 22 + len then
          cget (s.core core).spad (c.srcAt (c.pos / c.rowLen) (c.pos % c.rowLen) % 2 ^ 22 + (i - a % 2 ^ 22))
        else cget (s.core core).spad i) ∧
      t.mem = s.mem ∧ mgetD ((t.core core).chan n).wp rt 0 = c.pos + len ∧
      ((t.core core).chan n).st = (if c.pos + len = c.total then .done else .run)

/-- BINIT, BARV, BEXP, BWAIT and BTRY on an object (R275, R279 to R284): on the issuing core's scratchpad the barrier unit acts at
once; on another core's the operation goes to the end of that unit's list. BWAIT and BTRY count an operation on their flag. -/
def Obligations.BarrierInstructionsReachTheUnit : Prop :=
  ∀ (i : Instr) (f : Form) (ok : Bool) (op : BarOp) (pend : Option Pend) (s : State) (c : Ctx) (core off : Nat),
    barrierOf c off core i = some (f, ok, op, pend) → Issuing s c f.guard → ok = true → objectAt s c f = some (core, off) →
    let s0 := match pend with | some p => withOp s c p | none => s
    ∃ t, exec i s = .next t ∧
      PastIn (if core = c.r.core then s0.barDo core op else (s0.releases c.r.core).modCore core fun k => { k with barq := k.barq ++ [op] }) c f t

/-- The barrier unit performs the oldest operation of its list (R274 to R277, R280 to R284): BINIT arms the object with its count;
BARV and BEXP change an armed, unbroken object and nothing else, and its phase flip completes the BWAITs of that parity; BTRY and
BWAIT read it: complete when the phase differs, broken or unarmed when it is so, else a BWAIT waits. -/
def Obligations.BarrierUnitActs : Prop :=
  ∀ (s : State) (core : Nat) (op : BarOp) (r : List BarOp), MemoriesWf s → (s.core core).barq = op :: r → (s.core core).halted = false →
    ∃ t, exec (.barrierUnitOperation core) s = .next t ∧ (t.core core).barq = r ∧ t.mem = s.mem ∧
      (let off := opOffset op
       let o := objOf s core off
       let armed := (s.core core).armed.contains (off / 16)
       (∀ n, op = .init off n → n < 4096 → s.hasWaiter core off = false →
         objOf t core off = ⟨n, n, false, false, 0, 0⟩ ∧ (t.core core).armed.contains (off / 16) = true ∧ t.groups = s.groups) ∧
       (op = .arrive off ∨ (∃ n, op = .expect off n) → armed = true → o.brk = false →
         objOf t core off = objAfter o op ∧ (t.core core).armed = (s.core core).armed ∧
         ((objAfter o op).brk = false → 
           t.groups = s.groups.map fun x => (x.1, { x.2 with pend := x.2.pend.map (releasedBy core off o op) }))) ∧
       (op = .arrive off ∨ (∃ n, op = .expect off n) → armed = false ∨ o.brk = true → (t.core core).spad = (s.core core).spad ∧ t.groups = s.groups) ∧
       (∀ q st g id x, op = .test off q st g id → s.group? g = some x →
         let code := if o.brk then 2 else if !armed then 3 else if o.ph != q then 0 else 1
         t.group? g = some (withPend x id (tried st code))) ∧
       (∀ q g id x, op = .wait off q g id → s.group? g = some x →
         t.group? g = some (withPend x id (waited core off q armed o))) ∧
       ∀ a, a < off ∨ off + 16 ≤ a → cget (t.core core).spad a = cget (s.core core).spad a)

/-- The team barrier (R21, R281, R283): BARV zero arrives for the group, and with the last live group the generation completes; BWAIT
zero is met at once unless the group's last arrival is still of the present generation. -/
def Obligations.TeamBarrier : Prop :=
  ∀ (s : State) (c : Ctx) (f : Form) (tm : Team), Issuing s c f.guard → f.a = .zero → s.team c.r c.g = some tm → c.sys = false →
    (∃ t tm2, exec (.barv f) s = .next t ∧ mget (t.core c.r.core).teams c.g.team = some tm2 ∧ t.mem = s.mem ∧
      (let all := (List.range tm.ngrp).all fun n => tm.arrived.contains n || n == c.g.gidx || tm.gone.contains n
       (all = true ∧ tm.gone.length < tm.ngrp → tm2 = { tm with gen := tm.gen + 1, arrived := [] }) ∧
       (all = false ∨ tm.ngrp ≤ tm.gone.length → tm2 = { tm with arrived := sins tm.arrived c.g.gidx }))) ∧
    (∀ n, predName f.d = some n → flagFree c f = true → c.waitsFull true = false → ∃ t, exec (.bwait f) s = .next t ∧
      Started s c f (match c.g.bgen with
        | some k => if k < tm.gen then metOp c f (.bwait none false 0) (predRegs c f n) (sameVals (predRegs c f n) 1)
          else opOf c f (.bwait none false k) (predRegs c f n) []
        | none => metOp c f (.bwait none false 0) (predRegs c f n) (sameVals (predRegs c f n) 1)) t)

/-- PHASE, FENCE, FOPD and TOKWT (R286 to R289): PHASE closes the group's phase and FENCE opens none, each counted by its
flag until what came before is performed; FOPD takes effect at once; TOKWT is met when the token has reached B (R98).
That the accesses are counted by tickets is the model's reading (log entry 59). -/
def Obligations.OrderingInstructions : Prop :=
  ∀ (s : State) (c : Ctx) (f : Form), Issuing s c f.guard →
    (flagFree c f = true → c.waitsFull false = false → (f.scope.toNat < 4 ∨ (s.core c.r.core).pub = []) →
      ∃ t, exec (.phase f) s = .next t ∧ After s c f 64
        (fun g => { counted { opOf c f (.phase f.scope) [] [] with since := s.ticket } g with phase := g.phase + 1 }) (fun _ th => th) t) ∧
    (flagFree c f = true → ∃ t, exec (.fence f) s = .next t ∧ Started s c f { opOf c f .fence [] [] with since := s.ticket } t) ∧
    (∃ t, exec (.fopd f) s = .next t ∧ After s c f 64 (fun g => { g with fopd := s.ticket, fopdFar := g.covered }) (fun _ th => th) t) ∧
    (∀ n, predName f.d = some n → flagFree c f = true → c.waitsFull true = false → uniform f f.a = true → f.a ≠ .zero →
      uniform f f.b = true →
      let tok := c.g.read c.tk f.lit 64 0 f.a
      let goal : Word := BitVec.ofNat 32 (c.g.read c.tk f.lit 64 0 f.b)
      let met := decide ((s.token c.g.part tok - goal).toNat < 2 ^ 31)
      tok < 4096 →
      ∃ t, exec (.tokwt f) s = .next t ∧ Started s c f
        (if f.imm.getLsbD 0 || met then metOp c f (.tokwt tok goal) (predRegs c f n) (sameVals (predRegs c f n) (if met then 1 else 0))
         else opOf c f (.tokwt tok goal) (predRegs c f n) []) t)

/-! ### The matrix engine -/

/-- The matrix instructions queue their operation (R252 to R254, R262, R263, R269): when the block is aligned in the core's scratchpad,
every check passes and the queues have room, the operation stands at the end of the core's queue, an MMAC's other quarters that have rows
and columns are on their way to the other cores of the square, and the flag counts it until each of these cores has done its part; it owns
the scratchpad bytes and, for MDRN into registers, the words that it writes. Nothing else changes. The checks' order, and that a full queue
comes before them, are the model's reading (log entries 53, 54, 60). -/
def Obligations.MatrixInstructionsQueue : Prop :=
  ∀ (i : Instr) (fn : Nat) (f : Form) (s : State) (c : Ctx), matrixOf i = some (fn, f) → Issuing s c f.guard → flagFree c f = true →
    uniform f f.a = true → f.a ≠ .zero → (fn ≠ 5 → isS f.a = true ∧ uniform f f.b = true) →
    (fn ≠ 5 → wholeAddr c f / 2 ^ 22 = 2 ^ 39 ∧ wholeAddr c f % 128 = 0) →
    let m := matrixOp s c fn f
    s.matCheck (s.origin c.r c.g) m (matrixHigh s c fn f) (argsOf s c.g) = none →
    (∀ k ∈ (if fn = 2 then [c.r.core, c.r.core + 1, c.r.core + 16, c.r.core + 17] else [c.r.core]),
      (s.core k).mat.length + (s.core k).matIn.length < 8) →
    ∃ t g, exec i s = .next t ∧ (∀ k, t.core k = queuedAt s c.r.core m k) ∧ t.group? c.r = some g ∧
      Left c f.hold f.a f.lit 64 (counted { opOf c f (.matrix (c.r.core :: (quartersOf m c.r.core).map (·.1))) (drainedRegs c m)
        ((drainedRegs c m).map fun _ => 0) with owns := outputOf s c m }) (fun _ th => th) g ∧
      t = { s with cores := t.cores, groups := t.groups } ∧ ∀ r, gkey r ≠ gkey c.r → t.group? r = s.group? r

/-- The matrix engine (R250, R253, R263, R271, R272): the head of the queue starts; a unit of MZERO zeroes one row of its tile and
one of MLDA loads one row from the scratchpad, no other cell changing; a quarter that arrives stands at the end of the queue; and
the head that has run all its units leaves the queue, its flag counting one less with its last core. -/
def Obligations.MatrixEngineActs : Prop :=
  ∀ (s : State) (core : Nat) (m : MatOp) (r : List MatOp), (s.core core).mat = m :: r → s.stopped m.ten = false → (s.core core).halted = false →
    (m.run = false → exec (.matrixOperationStart core) s =
      .next (s.modCore core fun k => { k with mat := { m with run := true } :: r })) ∧
    (m.run = true → m.fn = 5 → m.unit < m.rows → m.why ≠ some .record → ∃ t, exec (.matrixUnit core) s = .next t ∧
      (∀ y x, y < 1024 → x < 1024 → (t.core core).cell y x =
        if y = m.row0 + m.unit ∧ m.col0 ≤ x ∧ x < m.col0 + m.cols then 0 else (s.core core).cell y x) ∧
      (t.core core).mat = { m with unit := m.unit + 1, step := 0, why := none } :: r ∧ t.groups = s.groups ∧ t.mem = s.mem) ∧
    (m.run = true → m.unit ≥ m.rows → m.fn = 5 ∨ m.fn = 4 ∨ m.fn = 6 → ∀ g p, s.group? m.ref = some g →
      g.pend.find? (fun x => x.id == m.pend) = some p → p.kind = .matrix [core] → p.done = false → p.dests = [] → p.ivs = [] → p.capTag = none →
      p.dirty = [] → g.st = .ready →
      ∃ t h, exec (.matrixOperationComplete core) s = .next t ∧ (t.core core).mat = r ∧ t.group? m.ref = some h ∧
        h = { g with pend := h.pend, flags := lput 0 g.flags p.flag (g.flag p.flag - 1) } ∧ ∀ x ∈ h.pend, x.id = m.pend → x.done = true) ∧
    (∀ q k, (s.core core).matIn = q :: k → exec (.mmacQuarterEnqueue core) s =
      .next (s.modCore core fun x => { x with mat := m :: r ++ [q], matIn := k }))

/-! ### Strand, Loupe and launches -/

/-- SOPEN, SRUN, STOPK and SSTAT (R340, R348 to R352): a valid descriptor opens a session that is not busy; SRUN starts an
open or done session and answers 1 or 2 of another; STOPK of a done session starts to write its list; SSTAT reads the
session. When the quad's engine comes to a session whose lists are used up (R339), it ends its run with status 0. When SSTAT shows a status that is at
once is the model's reading (log entry 62). -/
def Obligations.StrandInstructions : Prop :=
  ∀ (s : State) (c : Ctx) (f : Form) (d : Fin 48), Issuing s c f.guard → f.d = .s d → flagFree c f = true → c.r.core < 256 →
    (s.core c.r.core).sess.length = 2 →
    let n := sessNum f
    let x := (s.core c.r.core).session n
    (isS f.a = true → uniform f f.b = true → wholeAddr c f / 2 ^ 22 = 2 ^ 39 → wholeAddr c f % 64 = 0 → (sessDesc s c f).check = none →
      ∃ t, exec (.sopen f) s = .next t ∧
        (x.st ≠ .run ∧ x.st ≠ .held → Started (s.modSess c.r.core n fun _ => openedSession s c f) c f (answerOp c f d.val 0) t) ∧
        (x.st = .run ∨ x.st = .held → Started (s.modSess c.r.core n fun y => { y with status := 1 }) c f (answerOp c f d.val 1) t)) ∧
    (∃ t, exec (.srun f) s = .next t ∧
      (x.st = .opened ∨ x.st = .done → Started (s.modSess c.r.core n fun y => runSession y c) c f (opOf c f (.srun n) [.scalar d.val] []) t) ∧
      (x.st = .closed ∨ x.st = .fault → Started (s.modSess c.r.core n fun y => { y with status := 2 }) c f (answerOp c f d.val 2) t) ∧
      (x.st = .run ∨ x.st = .held → Started (s.modSess c.r.core n fun y => { y with status := 1 }) c f (answerOp c f d.val 1) t)) ∧
    (capName f.a = true → uniform f f.b = true →
      let cp := c.g.cap c.tk (f.a.num / 2)
      let a := (cp.base + c.g.read c.tk f.lit 64 0 f.b) % 2 ^ 64
      cp.check 2 1 (8 * x.k) (c.g.read c.tk f.lit 64 0 f.b) = 0 → (a / 2 ^ 60 = 0 ∨ a / 2 ^ 60 = 2 ∨ a / 2 ^ 60 = 4) →
      (x.k = 0 ∨ s.rangeOn (s.origin c.r c.g) a (a + 8 * x.k - 1) = true) →
      ∃ t, exec (.stopk f) s = .next t ∧
        (x.st = .done → ∃ p, Started s c f p t ∧ p = { opOf c f (.stopk n none (BitVec.ofNat 64 a)
          (x.topk.map fun e => BitVec.ofNat 32 (e.2 % 2 ^ 32).toNat ++ BitVec.ofNat 32 e.1) x.topk.length) [.scalar d.val] [] with owns := p.owns } ∧
          (a / 2 ^ 60 = 0 → p.owns = [])) ∧
        (x.st ≠ .done → Started (s.modSess c.r.core n fun y => { y with status := 6 }) c f (answerOp c f d.val 6) t)) ∧
    (∃ t, exec (.sstat f) s = .next t ∧ Started s c f (answerOp c f d.val (sessionWord x)) t) ∧
    (x.st = .run → (s.core c.r.core).halted = false → s.stopped x.ten = false → x.openLists = [] → x.held = 0 →
      s.strandNext (quadOf c.r.core) = some (sessNumber c.r.core n) → (∀ k, (s.core k).pub = []) →
      ∃ t, exec (.strandBlock c.r.core n) s = .next t ∧ t.mem = s.mem ∧
        (t.core c.r.core).session n = { x with st := .done, status := 0, posts := [], gaps := [], again := [], floor := none, why := none })

/-- IVPT, IVLO, IVHI, LFILL, LSPLIT and LSUM (R328, R331 to R334): ends and points in an ordinary grid and in a Loupe
grid; LFILL holds a fill in each thread that passes its checks, and is illegal outside a Loupe grid; LSPLIT leaves a
point thread alone; LSUM counts the operation. The path test of LFILL's range is the model's reading (log entry 66).
-/
def Obligations.LoupeInstructions : Prop :=
  (∀ i o s c, endOf i = some o → Issuing s c o.form.guard → (o.effect c).ok = true →
    ∃ t, exec i s = .next t ∧ After s c o.form o.aw (o.effect c).own (o.effect c).upd t) ∧
  (∀ (i : Instr) (hi : Bool) (s : State) (c : Ctx) (f : Form) (n a : Fin 32), (i = .ivlo f ∧ hi = false ∨ i = .ivhi f ∧ hi = true) →
    s.ctx = some c → c.g.lpass = true → (∀ l ∈ c.set, c.guard f.guard l = .t) → f.d = .v n → f.a = .v a → c.g.pend = [] →
    ∃ t, exec i s = .next t ∧ After s c f 32 id (fun l th =>
      putLoupe n.val (if hi then (ends c l a.val).2 else (ends c l a.val).1) (th.hidden (th.wb + 2 * a.val)).kind th) t) ∧
  (∀ (s : State) (c : Ctx) (f : Form) (n : Nat) (a : Fin 32), s.ctx = some c → c.g.lpass = true → (∀ l ∈ c.set, c.guard f.guard l = .t) →
    predName f.d = some n → f.a = .v a → c.g.pend = [] →
    ∃ t, exec (.ivpt f) s = .next t ∧ After s c f 32 id (fun l th =>
      putPred n ((ends c l a.val).1 = (ends c l a.val).2 && !(th.hidden (th.wb + 2 * a.val)).np) th) t) ∧
  (∀ (s : State) (c : Ctx) (f : Form), s.ctx = some c → c.g.lpass = true → (∀ l ∈ c.set, c.guard f.guard l = .t) →
    capName f.a = true → threadSource c.g f.lit 32 f.b = true →
    (∀ l ∈ c.set, s.fillCheck (s.origin c.r c.g) (c.g.thread l) (capIn c f.a) (f.a.num / 2) (c.g.readIv c.tk f.lit 32 l f.b) = .hold) →
    ∃ t, exec (.lfill f) s = .next t ∧ After s c f 64 id (fun l th =>
      { th with fills := th.fills ++ [⟨capIn c f.a, BitVec.ofNat 32 (c.g.read c.tk f.lit 32 l f.b), c.pc, c.len, false⟩] }) t) ∧
  (∀ (s : State) (c : Ctx) (f : Form), Issuing s c f.guard → capName f.a = true → threadSource c.g f.lit 32 f.b = true →
    exec (.lfill f) s = .next (s.trapGroup c.r c.g 0x01 0 c.len c.pc c.pc (maskOf (c.on f.guard)) 0 0)) ∧
  (∀ (s : State) (c : Ctx) (f : Form), s.ctx = some c → c.g.lpass = true → c.on f.guard ≠ [] → (∀ l ∈ c.set, (c.g.thread l).point = true) →
    ∃ t, exec (.lsplit f) s = .next t ∧ After s c f 64 id (fun _ th => th) t) ∧
  (∀ (s : State) (c : Ctx) (f : Form) (l : Nat) (x : Grid), s.ctx = some c → c.g.lpass = true → c.notOff f.guard = [l] →
    (∃ m ∈ c.g.liveLanes, m ≠ l) → (c.g.thread l).lv = true → (c.g.thread l).point = false → s.gridOf c.g = some x → x.handle = c.g.handle →
    ∃ t g, exec (.lsplit f) s = .next t ∧ t.group? c.r = some g ∧
      g.thread l = { c.g.thread l with live := false, lv := false, fills := [] } ∧ t.gridOf g = some (x.undecided (c.g.thread l).entry)) ∧
  (∀ (s : State) (c : Ctx) (f : Form), Issuing s c f.guard → flagFree c f = true → capName f.a = true → capName f.b = true →
    s.sumCheck (s.origin c.r c.g) (capIn c f.a) (capIn c f.b) (f.a.num / 2) (f.b.num / 2) = none →
    ∃ t p, exec (.lsum f) s = .next t ∧ Started s c f p t ∧
      p = { opOf c f (.lsum none (capIn c f.a) (capIn c f.b) (BitVec.ofNat 2 f.mod.toNat) 0) [] [] with owns := p.owns })

/-- The Loupe engine (R314, R334): a group that has drained and finds no work retires, and one that finds no free entry waits; a
block of LSUM that reads and writes well goes on to the next, and the last one finishes the operation. -/
def Obligations.LoupeEngineActs : Prop :=
  (∀ (s : State) (r : GRef) (g : Group) (x : Grid), s.group? r = some g → g.lpass = true → s.thawed g = true → g.filling = [] →
    (g.st = .draining ∨ g.st = .batchWait) → g.flags.all (· == 0) = true → s.gridOf g = some x →
    (x.takeBatch = .finished → exec (.loupeBatchStart r) s = .next (s.retireGroup r)) ∧
    (x.takeBatch = .wait → ∃ t, exec (.loupeBatchStart r) s = .next t ∧ t.group? r = some { g with st := .batchWait }) ∧
    (∀ y items, x.takeBatch = .run y items → ∃ t h, exec (.loupeBatchStart r) s = .next t ∧ t.group? r = some h ∧ h.st = .ready ∧
      (∀ l, l < 64 → (h.thread l).live = decide (l < items.length)) ∧
      ∀ l i, items[l]? = some i → l < 64 → (h.thread l).rect = i.rect ∧ (h.thread l).point = i.point ∧ (h.thread l).pc = BitVec.ofNat 64 (x.word 1))) ∧
  (∀ (s s1 : State) (r : GRef) (id b : Nat) (g : Group) (p : Pend) (dst src : Cap) (k : BitVec 2), s.group? r = some g →
    g.pend.find? (fun x => x.id == id) = some p → p.kind = .lsum none dst src k b → s.thawed g = true →
    (s.core r.core).halted = false →
    s.sumBlock (s.engineOrigin r g.ten g.team) (r, id) dst src k.toNat b = (s1, none) →
    exec (.lsumBlock r id) s = .next (s1.modPend r id fun p =>
      if b + 1 < (src.len + 1023) / 1024 then { p with kind := .lsum none dst src k (b + 1) } else { p with kind := .ready, vals := [] }))

/-- Loupe's bounds hold (R318, R321, R323): the interval that ADD, SUB, MUL and MAD compute contains the result for every choice of
operands within their intervals, and a comparison decided over two intervals holds, or fails, for every pair of their members. Of MAD
with SAT this is said where no product leaves the type: R323 fits the product before it adds (log entry 102). -/
def Obligations.IntegerBoundsHold : Prop :=
  ∀ (f : Form) (a b k : Iv) (x y z : Nat), let w := f.width
    fitsIn w a → fitsIn w b → fitsIn w k → holds f.uns w a x → holds f.uns w b y → holds f.uns w k z →
    (∃ i, (aluAdd f false).at [a, b] = .val i ∧ holds f.uns w i (valLim f.uns f.sat w (valIn f.uns w x + valIn f.uns w y))) ∧
    (∃ i, (aluAdd f true).at [a, b] = .val i ∧ holds f.uns w i (valLim f.uns f.sat w (valIn f.uns w x - valIn f.uns w y))) ∧
    (∃ i, (aluMul f).at [a, b] = .val i ∧ holds f.uns w i (valLim f.uns f.sat w (valIn f.uns w x * valIn f.uns w y))) ∧
    ((f.sat = false ∨ ∀ m n, holds f.uns w a m → holds f.uns w b n →
        valIn f.uns w (valLim f.uns true w (valIn f.uns w m * valIn f.uns w n)) = valIn f.uns w m * valIn f.uns w n) →
      ∃ i, (aluMul f).at [a, b, k] = .val i ∧ holds f.uns w i (valLim f.uns f.sat w (valIn f.uns w x * valIn f.uns w y + valIn f.uns w z))) ∧
    (∀ cc, cc < 6 → (ivCmp cc (a.ends f.uns w) (b.ends f.uns w) = .t → valCond cc (valIn f.uns w x) (valIn f.uns w y) = true) ∧
      (ivCmp cc (a.ends f.uns w) (b.ends f.uns w) = .f → valCond cc (valIn f.uns w x) (valIn f.uns w y) = false))

/-- LAUNCH, LQRY and LCAN (R99, R112 to R114): LAUNCH closes the group's phase and counts the operation; LQRY answers the state and
the retired clusters of the handle, LCAN the state before it acted, and it makes a running grid cancelling. -/
def Obligations.LaunchInstructions : Prop :=
  ∀ (s : State) (c : Ctx) (f : Form) (d : Fin 48), Issuing s c f.guard → f.d = .s d → flagFree c f = true →
    (capName f.a = true → (capIn c f.a).check 1 1 256 0 = 0 → (s.core c.r.core).pub = [] → ∃ t, exec (.launch f) s = .next t ∧
      After (s.releases c.r.core) c f 64 (fun g => { counted { opOf c f (.launch none (capIn c f.a)) [.scalar d.val] [] with since := s.ticket } g with
        phase := g.phase + 1 }) (fun _ th => th) t) ∧
    (∀ p, uniform f f.a = true → s.part? c.g.part = some p →
      let h := c.g.read c.tk f.lit 64 0 f.a % 2 ^ 32
      (∃ t, exec (.lqry f) s = .next t ∧
        Started s c f (answerOp c f d.val (min (p.stateOf h).2 (2 ^ 32 - 1) * 2 ^ 32 + (p.stateOf h).1.code)) t) ∧
      (∀ x, p.grid? h = some x → x.st = .running → ∃ t, exec (.lcan f) s = .next t ∧
        Started (s.modGrid c.g.part h fun y => { y with st := .cancelling }) c f (answerOp c f d.val 2) t) ∧
      (p.grid? h = none → ∃ t, exec (.lcan f) s = .next t ∧ Started s c f (answerOp c f d.val (p.stateOf h).1.code) t))

/-! ### System -/

/-- SYSRD and SYSWR (R148, R356, R357, R373): SYSRD writes the register into D; SYSWR sets FRZTO within 1,000 to 12,000,
SFAULT, SAVING, GSTAT from a system group, and the team's SPZCFG. Which bits of SAVING can be written is the model's
reading (log entry 72). -/
def Obligations.SystemRegisters : Prop :=
  ∀ (s : State) (c : Ctx) (f : Form), Issuing s c f.guard → let n := f.imm.toNat % 4096
    (∀ (d : Fin 48) v, f.d = .s d → sysValue s c n = some v → freeScal c d.val = true → ∃ t, exec (.sysrd f) s = .next t ∧
      After s c f 64 (putScal d.val v) (fun _ th => th) t) ∧
    (uniform f f.a = true →
      let v := c.g.read c.tk f.lit 64 0 f.a
      (n = 0x105 → c.sys = true → v < 2 ^ 14 → ∃ t, exec (.syswr f) s = .next t ∧
        PastIn (s.modQuarter c.r.core c.r.qtr fun q => { q with frzto := BitVec.ofNat 64 (max 1000 (min v 12000)) }) c f t) ∧
      (n = 0x106 → c.sys = true → v / 2 ^ 57 % 8 = 0 → ∃ t, exec (.syswr f) s = .next t ∧
        PastIn (s.modQuarter c.r.core c.r.qtr fun q => { q with sfault := BitVec.ofNat 64 v }) c f t) ∧
      (n = 0x107 → c.sys = true → v < 2 → ∃ t, exec (.syswr f) s = .next t ∧
        PastIn (s.modCore c.r.core fun k => { k with saving := BitVec.ofNat 64 v }) c f t) ∧
      (∀ g, n = 0x14 → c.sys = true → v < 4 → (ownerOf s c).2 = some g → (ownerOf s c).1 ≠ c.r → ∃ t, exec (.syswr f) s = .next t ∧
        PastIn (s.setGroup (ownerOf s c).1 { g with univ := v % 2 == 1, strict := v / 2 == 1 }) c f t) ∧
      (∀ tm, n = 0x18 → c.sys = false → v &&& (1 + 0x3fff * 2 ^ 8 + 0x3ff * 2 ^ 44) = v → s.team c.r c.g = some tm →
        ∃ t, exec (.syswr f) s = .next t ∧ PastIn (s.modTeam c.r.core c.g.team fun x => { x with spzcfg := BitVec.ofNat 64 v }) c f t))

/-- Privilege (R91, R129, R356): in a group that is no system group a privileged instruction raises the privileged-
instruction trap, whatever its operands and its guard, and so does SYSRD or SYSWR of a register number from 0x100 to
0x1FF; nothing else changes. That unassigned numbers of that range are privileged too is the model's reading (log
entry 72). -/
def Obligations.PrivilegeTraps : Prop :=
  ∀ (i : Instr) (f : Form) (s : State) (c : Ctx), s.ctx = some c → c.sys = false →
    (privilegedForm i = some f → (∀ g, i = .eret g → c.atEnd = true) →
      exec i s = .next (s.trapGroup c.r c.g 0x03 0 c.len c.pc c.pc (maskOf c.set) 0 0)) ∧
    ((i = .sysrd f ∨ i = .syswr f) → 0x100 ≤ f.imm.toNat % 4096 → f.imm.toNat % 4096 ≤ 0x1ff →
      exec i s = .next (s.trapGroup c.r c.g 0x03 0 c.len c.pc c.pc (maskOf c.set) 0 (BitVec.ofNat 64 (f.imm.toNat % 4096))))

/-- ERET of a trap's record (R374): with the system group's flags clear, the group that the record names is ready again, the threads of
MASK at RPC, still inside their clause when RPC is the record's own PC and at a header otherwise, and the ring head is free. -/
def Obligations.TrapsReturn : Prop :=
  ∀ (s s1 : State) (c : Ctx) (f : Form) (x : Record) (g : Group) (slot : Nat) (rest : List Record) (rpc : Nat) (tag : Bool), Issuing s c f.guard →
    c.sys = true → c.atEnd = true → c.r.qtr < 4 → (s.core c.r.core).quarters.length = 4 → c.g.flags.all (· == 0) = true → (s.core c.r.core).pub = [] →
    s.requestsOut c.r = false → (s.quarter c.r.core c.r.qtr).ring = x :: rest → (s.quarter c.r.core c.r.qtr).serving = some slot →
    (s.quarter c.r.core c.r.qtr).serv = x.who → x.who.getLsbD 0 = false → whoRef x.who ≠ c.r →
    (whoRef x.who).core = c.r.core → (whoRef x.who).qtr = c.r.qtr → (whoRef x.who).slot < 63 →
    s.group? (whoRef x.who) = some g → 1 ≤ x.cause → x.cause ≤ 0x0e → rpc < 2 ^ 64 →
    s.readVa (s.origin c.r c.g) .load ((s.quarter c.r.core c.r.qtr).frec.toNat % 2 ^ 57 + 16) 8 = (s1, .bytes (leBytes 8 rpc) tag) →
    s1.groups = s.groups → s1.quarter c.r.core c.r.qtr = s.quarter c.r.core c.r.qtr →
    (rpc = x.pc.toNat ∨ ∃ s2, s1.checkTarget (s1.origin (whoRef x.who) g) (BitVec.ofNat 64 rpc) = (s2, .ok) ∧ s2.groups = s1.groups ∧
      s2.quarter c.r.core c.r.qtr = s1.quarter c.r.core c.r.qtr) →
    ∃ t h, exec (.eret f) s = .next t ∧ t.group? (whoRef x.who) = some h ∧ h.st = .ready ∧ h.scal = g.scal ∧
      (∀ l, l < 64 → h.thread l = if x.mask.getLsbD l then
          (if rpc = x.pc.toNat then { g.thread l with pc := BitVec.ofNat 64 rpc }
           else { g.thread l with pc := BitVec.ofNat 64 rpc, cpos := 0, left := some 0 })
        else g.thread l) ∧
      (t.quarter c.r.core c.r.qtr).busy = false ∧ (t.quarter c.r.core c.r.qtr).serving = none ∧
      ∃ more, (t.quarter c.r.core c.r.qtr).ring = rest ++ more

/-- TLBI and SLOG (R375, R376), in a system group: TLBI removes the entries that it names from every TLB and counts the operation; SLOG
reads the count, the words and the head of the core's side log, and SLOG.dh discards the head. -/
def Obligations.MaintenanceInstructions : Prop :=
  ∀ (s : State) (c : Ctx) (f : Form), Issuing s c f.guard → c.sys = true →
    (∀ (i : Instr) (k : Nat), (i = .tlbiPage f ∧ k = 0 ∨ i = .tlbiTen f ∧ k = 1 ∨ i = .tlbiAll f ∧ k = 2) → flagFree c f = true →
      (isS f.a = true ∨ f.a = .zero) → (k = 2 → c.g.read c.tk f.lit 64 0 f.a = 0) → (∀ x ∈ s.cores, x.2.pub = []) →
      ∃ t, exec i s = .next t ∧ (∀ core, (t.core core).l1 = (s.core core).l1.filter fun e => !tlbiHits s c f k e) ∧
        (∀ q, mgetD t.l2 q [] = (mgetD s.l2 q []).filter fun e => !tlbiHits s c f k e) ∧ t.mem = s.mem ∧
        ∃ g, t.group? c.r = some g ∧ Left c f.hold f.a f.lit 64 (fun x => { counted (opOf c f .ready [] []) x with pend := g.pend })
          (fun _ th => th) g) ∧
    (∀ d : Fin 48, f.d = .s d → freeScal c d.val = true → c.r.core < 256 →
      let log := (s.core c.r.core).log
      (∃ t, exec (.slogSt f) s = .next t ∧ After s c f 64 (putScal d.val
        (log.length % 1024 * 2 ^ 32 + (match log with | [] => (s.core c.r.core).logNext % 512 | e :: _ => e.idx) % 1024)) (fun _ th => th) t) ∧
      (uniform f f.a = true → f.a ≠ .zero → ∃ t, exec (.slogRd f) s = .next t ∧ After s c f 64 (putScal d.val
        (let a := c.g.read c.tk f.lit 64 0 f.a
         match log[a / 4 % 512]? with | none => 0 | some e => e.word (a % 4))) (fun _ th => th) t) ∧
      (∃ t, exec (.slogDh f) s = .next t ∧ (t.core c.r.core).log = log.drop 1 ∧ t.mem = s.mem ∧
        ∃ g, t.group? c.r = some g ∧ Left c f.hold f.a f.lit 64 (putScal d.val (if log.isEmpty then 0 else 1)) (fun _ th => th) g))

/-- FREEZE, THAW, WINSP, WINFL and HALT (R377 to R380), in a system group: each counts its operation. FREEZE of a frozen tenant answers 1,
and of another starts or joins a freeze. THAW refuses with the shortage and changes nothing, or restores: the cluster is admitted at its
origin, the core's scratchpad holds the section's bytes, and a group that stood for nothing but itself is ready with its saved registers,
threads and window words. THAW.ip lets a group that was Ready go on. WINSP stores and WINFL loads the words of the threads in MASK at their
places through the tenant window, RB moves by the number moved, a fault sets SFAULT and ends its thread's move, and the answer is the
smallest number. HALT.grid ends the grid: no group, spilled group or side-log entry of it is left, and the grid is cancelling, if its phase
cannot be closed yet, or gone; HALT.ten releases the frozen groups and the saved state. Both answer the number of groups. With no group
served WINSP, WINFL and HALT.grid answer 0. The section that THAW takes, and that FREEZE of a frozen tenant counts nothing, are the model's
reading (log entries 17, 69). -/
def Obligations.FreezeAndWindowInstructions : Prop :=
  (∀ (s : State) (c : Ctx) (f : Form) (d : Fin 48), Issuing s c f.guard → c.sys = true → f.d = .s d → flagFree c f = true →
    let ten := c.g.read c.tk f.lit 64 0 f.a % 65536
    (∀ tn, uniform f f.a = true → f.a ≠ .zero → (s.tenant? ten = some tn ∨ s.tenant? ten = none ∧ tn = unknownTenant c.g.part) →
      ∃ t, exec (.freeze f) s = .next t ∧
        (tn.frozen = true → Started s c f (answerOp c f d.val 1) t) ∧
        (tn.frozen = false → tn.freezing = true → Started s c f (opOf c f (.freeze ten) [.scalar d.val] []) t) ∧
        (tn.frozen = false → tn.freezing = false → ∃ y,
          Started { s with tenants := mset s.tenants ten y } c f (opOf c f (.freeze ten) [.scalar d.val] []) t ∧
          y = { tn with freezing := true, freezeAt := y.freezeAt, reach := s.cores.map (·.1), halted := 0, forced := 0 })) ∧
    (∀ tn, uniform f f.a = true → f.a ≠ .zero → s.tenant? ten = some tn → c.g.ten ≠ ten →
      (tn.frozen = false → ∃ t, exec (.thawIp f) s = .next t ∧ Started s c f (answerOp c f d.val 8) t) ∧
      (tn.frozen = true → ∀ s1, s.thawIp ten = (s1, 0) → s1.group? c.r = some c.g →
        ∃ t tn2, exec (.thawIp f) s = .next t ∧ Started s1 c f (answerOp c f d.val 0) t ∧ t.tenant? ten = some tn2 ∧ tn2.frozen = false ∧
          ∀ r g, (s.tenantGroups.filter fun x => x.2.ten == ten && x.2.frozen) = [(r, g)] → (∀ x ∈ s.cores, x.2.saved = []) → r.qtr < 4 →
            s.group? r = some g → g.st = .ready → g.pend = [] →
            t.group? r = some { g with frozen := false, forced := false, crec := none, readyAt := s.cycle }) ∧
      (tn.frozen = false → ∃ t, exec (.haltTen f) s = .next t ∧ Started s c f (answerOp c f d.val 0) t) ∧
      (tn.frozen = true → ∀ s1 n, s.haltTen ten = (s1, n) → s1.group? c.r = some c.g →
        n = groupCount s (fun g => g.ten == ten && g.frozen) ∧
        ∃ t, exec (.haltTen f) s = .next t ∧ Started s1 c f (answerOp c f d.val n) t ∧
          (∀ r h, r.slot < 63 → r.qtr < 4 → t.group? r = some h → h.ten = ten → h.frozen = false) ∧
          ∀ k, s.cores.any (fun x => x.1 == k) = true → ∀ y ∈ (t.core k).saved, y.ten ≠ ten)) ∧
    (∀ s1 im, capName f.a = true → uniform f f.b = true → (capIn c f.a).check 1 1 (capIn c f.a).len 0 = 0 →
      s.readImage (s.engineOrigin c.r 0 16) c.g.part (capIn c f.a).base none = (s1, .image im) →
      let x0 := c.g.read c.tk f.lit 64 0 f.b % 16
      let y0 := c.g.read c.tk f.lit 64 0 f.b / 16 % 16
      (∀ p i status n, s1.part? c.g.part = some p → s1.sectionShort c.g.part p im x0 y0 = some (i, status, n) → s1.group? c.r = some c.g →
        ∃ t, exec (.thaw f) s = .next t ∧ Started s1 c f (answerOp c f d.val (status + i % 256 * 2 ^ 8 + n % 2 ^ 32 * 2 ^ 16)) t) ∧
      (∀ p s2 v, s1.part? c.g.part = some p → s1.sectionShort c.g.part p im x0 y0 = none →
        s1.thawSection c.g.part im x0 y0 = (s2, v) → s2.group? c.r = some c.g →
        ∃ t, exec (.thaw f) s = .next t ∧ Started s2 c f (answerOp c f d.val 0) t ∧
          ∀ kp gi, PlainSection im kp gi → p.grid? im.handle = none → (∀ tk n, (im.grid tk n).lpass = false) → 16 * y0 + x0 ≠ c.r.core →
            let w := recordOf kp gi
            (∃ q x, t.part? c.g.part = some q ∧ q.grid? im.handle = some x ∧ x.st = .running ∧
              ∀ y ∈ x.clusters, y.idx = im.map → y.st = .admitted ∧ y.x0 = x0 ∧ y.y0 = y0) ∧
            (∀ o, o < 2 ^ 22 → cget (t.core (16 * y0 + x0)).spad o = (kp.drop (0x40000 + o)).headD 0) ∧
            ∃ k h, k < 63 ∧ t.group? ⟨16 * y0 + x0, gi % 4, k⟩ = some h ∧ h.st = .ready ∧ h.frozen = false ∧ h.handle = im.handle ∧
              h.ten = im.ten ∧ h.gidx = gi ∧ (∀ n, n < 48 → h.scal.getD n 0 = BitVec.ofNat 64 (w (40 + n))) ∧ h.ctag = BitVec.ofNat 24 (w 88) ∧
              h.phase = w 24 ∧
              ∀ l, l < 64 → (h.thread l).pc = BitVec.ofNat 64 (w (128 + 4 * l)) ∧ (h.thread l).depth = w (129 + 4 * l) % 1024 ∧
                (h.thread l).live = bit (w (129 + 4 * l)) 11 ∧ (h.thread l).wb = w (130 + 4 * l) % 2 ^ 32 ∧
                (h.thread l).rb = w (130 + 4 * l) / 2 ^ 32 % 2 ^ 32 ∧
                ∀ i, i < w 1 / 2 ^ 32 % 2 ^ 12 → mget (h.thread l).stack ((h.thread l).rb + i) =
                  some (BitVec.ofNat 32 (ofLe ((kp.drop (w 5 + 4 * (w 1 / 2 ^ 32 % 2 ^ 12) * l + 4 * i)).take 4))))) ∧
    (∀ r g s1 n, s.servedGroup c.r.core c.r.qtr = some (r, g) → s.haltGrid g.part g.handle = (s1, n) → s1.group? c.r = some c.g →
      n = groupCount s (inGrid g.part g.handle) ∧
      ∃ t, exec (.haltGrid f) s = .next t ∧ Started s1 c f (answerOp c f d.val n) t ∧
        (∀ q h, q.slot < 63 → q.qtr < 4 → t.group? q = some h → inGrid g.part g.handle h = false) ∧
        (∀ k, (∀ x ∈ (t.core k).spilled, inGrid g.part g.handle x.2 = false) ∧
          ∀ e ∈ (t.core k).log, e.part ≠ g.part ∨ e.handle ≠ g.handle) ∧
        ∀ p x, t.part? g.part = some p → p.grid? g.handle = some x →
          x.st = .cancelling ∧ ∀ y ∈ x.clusters, y.st ≠ .admitted ∧ y.st ≠ .parked) ∧
    (s.servedGroup c.r.core c.r.qtr = none → ∃ t, exec (.haltGrid f) s = .next t ∧ Started s c f (answerOp c f d.val 0) t) ∧
    (∀ i, (i = .winsp f ∨ i = .winfl f) → isS f.a = true → uniform f f.b = true → f.b ≠ .zero →
      (s.servedGroup c.r.core c.r.qtr = none → ∃ t, exec i s = .next t ∧ Started s c f (answerOp c f d.val 0) t) ∧
      (∀ r g x rest s1 n, s.servedGroup c.r.core c.r.qtr = some (r, g) → r ≠ c.r → gkey r ≠ gkey c.r →
        (s.quarter c.r.core c.r.qtr).ring = x :: rest → x.mask ≠ 0 →
        moveLanes (i == .winsp f) (s.origin c.r c.g) r (c.g.read c.tk f.lit 64 0 f.a)
          (let b := c.g.read c.tk f.lit 64 0 f.b
           if b < 65536 then b else 0) s (lanesOf x.mask) = (s1, some n) → s1.group? c.r = some c.g →
        ∃ t, exec i s = .next t ∧ Started s1 c f (answerOp c f d.val n) t))) ∧
  (∀ (s : State) (o : Origin) (va : Nat), MemoriesWf s →
    (∀ u k bs, s.tenantLeaf o va true = (u, .ok (.phys k)) → (∀ j, (u.core j).pub = []) →
      ∃ t, s.winStore o va bs = (t, .ok) ∧ t.groups = u.groups ∧
        ∀ a, cget t.mem a = if k ≤ a ∧ a < k + bs.length then bs.getD (a - k) 0 else cget u.mem a) ∧
    (∀ u k n, s.tenantLeaf o va false = (u, .ok (.phys k)) → (u.core o.r.core).pub = [] → s.winLoad o va n = (u, .ok, cread u.mem k n)) ∧
    (∀ u sub, o.r.qtr < 4 → (u.quarter o.r.core o.r.qtr).sfault.getLsbD 63 = false →
      (∀ bs, s.tenantLeaf o va true = (u, .fault sub) → ∃ t, s.winStore o va bs = (t, .fault) ∧ t.mem = u.mem ∧ t.groups = u.groups ∧
        (t.quarter o.r.core o.r.qtr).sfault = BitVec.ofNat 64 (2 ^ 63 + sub % 8 * 2 ^ 60 + va % 2 ^ 57)) ∧
      (∀ n, s.tenantLeaf o va false = (u, .fault sub) → ∃ t, s.winLoad o va n = (t, .fault, []) ∧ t.mem = u.mem ∧ t.groups = u.groups ∧
        (t.quarter o.r.core o.r.qtr).sfault = BitVec.ofNat 64 (2 ^ 63 + sub % 8 * 2 ^ 60 + va % 2 ^ 57))))

/-! ### Turns, records and spilled groups -/

/-- BARREL_TURN, QUANTUM_EXPIRY, SYSTEM_GROUP_SERVICE and FAULT_RECORD_WRITE (R132, R135, R136, R355, R357, R360): the
turn's instruction is latched; after 56 rotations the earliest ready pending group takes the turn, which stays empty
once; the ring head is served from SVEC with SERV, FREC and the flags as the record says, and the scalar registers
kept; a waiting record goes to the ring's tail with the next sequence number. The turn that a record without one is
served in is the model's reading (log entry 10). -/
def Obligations.TurnEvents : Prop :=
  (∀ s r g l ls i t, OnTurn s r g → g.issuingSet = l :: ls → (∃ n, (g.thread l).left = some (n + 1)) →
    Reads s (s.origin r g) (g.thread l).pc i t → exec .barrelTurn s = .next { t with issue := some i }) ∧
  (∀ (s : State) (r : GRef) (g : Group) (n k : Nat), s.group? r = some g →
    let q := s.quarter r.core r.qtr
    q.active.findIdx? (· == some r.slot) = some n → 56 ≤ q.owned.getD n 0 → earliest (s.readyPending r.core r.qtr) = some k →
    ∃ t, exec (.quantumExpiry r) s = .next t ∧ (t.quarter r.core r.qtr).active.getD n none = some k ∧
      (t.quarter r.core r.qtr).owned.getD n 9 = 0 ∧ (t.quarter r.core r.qtr).gap.getD n false = true ∧
      (∀ m, m ≠ n → (t.quarter r.core r.qtr).active.getD m none = q.active.getD m none) ∧
      t.group? r = some { g with st := .ready, readyAt := s.cycle } ∧ t.mem = s.mem ∧ ∀ p, gkey p ≠ gkey r → t.group? p = s.group? p) ∧
  (∀ (s : State) (core qtr : Nat) (x : Record) (rest : List Record), qtr < 4 →
    let q := s.quarter core qtr
    q.ring = x :: rest → q.busy = false → (s.core core).halted = false →
    ∃ t h, exec (.systemGroupService core qtr) s = .next t ∧ t.group? ⟨core, qtr, 63⟩ = some h ∧ h.st = .ready ∧
      h.flags = List.replicate 12 0 ∧ h.pend = [] ∧ (∀ l, l < 64 → h.thread l = { Thread.start with pc := q.svec }) ∧
      (∀ g, s.group? ⟨core, qtr, 63⟩ = some g → h.scal = g.scal) ∧
      (t.quarter core qtr).busy = true ∧ (t.quarter core qtr).serv = x.who ∧
      (t.quarter core qtr).frec = BitVec.ofNat 64 (15 * 2 ^ 60 + q.fqb.toNat % 2 ^ 60 + 64 * q.head) ∧
      (∀ n, q.sysTurn = some n → (t.quarter core qtr).sysTurn = some n) ∧ (t.quarter core qtr).sysTurn.isSome = true ∧
      t.mem = s.mem) ∧
  (∀ (s s1 : State) (core qtr : Nat) (x : Record), let q := s.quarter core qtr
    q.ring.length < Config.ringRecords → (s.core core).halted = false → q.waitRec.find? s.recordFree = some x →
    (s.modQuarter core qtr (ringTakes x)).supWrites core qtr (q.fqb.toNat % 2 ^ 57 + 64 * q.tail)
      ({ x with seq := q.seq } : Record).pieces = .ok s1 →
    ∃ t, exec (.faultRecordWrite core qtr) s = .next t ∧ t.mem = s1.mem ∧ (t.quarter core qtr).ring = q.ring ++ [{ x with seq := q.seq }] ∧
      (t.quarter core qtr).waitRec = q.waitRec.erase x ∧ (t.quarter core qtr).seq = q.seq + 1)

/-- ACQUIRE_DEADLOCK_BREAK, SPILLED_REFILL and SIDE_LOG_REPLAY (R41, R108, R305, R364, R391): the youngest waiting group
is written into its grid's SPILL area and its slot is free; a spilled group that fits comes back, ready, with the
prologue allotment and the PCs of its image; the head of a side log whose page now admits it is performed and leaves
the log, and one that meets a fault is reported once. That a spill whose write faults leaves the group, and when a
replay waits for ERET, are the model's reading (log entries 25, 80). The replayed store meets no operation or pool
that is uncovered (R237). -/
def Obligations.SpillAndReplay : Prop :=
  (∀ (s s1 : State) (core qtr : Nat) (r : GRef) (g : Group) (x : Grid) (tm : Team), s.breakable core qtr = some (r, g) → s.gridOf g = some x →
    s.team r g = some tm → (s.core core).pub = [] → r.core = core → r.qtr = qtr → r.slot < 63 →
    s.engineWrite (s.engineOrigin r g.ten g.team) (x.spillAt tm g.gidx) (s.spillImage r { g with st := .spilled }) = (s1, none) →
    ∃ t, exec (.acquireDeadlockBreak core qtr) s = .next t ∧ t.group? r = none ∧ t.mem = s1.mem ∧
      mget (t.core core).spilled (64 * qtr + r.slot) = some { g with st := .spilled }) ∧
  (∀ (s s1 : State) (core qtr k : Nat) (g : Group) (x : Grid) (tm : Team) (bs : List Byte), s.refillable core qtr = some (k, g) → s.gridOf g = some x →
    s.team ⟨core, qtr, k % 64⟩ g = some tm →
    s.engineRead (s.engineOrigin ⟨core, qtr, k % 64⟩ g.ten g.team) (x.spillAt tm g.gidx) (spillBytes g.regWords g.full) = (s1, .bytes bs) →
    ∃ t h, exec (.spilledRefill core qtr) s = .next t ∧ t.group? ⟨core, qtr, k % 64⟩ = some h ∧ h.st = .ready ∧ h.allot = g.pro ∧ h.acqf = false ∧
      (∀ l, l < 64 → (h.thread l).pc = BitVec.ofNat 64 (dwAt (bs.drop (4 * (g.full * g.regWords) * (l + 1) - 32)) 0)) ∧ t.mem = s1.mem) ∧
  (∀ (s : State) (core : Nat) (e : LogEntry) (rest : List LogEntry), (s.core core).log = e :: rest → e.told = false → e.refused = false →
    (s.core core).logWait = none → s.stopped e.ten = false → (s.core core).halted = false →
    (pathOf e.addr.toNat = 7 → ∃ t, exec (.sideLogReplay core) s = .next t ∧ (t.core core).log = rest ∧
      t.fabric.sent = s.fabric.sent ++ [(s.fabric.sentNext, e)] ∧ t.mem = s.mem) ∧
    (∀ s1 k, pathOf e.addr.toNat ≠ 7 → e.kind ≠ 2 →
      s.translate (s.logOrigin e).who .store (e.addr.toNat % 2 ^ 57) = (s1, .ok (.phys k)) →
      (s1.core core).log = e :: rest → (s1.core core).pub = [] → s1.owning = [] →
      ∃ t, exec (.sideLogReplay core) s = .next t ∧ (t.core core).log = rest ∧
        t.mem = cwrite s1.mem k (leBytes e.bytes e.data.toNat)) ∧
    (∀ s1 n, pathOf e.addr.toNat ≠ 7 →
      s.translate (s.logOrigin e).who (if e.kind = 2 then .atomic else .store) (e.addr.toNat % 2 ^ 57) = (s1, .fault n) →
      (s1.core core).log = e :: rest →
      ∃ t, exec (.sideLogReplay core) s = .next t ∧ (t.core core).log = { e with told := true } :: rest ∧
        (e.ref.qtr < 4 → ∃ x, (x ∈ (t.quarter core e.ref.qtr).ring ∨ x ∈ (t.quarter core e.ref.qtr).waitRec) ∧ x.cause = 0x11 ∧ x.sub = n ∧
          x.pc = e.pc ∧ x.addr = e.addr)))

/-! ### Grids -/

/-- GRID_START, GRID_RETIRE, CLUSTER_ADMISSION and COOPERATIVE_ADMISSION (R44, R98, R101, R103 to R106): the first grid of
the launch order whose dependences hold runs; a grid that is over leaves the ones that run, stays known by its state,
and signals its tokens; a cluster whose map entry reads well and whose cores meet R103 stands on its rectangle with
one team a core and its groups at ENTRY; a failed entry stops admission; a cooperative grid stands whole or not at
all. The core that a foreign cluster reaches and clusters of other devices are the model's reading (log entries 23,
67). -/
def Obligations.GridEvents : Prop :=
  (∀ (s : State) (part : Nat) (p : Part) (x : Grid), s.part? part = some p → x ∈ p.startable → p.grid? x.handle = some x →
    (∀ y ∈ p.startable, y = x ∨ (x.before_ y = true ∧ y.before_ x = false)) →
    ∃ t q, exec (.gridStart part) s = .next t ∧ t.part? part = some q ∧ q.order = p.order + 1 ∧ t.groups = s.groups ∧ t.mem = s.mem ∧
      ∀ h, q.grid? h = if h = x.handle then some { x with st := .running, started := p.order } else p.grid? h) ∧
  (∀ (s : State) (part h : Nat) (p : Part) (x : Grid) (st : GridState), s.part? part = some p → p.grid? h = some x → x.outcome = some st →
    s.storesOut part h x.ten x.cscope = false →
    ∃ t q, exec (.gridRetire part h) s = .next t ∧ t.part? part = some q ∧ q.grid? h = none ∧ q.ended = ((h, st, x.retired) :: p.ended).take 256 ∧
      (∀ n, mgetD q.tokens n 0 = mgetD p.tokens n 0 + BitVec.ofNat 32 (doneCount x n)) ∧ t.mem = s.mem) ∧
  (∀ (s s1 : State) (part h n : Nat) (p : Part) (x : Grid) (c : Cluster), s.part? part = some p → p.grid? h = some x →
    x.clusters.find? (fun d => d.idx == n) = some c → c.st = .waiting → s.nextAdmitted part p h n = true →
    (s.reread p x c = (s1, .bad) → ∃ t, exec (.clusterAdmission part h n) s = .next t ∧ t = s1.modGrid part h fun y => { y with stop := true }) ∧
    (∀ d, s.reread p x c = (s1, .cluster d) → s1.parts = s.parts → s1.clusterMeets part x d = true → d.dev = p.didx →
      ∃ t y, exec (.clusterAdmission part h n) s = .next t ∧ (t.part? part).bind (·.grid? h) = some y ∧
        y.clusters.find? (fun d => d.idx == n) = some { d with st := .admitted, left := x.cw * x.ch } ∧
        ∀ i, i < x.cw * x.ch → let k := 16 * (d.y0 + i / x.cw) + d.x0 + i % x.cw
          (∃ tm, mget (t.core k).teams (s1.core k).freeTeam = some tm ∧ tm.part = part ∧ tm.handle = h ∧ tm.ten = x.ten ∧ tm.map = n ∧
            tm.tidx = i ∧ tm.ngrp = x.groups.length) ∧
          (x.lpass = false → ∀ gi, gi < x.groups.length → Placed t x k (s1.core k).freeTeam gi)) ∧
    (∀ d, s.reread p x c = (s1, .cluster d) → s1.clusterMeets part x d = false →
      ∃ t, exec (.clusterAdmission part h n) s = .next t ∧ t = s1.modGrid part h fun y => y.putCluster d)) ∧
  (∀ (s s1 : State) (part h : Nat) (p : Part) (x : Grid), s.part? part = some p → p.grid? h = some x → x.coop = true → s.gridOpen x = true →
    x.clusters.all (fun c => c.st == .waiting) = true → ((s.offered p).head?.map fun y => y.1.handle) = some h →
    (s.rereadAll p x x.clusters = (s1, some none) →
      ∃ t, exec (.cooperativeAdmission part h) s = .next t ∧ t = s1.modGrid part h fun y => { y with stop := true }) ∧
    (∀ cs s2, s.rereadAll p x x.clusters = (s1, some (some cs)) → s1.admitAll part x cs = some s2 → s1.parts = s.parts →
      ∃ t y, exec (.cooperativeAdmission part h) s = .next t ∧ (t.part? part).bind (·.grid? h) = some y ∧ y.clusters.length = x.clusters.length ∧
        ∀ c ∈ y.clusters, c.st = .admitted) ∧
    (∀ cs, s.rereadAll p x x.clusters = (s1, some (some cs)) → s1.admitAll part x cs = none →
      ∃ t, exec (.cooperativeAdmission part h) s = .next t ∧ t.groups = s1.groups ∧ t.cores = s1.cores ∧ t.mem = s1.mem))

/-- CORE_WITHDRAW and PARKED_RESUME (R107): the named cores leave service and the partition's other cores that are not
halted are in it; the groups of the clusters to be saved halt; a cluster that stands still and whose image can be
written is PARKED and leaves its cores; and a parked cluster whose rectangle meets R103 and whose image can be read
resumes, its grid as it was before. The place of a section in the image and the moment of the save are the model's
choice (log entry 18). -/
def Obligations.WithdrawAndResume : Prop :=
  (∀ (s : State) (part : Nat) (cores : List Nat) (p : Part), PlacesRise s → s.part? part = some p →
    ∃ t, exec (.coreWithdraw part cores) s = .next t ∧
      (∀ c ∈ p.cores, (cores.contains c = true ∨ (s.core c).halted = true → (t.core c).inService = false) ∧
        (cores.contains c = false → (t.core c).halted = false → (t.core c).inService = true)) ∧
      (∀ x ∈ p.grids, ∀ c ∈ s.toPark part x cores, ∀ k ∈ s.clusterTeams part x.handle c.idx, ∀ g ∈ s.teamResidents k.1 k.2.1,
        ∀ h, t.group? g.1 = some h → h.frozen = true)) ∧
  (∀ (s s1 s2 : State) (part h : Nat) (maps : List Nat) (y : Grid),
    (maps.foldl (fun s n => s.haltCluster part h n) s).parkReady part h maps = some (s1, y) →
    s1.parkImage part y maps = (s2, true) → s2.parts = s1.parts →
    s2.cores.map (fun k => (k.1, k.2.teams)) = s1.cores.map (fun k => (k.1, k.2.teams)) →
    ∃ z, ((s.park part h maps).part? part).bind (·.grid? h) = some z ∧ z.st = .parked ∧
      (∀ d ∈ z.clusters, maps.contains d.idx = true → d.st = .parked) ∧ (s.park part h maps).mem = s2.mem ∧
      ∀ n, maps.contains n = true → ∀ k m tm, mget ((s.park part h maps).core k).teams m = some tm →
        ¬(tm.part = part ∧ tm.handle = h ∧ tm.map = n)) ∧
  (∀ (s u : State) (part h : Nat) (p : Part) (x : Grid), s.part? part = some p → p.grid? h = some x →
    (s.resumed part x = some u → exec (.parkedResume part h) s = .next u) ∧
    (∀ s1 i c, x.st = .parked → x.coop = false → x.clusters.filter (fun c => c.st == .parked) = [c] → s.admits x.ten = true →
      s.clusterMeets part x c = true → s.readImage (s.engineOrigin ⟨0, 0, 64⟩ x.ten 16) part x.lock.base (some c.idx) = (s1, .image i) →
      s1.parts = s.parts → s1.sectionShort part p i c.x0 c.y0 = none → i.handle = h → i.map = c.idx →
      ∃ t y, exec (.parkedResume part h) s = .next t ∧ (t.part? part).bind (·.grid? h) = some y ∧ y.st = x.before ∧
        ∀ d ∈ y.clusters, d.st ≠ .parked))

/-! ### Freezes -/

/-- FREEZE_REACH_CORE, RECONVERGENCE_TIMEOUT and FREEZE_COMPLETE (R368, R369, R377): a freeze that reaches a core halts
every group of the tenant there that does not run diverged, and no other tenant's; after the timeout the diverged ones
halt with a forced save; once all is still the tenant is frozen, every hot line is written back, and each FREEZE that
waits is answered with its status and counts. That every hot line is written back and counted as 0 is the model's
reading (log entry 64). -/
def Obligations.FreezeEvents : Prop :=
  (∀ (s : State) (ten core : Nat) (tn : Tenant), s.tenant? ten = some tn → PlacesRise s → tn.freezing = true → tn.reach.contains core = true →
    ∃ t u, exec (.freezeReachCore ten core) s = .next t ∧ t.tenant? ten = some u ∧ u.reach = sdel tn.reach core ∧ t.mem = s.mem ∧
      (∀ r g, s.group? r = some g → r.core = core → r.qtr < 4 → r.slot < 63 → g.ten = ten → g.frozen = false →
        ∃ h, t.group? r = some h ∧ h.frozen = !g.runsOn ∧ h.threads = g.threads ∧ h.scal = g.scal) ∧
      (∀ r g, s.group? r = some g → r.qtr < 4 → r.slot < 64 → (r.core ≠ core ∨ g.ten ≠ ten ∨ g.frozen = true ∨ r.slot = 63) → t.group? r = some g)) ∧
  (∀ (s : State) (ten core : Nat) (tn : Tenant), s.tenant? ten = some tn → PlacesRise s → tn.freezing = true → tn.reach.contains core = false →
    tn.freezeAt ≤ s.cycle →
    ∃ t, exec (.reconvergenceTimeout ten core) s = .next t ∧ t.mem = s.mem ∧
      (∀ r g, s.group? r = some g → r.core = core → r.qtr < 4 → r.slot < 63 → g.ten = ten → g.frozen = false →
        ∃ h, t.group? r = some h ∧ h.frozen = true ∧ h.forced = g.runsOn ∧ h.threads = g.threads ∧ h.scal = g.scal)) ∧
  (∀ (s : State) (ten : Nat) (tn : Tenant), s.tenant? ten = some tn → tn.freezing = true → tn.reach = [] → (stilled s ten).settled ten = true →
    ∃ t u, exec (.freezeComplete ten) s = .next t ∧ t.tenant? ten = some u ∧ u.frozen = true ∧ u.freezing = false ∧ t.clasp.hot = [] ∧
      (∀ r g p, (stilled s ten).group? r = some g → p ∈ g.pend → p.kind = .freeze ten →
        ∃ h, t.group? r = some h ∧ p.finish [freezeWord (if u.halted = 0 then 2 else 0) u.forced u.halted] ∈ h.pend))

/-! ### Pages -/

/-- PAGE_MOVE_REQUEST, ENGINE_COMPRESS and PAGE_MOVE_COMPLETE (R218 to R220): a move that may start takes the page's lock,
one that meets a move in progress is queued as R219 says; a completed move leaves the leaf with its new tier and
frame, the compression flag as the move says, and every other field as it was, the page's bytes and tags in the new
frame, and the lock free or with the next queued move. The frame is a free choice of the partition's, a move that finds
none free waits, and pairs that R219 leaves out are refused (log entries 27, 38). -/
def Obligations.PageMoves : Prop :=
  (∀ (s : State) (ten : Nat) (va : BitVec 64) (m : PageMove) (l : Leaf), let page := va.toNat / 65536 % 2 ^ 41
    leafOf s ten page = some l →
    (s.locked ten page = false → moveStarts l.e l.big (!s.written.contains (frameNumber l.e)) m = true →
      exec (.pageMoveRequest ten va m) s = .next { s with moves := s.moves ++ [⟨ten, page, m, false, []⟩] }) ∧
    (s.locked ten page = false → moveStarts l.e l.big (!s.written.contains (frameNumber l.e)) .compress = true →
      exec (.engineCompress ten va) s = .next { s with moves := s.moves ++ [⟨ten, page, .compress, false, []⟩] }) ∧
    (∀ x k, s.moves = [x] → x.ten = ten → x.page = page → x.pull = false → moveMeets (x.queued.getLast?.getD x.kind) m = some k →
      exec (.pageMoveRequest ten va m) s = .next { s with moves := [{ x with queued := x.queued ++ [k] }] })) ∧
  (∀ (s : State) (ten : Nat) (va : BitVec 64) (x : Move) (l : Leaf), let page := va.toNat / 65536 % 2 ^ 41
    leafOf s ten page = some l → s.moves = [x] → x.ten = ten → x.page = page → x.pull = false → MemoriesWf s →
    moveStarts l.e l.big (!s.written.contains (frameNumber l.e)) x.kind = true → (s.host.ready = true ∨ x.kind = .compress) →
    s.frameBusy (frameKey (frameNumber l.e)) = false → s.host.waiting = [] → s.fabric.inbox = [] → (∀ k ∈ s.cores, k.2.pub = []) →
    (x.kind = .promote ∨ x.kind = .decompressPromote → (s.nearFrame ten page).isSome = true) →
    (x.kind = .evict → (s.capacityFrame ten page).isSome = true) →
    ∃ t, exec (.pageMoveComplete ten va) s = .next t ∧
      t.moves = (match x.queued with | [] => [] | k :: ks => [⟨ten, page, k, false, ks⟩]) ∧
      (∃ frame, creadLe t.mem l.addr 8 = leafMoved l.e (if x.kind = .evict ∨ x.kind = .compress then 1 else 0) frame (x.kind = .compress) % 2 ^ 64 ∧
        (x.kind = .compress → frame = slice l.e 51 16 ∧ t.mem = cwrite s.mem l.addr (leBytes 8 (leafMoved l.e 1 frame true))) ∧
        (x.kind = .promote ∨ x.kind = .decompressPromote → s.nearFrame ten page = some frame ∧ mget t.frames frame = some ten ∧
          t.reserve.contains (ten, page, slice l.e 51 16) = true ∧ pageComes s t ten l frame) ∧
        (x.kind = .evict → s.capacityFrame ten page = some frame ∧ t.frames = mdel s.frames (slice l.e 51 16) ∧
          ((s.reserve.any (fun y => y.1 == ten && y.2.1 == page) = false ∨ s.written.contains (frameNumber l.e) = true) →
            pageComes s t ten l (frame + 12582912)))) ∧
      ∀ k, ∀ y ∈ (t.core k).l1, ¬((if hostTen < ten then y.sup else !y.sup && y.ten == ten) = true ∧ y.big = false ∧ y.vpn = page)) ∧
  (∀ (s : State) (ten : Nat) (va : BitVec 64) (x : Move) (l : Leaf), let page := va.toNat / 65536 % 2 ^ 41
    leafOf s ten page = some l → s.moves = [x] → x.ten = ten → x.page = page → x.pull = false →
    moveStarts l.e l.big (!s.written.contains (frameNumber l.e)) x.kind = true → s.frameBusy (frameKey (frameNumber l.e)) = false →
    (x.kind = .promote ∨ x.kind = .decompressPromote) ∧ s.nearFrame ten page = none ∨ x.kind = .evict ∧ s.capacityFrame ten page = none →
    exec (.pageMoveComplete ten va) s = .next s)

/-- PAGE_PULL, PULL_SERVICE and PULL_REFUSAL_TIMEOUT (R400, R401): a pull takes the page's lock; the owner's answer, a
free choice, refuses it or brings the page and its tags into a near frame, present and dirty; this device answers
another's pull with the page and its tags, which is then not present here, or refuses it; 100 µs after its first refusal a pull
has failed. The frame and the answer are free choices, as are the bytes and tags that come (log entries 27, 28). -/
def Obligations.PagePulls : Prop :=
  (∀ (s : State) (ten : Nat) (va : BitVec 64) (tn : Tenant) (l : Leaf), let page := va.toNat / 65536 % 2 ^ 41
    s.tenant? ten = some tn → walk s.mem tn.root (page * 65536) = .ok l → bit l.e 56 = true →
    (s.fabric.pulls.find? (fun p => p.ten == ten && p.page == page) = none → s.locked ten page = false →
      ∃ t, exec (.pagePull ten va) s = .next t ∧ t = { s with moves := s.moves ++ [⟨ten, page, .promote, true, []⟩], fabric := t.fabric } ∧
        t.fabric = { s.fabric with pulls := s.fabric.pulls ++ [⟨ten, page, false, 0, false⟩],
                                   out := s.fabric.out ++ [.pull (slice l.e 51 44) ten page] }) ∧
    (∀ p, s.fabric.pulls = [p] → p.ten = ten → p.page = page → p.refused = false →
      MemoriesWf s → s.host.waiting = [] → s.fabric.inbox = [] → ∃ t, exec (.pagePull ten va) s = .next t ∧
        (Config.choice s.ticket page % 2 = 1 → t.mem = s.mem ∧
          t.fabric.pulls = [{ p with refused := true, since := if p.since = 0 then s.cycle else p.since }]) ∧
        (Config.choice s.ticket page % 2 = 0 → s.nearFrame ten page = none → t = s) ∧
        (∀ frame, Config.choice s.ticket page % 2 = 0 → s.nearFrame ten page = some frame → t.fabric.pulls = [] ∧
          creadLe t.mem l.addr 8 = (leafMoved (l.e - 2 ^ 56) 0 frame false ||| 2 ^ 54) % 2 ^ 64 ∧ mget t.frames frame = some ten ∧
          t.written.contains frame = true ∧
          (Memory.wf (s.peer (peerKey ten (slice l.e 51 44))) = true → pageFills s t ten page l frame)))) ∧
  (∀ (s : State) (ten dev : Nat) (va : BitVec 64) (tn : Tenant), let page := va.toNat / 65536 % 2 ^ 41
    s.tenant? ten = some tn →
    (∀ l k, walk s.mem tn.root (page * 65536) = .ok l → l.loc (page * 65536) = .phys k → s.frameBusy (k / 65536 * 65536) = false → MemoriesWf s →
      (∀ k ∈ s.cores, k.2.pub = []) →
      ∃ t bytes tags, exec (.pullService ten va dev) s = .next t ∧ t.fabric.out = s.fabric.out ++ [.page dev ten page bytes tags] ∧
        creadLe t.mem l.addr 8 = l.e / 2 * 2 % 2 ^ 64 ∧
        (∀ i, i < 4096 → ∀ a, l.loc (page * 65536 + 16 * i) = .phys a → tags.contains (page * 4096 + i) = s.mtags.contains (a / 16)) ∧
        (∀ i, i < 65536 → ∀ a, l.loc (page * 65536 + i) = .phys a → (bytes.find? (fun b => b.1 == page * 65536 + i)).map (·.2) =
          if cget s.mem a = 0 then none else some (cget s.mem a))) ∧
    (∀ n, walk s.mem tn.root (page * 65536) = .error n →
      ∃ t, exec (.pullService ten va dev) s = .next t ∧ t.fabric.out = s.fabric.out ++ [.pullRefusal dev ten page] ∧
        let p := rfqPlace (((s.part? tn.part).map (·.rfq)).getD 0)
        ∃ x, (x ∈ (t.quarter p.1 p.2).ring ∨ x ∈ (t.quarter p.1 p.2).waitRec) ∧ x.cause = 0x14 ∧ x.sub = n)) ∧
  (∀ (s : State) (ten : Nat) (va : BitVec 64) (p : Pull), s.stopped ten = false → s.fabric.pulls = [p] → p.ten = ten →
    p.page = va.toNat / 65536 % 2 ^ 41 → p.refused = true → p.failed = false → p.since + s.remoteCycles ≤ s.cycle →
    (∀ k ∈ s.cores, k.2.log = []) → (∀ x ∈ s.tenantGroups, x.2.ten ≠ ten) →
    ∃ t, exec (.pullRefusalTimeout ten va) s = .next t ∧ t.fabric.pulls = [{ p with failed := true }])

/-! ### The fabric -/

/-- PEER_REQUEST and FORWARDED_ATOMIC (R210, R366, R367, R401, R404): an inbound read is answered with the bytes at its place, a store
writes them and is acknowledged, an ATOM goes to the home engine of its word; a fault is recorded with cause 0x14 and refused; a tenant
that has left is answered with a retry. -/
def Obligations.InboundAccesses : Prop :=
  (∀ (s s1 : State) (q : PeerIn), s.fabric.left.contains q.ten = false →
    (∀ l, s.peerTranslate q.ten q.kind (q.va.toNat % 2 ^ 57) = (s1, .ok l) →
      (q.kind = .load ∨ q.kind = .con ∨ q.kind = .dap ∨ q.kind = .fetch → ∃ t, exec (.peerRequest q) s = .next t ∧ t.mem = s1.mem ∧
        t.fabric.out = s1.fabric.out ++ [.response q.dev q.va (s1.readLoc l q.size)]) ∧
      (q.kind = .store → ∀ k, l = .phys k → ∃ t, exec (.peerRequest q) s = .next t ∧ t.mem = cwrite s1.mem k (leBytes q.size q.data.toNat) ∧
        t.fabric.out = s1.fabric.out ++ [.response q.dev q.va []]) ∧
      (q.kind = .atomic → ∀ k, l = .phys k → ∃ t r, exec (.peerRequest q) s = .next t ∧ t.mem = s1.mem ∧
        mgetD t.clasp.reqs (homeEngine k) [] = mgetD s1.clasp.reqs (homeEngine k) [] ++ [r] ∧ r.loc = k ∧ r.op = q.op ∧ r.uns = q.uns ∧
        r.req.data = BitVec.ofNat 64 q.data.toNat ∧ r.req.cmp = q.cmp ∧ r.wide = (q.size == 8))) ∧
    (∀ n, s.peerTranslate q.ten q.kind (q.va.toNat % 2 ^ 57) = (s1, .fault n) →
      ∃ t, exec (.peerRequest q) s = .next t ∧ t.fabric.out = s1.fabric.out ++ [.refusal q.dev q.va] ∧
        let p := rfqPlace ((((s1.tenant? q.ten).bind fun t => s1.part? t.part).map (·.rfq)).getD 0)
        ∃ x, (x ∈ (t.quarter p.1 p.2).ring ∨ x ∈ (t.quarter p.1 p.2).waitRec) ∧ x.cause = 0x14 ∧ x.sub = n ∧ x.info = BitVec.ofNat 64 q.dev)) ∧
  (∀ (s : State) (q : PeerIn), s.fabric.left.contains q.ten = true →
    ∃ t, exec (.peerRequest q) s = .next t ∧ t.fabric.out = s.fabric.out ++ [.retry q.dev q.va] ∧ t.mem = s.mem) ∧
  (∀ (s : State) (q : PeerIn), let w := walk s.mem (s.launchWho q.ten).root (q.va.toNat % 2 ^ 57)
    (∀ l k, w = .ok l → l.loc (q.va.toNat % 2 ^ 57) = .phys k → ∃ t r, exec (.forwardedAtomic q) s = .next t ∧
      (bit l.e 54 = true → t.mem = s.mem) ∧
      mgetD t.clasp.reqs (homeEngine k) [] = mgetD s.clasp.reqs (homeEngine k) [] ++ [r] ∧ r.loc = k ∧ r.op = q.op ∧ r.uns = q.uns) ∧
    (∀ n, w = .error n → ∃ t, exec (.forwardedAtomic q) s = .next t ∧ t.fabric.out = s.fabric.out ++ [.retry q.dev q.va] ∧ t.mem = s.mem))

/-- PEER_REFUSAL_RESPONSE, PEER_RETRY_RESPONSE, REMOTE_TIMEOUT and RESOLVED_MESSAGE (R366, R404): a refused access holds
its group, a refused store waits in the side log with its lock bit clear; a retry sends the request again along the route of its index; 100 µs
after the first refusal a held access stops its group with cause 0x0F; a resolved page lets refused entries replay and
starts its refused pull again. The cycles that 100 µs take, and how an answer is matched, are the model's reading (log
entries 68, 71). -/
def Obligations.RemoteAnswers : Prop :=
  (∀ (s : State) (r : GRef) (id : Nat) (g : Group) (p : Pend) (a : Nat × Nat), id < sentBase → s.group? r = some g →
    g.pend.find? (fun x => x.id == id) = some p → p.done = false → p.peerAt = some a →
    (p.why = none → s.stopped g.ten = false → ∃ t h y, exec (.peerRefusalResponse r id) s = .next t ∧ t.group? r = some h ∧ h.st = .held id ∧
      y ∈ h.pend ∧ y.id = id ∧ y.why = some .peer ∧ (p.since = 0 → y.since = s.cycle) ∧ h.threads = g.threads ∧ t.mem = s.mem) ∧
    (∃ t, exec (.peerRetryResponse r id) s = .next t ∧ t = { s with fabric := t.fabric } ∧
      t.fabric = { s.fabric with out := s.fabric.out ++ [.peer (s.fabric.routes.getD a.1 a.1) (BitVec.ofNat 64 a.2)] }) ∧
    (p.why = some .peer → g.frozen = false → g.st = .held id → p.since + s.remoteCycles ≤ s.cycle →
      exec (.remoteTimeout r id) s = .next (s.trapGroup r g 0x0f 0 p.len p.pc 0 p.mask 0 (BitVec.ofNat 64 a.1)))) ∧
  (∀ (s : State) (r : GRef) (n : Nat) (e : LogEntry), s.sentEntry r n = some e →
    (s.logFits r.core 1 = true → ∃ t, exec (.peerRefusalResponse r (sentBase + n)) s = .next t ∧
      t.fabric.sent = s.fabric.sent.filter (fun x => x.1 != n) ∧ t.mem = s.mem ∧
      (t.core r.core).log = (s.core r.core).log ++
        [{ e with lock := false, ovl := false, told := false, refused := true, idx := (s.core r.core).logNext }]) ∧
    (let dev := slice e.addr.toNat 59 52
     ∃ t, exec (.peerRetryResponse r (sentBase + n)) s = .next t ∧ t = { s with fabric := t.fabric } ∧
      t.fabric = { s.fabric with out := s.fabric.out ++ [.peer (s.fabric.routes.getD dev dev) (BitVec.ofNat 64 (slice e.addr.toNat 51 0))] })) ∧
  (∀ (s : State) (dev : Nat) (va : BitVec 64), (∀ x ∈ s.tenantGroups, ∀ p ∈ x.2.pend, p.names dev va.toNat = false) →
    ∃ t, exec (.resolvedMessage dev va) s = .next t ∧ t.mem = s.mem ∧ t.groups = s.groups ∧
      (∀ k, (t.core k).log = (s.core k).log.map fun e => if e.names dev va.toNat then { e with refused := false } else e) ∧
      (∀ p tn l, s.fabric.pulls = [p] → p.page = va.toNat / 65536 % 2 ^ 41 → s.tenant? p.ten = some tn →
        walk s.mem tn.root (p.page * 65536) = .ok l → slice l.e 51 44 = dev →
        t.fabric.pulls = [{ p with refused := false, failed := false, since := 0 }]))

/-! ### The partition manager -/

/-- The partition manager (R97, R362, R399, R404, R405, R415, R423, R424): from a route switch on the source's index leads
to the destination and partitions take their new index; a migration's steps go in order, 3 to 6 only while the tenant rests,
each with its work on this device, the last freeing its frames; a request is a record of cause 0x1E; a halted core's grids end and the die's next spare, cleared, serves in
its place, or it stays out of service; a core under repair has its tenants frozen first, moves to the spare with its
state once they all are, and their work goes on; a re-plan changes nothing; a new partition has its cores, no token
set and no grid. The registers that a new partition gets, the spares' order, the destination's old index, and who is
thawed are the model's choice (log entries 2, 19, 20, 77). -/
def Obligations.ManagerEvents : Prop :=
  (∀ (s : State) (old new : Nat), old < 256 → new < 256 → s.fabric.routes.length = 256 →
    ∃ t, exec (.routeSwitch old new) s = .next t ∧ t.mem = s.mem ∧ t.groups = s.groups ∧
      t.fabric.routes.getD old 0 = s.fabric.routes.getD new 0 ∧
      (∀ k, k ≠ old → k ≠ new → t.fabric.routes.getD k 0 = s.fabric.routes.getD k 0) ∧
      (∀ n p, s.part? n = some p → (t.part? n).map (·.didx) = some (if p.didx = old then new else if p.didx = new then old else p.didx)) ∧
      (∀ ten tn p, s.tenant? ten = some tn → tn.frozen = true → s.part? tn.part = some p → p.didx = old → t.fabric.left.contains ten = true)) ∧
  (∀ (s : State) (ten : Nat), let done := mgetD s.fabric.steps ten 0
    (done ≤ 1 → ∀ tn, s.tenant? ten = some tn → tn.frozen = false → tn.freezing = false →
      ∃ t u, exec (.migration ten 2) s = .next t ∧ t.tenant? ten = some u ∧ u.freezing = true ∧ u.reach = s.cores.map (·.1) ∧
        t.mem = s.mem ∧ t.groups = s.groups ∧ mgetD t.fabric.steps ten 0 = 2) ∧
    (∀ tn, s.tenant? ten = some tn → tn.frozen = true →
      (done = 3 → ∃ t, exec (.migration ten 4) s = .next t ∧ t.clasp.hot = [] ∧ t.mem = s.mem ∧ t.groups = s.groups ∧
        mgetD t.fabric.steps ten 0 = 4) ∧
      (done = 7 → ∀ s1 n, s.haltTen ten = (s1, n) → ∃ t, exec (.migration ten 8) s = .next t ∧
        t = { s1 with fabric := t.fabric, frames := t.frames, reserve := t.reserve } ∧ t.frames = s1.frames.filter (fun f => f.2 != ten) ∧
        t.reserve = s1.reserve.filter (fun x => x.1 != ten) ∧ mgetD t.fabric.steps ten 0 = 8) ∧
      (∀ act, act = 3 ∨ act = 5 ∨ act = 6 → act = done + 1 → ∃ t, exec (.migration ten act) s = .next t ∧
        t = { s with fabric := t.fabric } ∧ mgetD t.fabric.steps ten 0 = act)) ∧
    (∀ tn act, s.tenant? ten = some tn → tn.frozen = false → tn.freezing = true → 3 ≤ act → act ≤ 6 → exec (.migration ten act) s = .next s) ∧
    (∀ act, act = 1 ∧ done ≤ 1 ∨ act = 7 ∧ done = 6 → ∃ t, exec (.migration ten act) s = .next t ∧
      t = { s with fabric := t.fabric } ∧ mgetD t.fabric.steps ten 0 = act)) ∧
  (∀ (s : State) (core qtr code ten : Nat), qtr < 4 → ∃ t, exec (.managerRequest core qtr code ten) s = .next t ∧
    ∃ x, (x ∈ (t.quarter core qtr).ring ∨ x ∈ (t.quarter core qtr).waitRec) ∧ x.cause = 0x1e ∧ x.info = BitVec.ofNat 64 code ∧
      x.who = BitVec.ofNat 64 (ten % 65536 * 2 ^ 48 + 1)) ∧
  (∀ (s : State) (core : Nat) (n : Notice), s.notices = [n] → n.core = core →
    (s.gridsOn core = [] → ∃ t, exec (.haltNotice core) s = .next t ∧ t.notices = [] ∧ t.mem = s.mem ∧
      (s.nextSpare core = none → (t.core core).inService = false ∧ t.groups = s.groups) ∧
      (∀ k, s.nextSpare core = some k → (t.core core).spare = some k ∧ (t.core core).halted = false ∧ (t.core core).teams = [] ∧
        (t.core core).part = (s.core core).part ∧ t.host.spares = s.host.spares - 1 ∧ (∀ a, cget (t.core core).spad a = 0) ∧
        ∀ q, q < 4 → t.group? ⟨core, q, 63⟩ = none)) ∧
    (∃ t, exec (.haltNotice core) s = .next t ∧ ∀ g ∈ s.gridsOn core, (t.part? g.1).bind (·.grid? g.2) = none)) ∧
  (∀ (s : State) (core spare : Nat), (s.core core).halted = false →
    (s.nextSpare core = none → (s.core core).part = none → ∃ t, exec (.coreRepair core spare) s = .next t ∧ (t.core core).inService = false) ∧
    (∀ n p, s.nextSpare core = none → (s.core core).part = some n → s.part? n = some p → p.cores.contains core = true →
      ∃ t, exec (.coreRepair core spare) s = .next t ∧ (t.core core).inService = false) ∧
    (s.nextSpare core = some spare → (s.core core).teams = [] → ∃ t, exec (.coreRepair core spare) s = .next t ∧ t.mem = s.mem ∧ t.groups = s.groups ∧
      t.core core = { s.core core with spare := some spare, l1 := [] } ∧ t.host.spares = s.host.spares - 1) ∧
    (∀ k tm, s.nextSpare core = some spare → (s.core core).teams = [(k, tm)] → ∀ tn, s.tenant? tm.ten = some tn →
      (tn.frozen = false → tn.freezing = false → ∃ t u, exec (.coreRepair core spare) s = .next t ∧ t.tenant? tm.ten = some u ∧
        u.freezing = true ∧ u.reach = s.cores.map (·.1) ∧ t.groups = s.groups ∧ t.cores = s.cores) ∧
      (tn.frozen = true → ∀ s1 v, (s.moveToSpare core spare).thawIp tm.ten = (s1, v) → exec (.coreRepair core spare) s = .next s1))) ∧
  (∀ s, exec .voltageReplan s = .next s) ∧
  (∀ (s : State) (pid ndev didx : Nat) (cores : List Nat), (∀ p ∈ s.parts, p.1 ≠ pid → ∀ c ∈ cores, c ∉ p.2.cores) → 
    ∃ t p, exec (.partitionCreate pid ndev didx cores) s = .next t ∧ t.part? pid = some p ∧ p.ndev = ndev ∧ p.didx = didx ∧ p.cores = cores ∧
      p.grids = [] ∧ (∀ n, mgetD p.tokens n 0 = 0) ∧ p.next = 1 ∧ t.mem = s.mem ∧ t.groups = s.groups ∧
      (∀ c ∈ cores, (t.core c).part = some pid ∧ (t.core c).inService = !(s.core c).halted) ∧ ∀ c, c ∉ cores → t.core c = s.core c)

/-! ### The host -/

/-- HOST_READ, HOST_WRITE and HOST_ATOMICOP (R407 to R413): a translatable request is performed whole, a read answered with its bytes, a
write's bytes in their places with each page marked, an AtomicOp queued at its home engine; an untranslatable one is recorded in the
host tenant's fault queue, and a read or AtomicOp is answered poisoned. The window's lower half reads and writes as GEN, its upper half
reads as DAP and takes no writes, and past it nothing is mapped. -/
def Obligations.HostAccesses : Prop :=
  ∀ (s : State), s.host.linkUp = true → 0 < s.host.step → s.host.waiting = [] → s.hostAtomOut = false →
    (∀ off len s1 ls, len ≤ 4096 → s.hostPlaces 1 (rangePieces off len) = (s1, .ok ls) →
      ∃ t, exec (.hostRead off len) s = .next t ∧ t.mem = s1.mem ∧
        t.host.out = s1.host.out ++ [.completion off false ((ls.map fun x => s1.readLoc x.loc x.n).flatten)]) ∧
    (∀ off len l, off < 2 * aperture → len ≤ 16 → rangePieces off len = [(off, len)] → s.host.tcache = [] →
      walk s.mem s.host.root (off % aperture) = .ok l → leafFault l.e (if off < aperture then .load else .dap) true = none →
      s.locked hostTen (off % aperture / 65536) = false →
      ∃ t, exec (.hostRead off len) s = .next t ∧ t.mem = s.mem ∧
        t.host.out = s.host.out ++ [.completion off false (s.readLoc (l.loc (off % aperture)) len)]) ∧
    (∀ off len s1 a n, len ≤ 4096 → s.hostPlaces 1 (rangePieces off len) = (s1, .error (a, none, n)) → s1.host.queue.length < 256 →
      ∃ t x, exec (.hostRead off len) s = .next t ∧ t.mem = s1.mem ∧ t.host.queue = s1.host.queue ++ [x] ∧ x.kind = 1 ∧ x.sub = n ∧ x.len = len ∧
        x.off = BitVec.ofNat 64 a ∧ t.host.out = s1.host.out ++ [.completion off true (List.replicate len 0xff)]) ∧
    (∀ off data s1 ls, data.length ≤ 512 → s.hostPlaces 2 (rangePieces off data.length) = (s1, .ok ls) →
      exec (.hostWrite off data) s = .next (putPieces s1 ls data)) ∧
    (∀ off data, aperture ≤ off → 0 < data.length → data.length ≤ 512 → s.host.queue.length < 256 →
      ∃ t x, exec (.hostWrite off data) s = .next t ∧ t.mem = s.mem ∧ t.host.queue = s.host.queue ++ [x] ∧ x.kind = 2 ∧
        x.sub = (if off < 2 * aperture then 4 else 6) ∧ x.off = BitVec.ofNat 64 off ∧ t.host.out = s.host.out) ∧
    (∀ off size op uns value cmp s1 k va n r, s.hostPlaces 3 (rangePieces off size) = (s1, .ok (⟨.phys k, va, n⟩ :: r)) →
      ∃ t q, exec (.hostAtomicop off size op uns value cmp) s = .next t ∧ t.mem = s1.mem ∧
        mgetD t.clasp.reqs (homeEngine k) [] = mgetD s1.clasp.reqs (homeEngine k) [] ++ [q] ∧ q.loc = k ∧ q.op = op ∧ q.uns = uns ∧
        q.req.data = value ∧ q.req.cmp = cmp ∧ q.wide = (size == 8))

/-- The control page (R109 to R111, R414, R421, R422, R426): CAPLO and the nonce take what is written; CAPHI submits, and
the submission ends as R111 says, with RESET after a compute reset; the oldest host fault goes to the error log with
MSI-X 1; signing starts when a signature is left, and puts the report and its signature in place. The partition that
the window serves and the report's count are the model's choice (log entries 26, 34). -/
def Obligations.ControlPage : Prop :=
  ∀ (s : State), s.host.bells.length = 8 → s.host.nonce.length = 32 →
    (∀ n, n < 8 → (s.host.bells.getD n Doorbell.reset).busy = false → ∀ v : DWord, ∃ t,
      exec (.hostRegisterWrite (0x100 + 32 * n) (leBytes 8 v.toNat)) s = .next t ∧ (t.host.bells.getD n Doorbell.reset).caplo = v ∧
        t = { s with host := t.host } ∧ t.host = { s.host with bells := t.host.bells } ∧
        ∀ m, m ≠ n → t.host.bells.getD m Doorbell.reset = s.host.bells.getD m Doorbell.reset) ∧
    (∀ data : List Byte, data.length = 32 → ∃ t, exec (.hostRegisterWrite 0x2000 data) s = .next t ∧ t.host = { s.host with nonce := data }) ∧
    (∀ n v, n < 8 → (s.host.bells.getD n Doorbell.reset).busy = false → ∃ t b, exec (.caphi n v) s = .next t ∧
      t.host.bells.getD n Doorbell.reset = b ∧ b = { s.host.bells.getD n Doorbell.reset with caphi := v, busy := true, cut := b.cut } ∧
      b.cut = s.resetting ∧ t.mem = s.mem) ∧
    (∀ n, (s.host.bells.getD n Doorbell.reset).busy = true →
      let b := s.host.bells.getD n Doorbell.reset
      let ends (t : State) (code handle : Nat) : Prop := t.host.bells.getD n Doorbell.reset =
        { b with busy := false, status := BitVec.ofNat 8 code, handle := BitVec.ofNat 32 handle, cut := false }
      (b.cut = true → ∃ t, exec (.hostLaunchOutcome n) s = .next t ∧ ends t 8 0) ∧
      (∀ pid p rest, b.cut = false → s.parts = (pid, p) :: rest →
        let raw := capOfWords b.caplo b.caphi false
        let cap := { raw with tag := hostTag p.root raw }
        (cap.check 1 1 0x100 0 ≠ 0 → ∃ t, exec (.hostLaunchOutcome n) s = .next t ∧ ends t 7 0) ∧
        (cap.check 1 1 0x100 0 = 0 → baseOk cap = false → ∃ t, exec (.hostLaunchOutcome n) s = .next t ∧ ends t 2 0) ∧
        (∀ s1 x s2 code handle, cap.check 1 1 0x100 0 = 0 → baseOk cap = true →
          s.readLaunch (.window p.winTen) cap (fun c _ => hostTag p.root c) = (s1, .ok x) → s1.accept pid p.winTen x none = (s2, code, handle) →
          s2.host = s.host → ∃ t, exec (.hostLaunchOutcome n) s = .next t ∧ ends t code handle ∧ t.parts = s2.parts ∧ t.mem = s2.mem) ∧
        (∀ s1 k a, cap.check 1 1 0x100 0 = 0 → baseOk cap = true →
          s.readLaunch (.window p.winTen) cap (fun c _ => hostTag p.root c) = (s1, .fault k a) → s1.host = s.host →
          ∃ t, exec (.hostLaunchOutcome n) s = .next t ∧ ends t 9 0))) ∧
    (∀ r rs, s.host.queue = r :: rs → s.host.helog ≤ s.host.errlog.length → ∃ t, exec .hostFaultService s = .next t ∧ t.host.queue = rs ∧
      t.host.errlog[s.host.helog]? = some r ∧ t.host.helog = (s.host.helog + 1) % 64 ∧ t.host.out = s.host.out ++ [.msix 1] ∧ t.mem = s.mem) ∧
    (s.host.attBusy = false → 0 < s.host.sigsLeft → ∃ t, exec .attestationSign s = .next t ∧ t.host = { s.host with attBusy := true }) ∧
    (s.host.attBusy = true → ∃ t, exec .attestationReportSigned s = .next t ∧ t.host.attBusy = false ∧ t.host.attStat = 0 ∧
      t.host.sigsLeft = s.host.sigsLeft - 1 ∧ t.host.report.length = 128 ∧ t.host.sig.length = 5076 ∧
      (t.host.report.drop 48).take 32 = s.host.nonce)

/-- Host process addresses (R416): a Translation Request's completion is cached or asks for the page; the answer to a Page
Request clears it, and a refusal is kept for the accesses that it denies; an invalidation removes the translation and
is completed. What an invalidation serves at once is the model's reading (log entry 79). -/
def Obligations.HostTranslations : Prop :=
  ∀ (s : State) (pasid : Nat) (va : BitVec 64), let page := va.toNat / 4096 % 2 ^ 43
    (s.host.out = [.ats pasid (BitVec.ofNat 64 (page * 4096))] → ∃ t, exec (.atsTranslationCompletion pasid va .none) s = .next t ∧
      t = { s with host := t.host } ∧ t.host = askedPage s.host pasid page) ∧
    (∀ pa w x, s.host.out = [.ats pasid (BitVec.ofNat 64 (page * 4096))] → s.host.ats.length < 4096 → s.tenantGroups = [] →
      (∀ k ∈ s.cores, k.2.log = []) → ∃ t, exec (.atsTranslationCompletion pasid va (.addr pa w x)) s = .next t ∧
        t.host.ats = s.host.ats.filter (fun y => !(y.1 == pasid && y.2.1 == page)) ++ [(pasid, page, BitVec.ofNat 64 (pa.toNat / 4096 * 4096), w, x)] ∧
        t.mem = s.mem) ∧
    (s.tenantGroups = [] → (∀ k ∈ s.cores, k.2.log = []) → (∃ w, (pasid, page, w) ∈ s.host.prs) → ∀ code,
      ∃ t, exec (.pageRequestResponse pasid va code) s = .next t ∧
        t.host.prs = s.host.prs.filter (fun p => !(p.1 == pasid && p.2.1 == page)) ∧
        (code ≠ .success → t.host.denied = s.host.denied ++
          [(pasid, page, if s.host.ats.any (fun x => x.1 == pasid && x.2.1 == page) then 4 else 1)]) ∧
        (code = .success → t.host.denied = s.host.denied)) ∧
    ((∀ k ∈ s.cores, k.2.pub = []) → s.clasp.reqs = [] → ∃ t, exec (.atsInvalidateRequest pasid va) s = .next t ∧
      t.host.ats = s.host.ats.filter (fun x => !(x.1 == pasid && x.2.1 == page)) ∧ t.host.out = s.host.out ++ [.invalidated pasid va] ∧
      t.mem = s.mem ∧ t.groups = s.groups)

/-- The resets and bring-up (R357, R417 to R422, R425): State.reset is zeroed memory, nothing resident, FRZTO 8,000,
SFAULT 0, and bring-up at STEP 0; a compute reset clears the compute side, sets CRSTP, and leaves memory; CRST starts
one where it is enabled; the full reset zeroes near memory and keeps capacity memory; POWER_GOOD starts bring-up,
whose steps end in READY. The registers without a stated reset value are 0 and each route leads to itself by the
model's choice, and what else the resets keep is its reading (log entries 1, 2, 3, 31, 78). -/
def Obligations.Resets : Prop :=
  ((∀ a, cget State.reset.mem a = 0) ∧ (∀ c a, cget (State.reset.core c).spad a = 0) ∧ (∀ r, State.reset.group? r = none) ∧
    (∀ c q, (State.reset.quarter c q).frzto = 8000 ∧ (State.reset.quarter c q).sfault = 0) ∧
    State.reset.host.step = 0 ∧ State.reset.host.rsvc = true ∧ State.reset.host.ready = false ∧ State.reset.host.crstp = false ∧
    State.reset.host.sigok = false ∧ State.reset.host.crsten = false ∧ Between State.reset ∧ MemoriesWf State.reset ∧ PlacesRise State.reset) ∧
  (∀ (s : State) (i : Instr), i = .computeReset ∨ i = .crst ∧ s.host.crsten = true → s.resetting = false →
    ∃ t, exec i s = .next t ∧ t.groups = [] ∧ t.mem = s.mem ∧ t.mtags = s.mtags ∧ t.resetting = true ∧ t.host.crstp = true ∧ t.cycle = 0 ∧
      (∀ k, (t.core k).teams = [] ∧ (t.core k).log = [] ∧ (t.core k).pub = [] ∧ ((t.core k).chans.all fun c => c.st == .idle) = true ∧
        ∀ a, cget (t.core k).spad a = 0) ∧
      (∀ n p, t.part? n = some p → p.grids = [] ∧ p.next = 1 ∧ ∀ k, mgetD p.tokens k 0 = 0) ∧
      (∀ n, (s.host.bells.getD n Doorbell.reset).busy = true → (t.host.bells.getD n Doorbell.reset).cut = true)) ∧
  (∀ (s : State), s.resetting = true → ∃ t, exec .computeResetComplete s = .next t ∧ t.resetting = false ∧ t.host.crstp = false ∧ t.mem = s.mem) ∧
  (∀ (s : State), MemoriesWf s → ∃ t, exec .fullReset s = .next t ∧ t.groups = [] ∧ t.parts = [] ∧ t.tenants = [] ∧ t.host.linkUp = false ∧
    t.host.ready = false ∧ t.host.step = 0 ∧ (∀ a, cget t.mem a = if a < Config.capacityBase then 0 else cget s.mem a) ∧
    ∀ k a, cget (t.core k).spad a = 0) ∧
  (∀ (s : State), ∃ t, exec .powerGood s = .next t ∧ t.groups = [] ∧ t.mem = [] ∧ t.host.step = 0 ∧ t.host.ready = false ∧
    t.host.sigok = Config.firmwareOk) ∧
  (∀ (s : State), (s.host.step = 0 → ∃ t, exec .bringupStepEnd s = .next t ∧ (Config.firmwareOk = false → t = s) ∧
      (Config.firmwareOk = true → t.host.step = 1 ∧ t.host.sigok = true ∧ t.host.ready = s.host.ready)) ∧
    (1 ≤ s.host.step → s.host.step < 4 → ∃ t, exec .bringupStepEnd s = .next t ∧ t.host = { s.host with step := s.host.step + 1 }) ∧
    (s.host.step = 4 → ∃ t, exec .bringupStepEnd s = .next t ∧ t.host = { s.host with step := 5, ready := true, rsvc := false }))
end

