-- ==== Sys2Proof/Laws/Maps.lean ====
section
/-! SUPPORT. Laws of the finite maps and of the register files: a read after a write. -/

namespace Sys2Proof


-- One theorem at a time, so that the package compiles as one text in little memory.
set_option Elab.async false
variable {α : Type}

@[simp] theorem mget_nil (k : Nat) : mget ([] : NMap α) k = none := rfl

theorem mget_mset (m : NMap α) (j k : Nat) (v : α) : mget (mset m j v) k = if k = j then some v else mget m k := by
  induction m with
  | nil => by_cases h : j = k <;> simp [mset, mget, h, eq_comm]
  | cons x r ih =>
    obtain ⟨i, a⟩ := x
    by_cases h1 : j < i
    · by_cases h2 : j = k
      · subst h2; simp [mset, h1, mget]
      · simp [mset, h1, mget, h2, Ne.symm h2]
    · by_cases h2 : i = j
      · by_cases h3 : j = k
        · subst h2; subst h3; simp [mset, mget]
        · simp [mset, h2, mget, h3, Ne.symm h3]
      · by_cases h3 : i = k
        · subst h3; simp [mset, h1, h2, mget]
        · simp [mset, h1, h2, mget, h3, ih]

@[simp] theorem mget_mset_same (m : NMap α) (k : Nat) (v : α) : mget (mset m k v) k = some v := by simp [mget_mset]

theorem mget_mset_other (m : NMap α) {j k : Nat} (h : k ≠ j) (v : α) : mget (mset m j v) k = mget m k := by
  simp [mget_mset, h]

@[simp] theorem mgetD_mset_same (m : NMap α) (k : Nat) (v d : α) : mgetD (mset m k v) k d = v := by simp [mgetD]

theorem mgetD_mset_other (m : NMap α) {j k : Nat} (h : k ≠ j) (v d : α) : mgetD (mset m j v) k d = mgetD m k d := by
  simp [mgetD, mget_mset, h]

@[simp] theorem mset_mset (m : NMap α) (k : Nat) (v w : α) : mset (mset m k v) k w = mset m k w := by
  induction m with
  | nil => simp [mset]
  | cons x r ih =>
    obtain ⟨i, a⟩ := x
    by_cases h1 : k < i
    · simp [mset, h1]
    · by_cases h2 : i = k
      · simp [mset, h2]
      · simp [mset, h1, h2, ih]

theorem lput_getD (d : α) (l : List α) (n m : Nat) (v : α) :
    (lput d l n v).getD m d = if m = n then v else l.getD m d := by
  induction l generalizing n m with
  | nil =>
    induction n generalizing m with
    | zero => cases m <;> simp [lput]
    | succ n ih => cases m with
      | zero => simp [lput]
      | succ m => simpa [lput] using ih m
  | cons a r ih => cases n <;> cases m <;> simp [lput]
                   simpa using ih _ _

/-- The same in the form that the simplifier gives `getD`. -/
@[simp] theorem lput_read (d : α) (l : List α) (n m : Nat) (v : α) :
    (lput d l n v)[m]?.getD d = if m = n then v else l[m]?.getD d := by
  simpa using lput_getD d l n m v

end Sys2Proof
end

