-- ==== Sys2Proof/Laws/State.lean ====
section
/-! SUPPORT. Laws of the state: each field after each update, so that no proof unfolds a record update. -/

namespace Sys2Proof.Machine

open Sys2Proof

/-! ### The device -/

@[simp] theorem State.setCore_agenda (s : State) (c : Nat) (k : Core) : (s.setCore c k).agenda = s.agenda := rfl
@[simp] theorem State.setCore_issue (s : State) (c : Nat) (k : Core) : (s.setCore c k).issue = s.issue := rfl
@[simp] theorem State.setCore_ilen (s : State) (c : Nat) (k : Core) : (s.setCore c k).ilen = s.ilen := rfl
@[simp] theorem State.setCore_ticket (s : State) (c : Nat) (k : Core) : (s.setCore c k).ticket = s.ticket := rfl
@[simp] theorem State.setCore_turn (s : State) (c : Nat) (k : Core) : (s.setCore c k).turn = s.turn := rfl
@[simp] theorem State.setCore_cycle (s : State) (c : Nat) (k : Core) : (s.setCore c k).cycle = s.cycle := rfl
@[simp] theorem State.setCore_groups (s : State) (c : Nat) (k : Core) : (s.setCore c k).groups = s.groups := rfl
@[simp] theorem State.setCore_mem (s : State) (c : Nat) (k : Core) : (s.setCore c k).mem = s.mem := rfl
@[simp] theorem State.setCore_mtags (s : State) (c : Nat) (k : Core) : (s.setCore c k).mtags = s.mtags := rfl
@[simp] theorem State.setCore_clasp (s : State) (c : Nat) (k : Core) : (s.setCore c k).clasp = s.clasp := rfl
@[simp] theorem State.setCore_l2 (s : State) (c : Nat) (k : Core) : (s.setCore c k).l2 = s.l2 := rfl
@[simp] theorem State.setCore_strand (s : State) (c : Nat) (k : Core) : (s.setCore c k).strand = s.strand := rfl
@[simp] theorem State.setCore_moves (s : State) (c : Nat) (k : Core) : (s.setCore c k).moves = s.moves := rfl
@[simp] theorem State.setCore_tenants (s : State) (c : Nat) (k : Core) : (s.setCore c k).tenants = s.tenants := rfl
@[simp] theorem State.setCore_parts (s : State) (c : Nat) (k : Core) : (s.setCore c k).parts = s.parts := rfl
@[simp] theorem State.setCore_written (s : State) (c : Nat) (k : Core) : (s.setCore c k).written = s.written := rfl
@[simp] theorem State.setCore_frames (s : State) (c : Nat) (k : Core) : (s.setCore c k).frames = s.frames := rfl
@[simp] theorem State.setCore_reserve (s : State) (c : Nat) (k : Core) : (s.setCore c k).reserve = s.reserve := rfl
@[simp] theorem State.setCore_host (s : State) (c : Nat) (k : Core) : (s.setCore c k).host = s.host := rfl
@[simp] theorem State.setCore_fabric (s : State) (c : Nat) (k : Core) : (s.setCore c k).fabric = s.fabric := rfl
@[simp] theorem State.setCore_notices (s : State) (c : Nat) (k : Core) : (s.setCore c k).notices = s.notices := rfl
@[simp] theorem State.setCore_spadOld (s : State) (c : Nat) (k : Core) : (s.setCore c k).spadOld = s.spadOld := rfl
@[simp] theorem State.setCore_memOld (s : State) (c : Nat) (k : Core) : (s.setCore c k).memOld = s.memOld := rfl
@[simp] theorem State.setCore_opens (s : State) (c : Nat) (k : Core) : (s.setCore c k).opens = s.opens := rfl
@[simp] theorem State.setCore_resetting (s : State) (c : Nat) (k : Core) : (s.setCore c k).resetting = s.resetting := rfl

@[simp] theorem State.modCore_agenda (s : State) (c : Nat) (f : Core → Core) : (s.modCore c f).agenda = s.agenda := rfl
@[simp] theorem State.modCore_issue (s : State) (c : Nat) (f : Core → Core) : (s.modCore c f).issue = s.issue := rfl
@[simp] theorem State.modCore_ilen (s : State) (c : Nat) (f : Core → Core) : (s.modCore c f).ilen = s.ilen := rfl
@[simp] theorem State.modCore_ticket (s : State) (c : Nat) (f : Core → Core) : (s.modCore c f).ticket = s.ticket := rfl
@[simp] theorem State.modCore_turn (s : State) (c : Nat) (f : Core → Core) : (s.modCore c f).turn = s.turn := rfl
@[simp] theorem State.modCore_cycle (s : State) (c : Nat) (f : Core → Core) : (s.modCore c f).cycle = s.cycle := rfl
@[simp] theorem State.modCore_groups (s : State) (c : Nat) (f : Core → Core) : (s.modCore c f).groups = s.groups := rfl
@[simp] theorem State.modCore_mem (s : State) (c : Nat) (f : Core → Core) : (s.modCore c f).mem = s.mem := rfl
@[simp] theorem State.modCore_mtags (s : State) (c : Nat) (f : Core → Core) : (s.modCore c f).mtags = s.mtags := rfl
@[simp] theorem State.modCore_clasp (s : State) (c : Nat) (f : Core → Core) : (s.modCore c f).clasp = s.clasp := rfl
@[simp] theorem State.modCore_l2 (s : State) (c : Nat) (f : Core → Core) : (s.modCore c f).l2 = s.l2 := rfl
@[simp] theorem State.modCore_strand (s : State) (c : Nat) (f : Core → Core) : (s.modCore c f).strand = s.strand := rfl
@[simp] theorem State.modCore_moves (s : State) (c : Nat) (f : Core → Core) : (s.modCore c f).moves = s.moves := rfl
@[simp] theorem State.modCore_tenants (s : State) (c : Nat) (f : Core → Core) : (s.modCore c f).tenants = s.tenants := rfl
@[simp] theorem State.modCore_parts (s : State) (c : Nat) (f : Core → Core) : (s.modCore c f).parts = s.parts := rfl
@[simp] theorem State.modCore_written (s : State) (c : Nat) (f : Core → Core) : (s.modCore c f).written = s.written := rfl
@[simp] theorem State.modCore_frames (s : State) (c : Nat) (f : Core → Core) : (s.modCore c f).frames = s.frames := rfl
@[simp] theorem State.modCore_reserve (s : State) (c : Nat) (f : Core → Core) : (s.modCore c f).reserve = s.reserve := rfl
@[simp] theorem State.modCore_host (s : State) (c : Nat) (f : Core → Core) : (s.modCore c f).host = s.host := rfl
@[simp] theorem State.modCore_fabric (s : State) (c : Nat) (f : Core → Core) : (s.modCore c f).fabric = s.fabric := rfl
@[simp] theorem State.modCore_notices (s : State) (c : Nat) (f : Core → Core) : (s.modCore c f).notices = s.notices := rfl
@[simp] theorem State.modCore_spadOld (s : State) (c : Nat) (f : Core → Core) : (s.modCore c f).spadOld = s.spadOld := rfl
@[simp] theorem State.modCore_memOld (s : State) (c : Nat) (f : Core → Core) : (s.modCore c f).memOld = s.memOld := rfl
@[simp] theorem State.modCore_opens (s : State) (c : Nat) (f : Core → Core) : (s.modCore c f).opens = s.opens := rfl
@[simp] theorem State.modCore_resetting (s : State) (c : Nat) (f : Core → Core) : (s.modCore c f).resetting = s.resetting := rfl

@[simp] theorem State.modQuarter_agenda (s : State) (c q : Nat) (f : Quarter → Quarter) : (s.modQuarter c q f).agenda = s.agenda := rfl
@[simp] theorem State.modQuarter_issue (s : State) (c q : Nat) (f : Quarter → Quarter) : (s.modQuarter c q f).issue = s.issue := rfl
@[simp] theorem State.modQuarter_ilen (s : State) (c q : Nat) (f : Quarter → Quarter) : (s.modQuarter c q f).ilen = s.ilen := rfl
@[simp] theorem State.modQuarter_ticket (s : State) (c q : Nat) (f : Quarter → Quarter) : (s.modQuarter c q f).ticket = s.ticket := rfl
@[simp] theorem State.modQuarter_turn (s : State) (c q : Nat) (f : Quarter → Quarter) : (s.modQuarter c q f).turn = s.turn := rfl
@[simp] theorem State.modQuarter_cycle (s : State) (c q : Nat) (f : Quarter → Quarter) : (s.modQuarter c q f).cycle = s.cycle := rfl
@[simp] theorem State.modQuarter_groups (s : State) (c q : Nat) (f : Quarter → Quarter) : (s.modQuarter c q f).groups = s.groups := rfl
@[simp] theorem State.modQuarter_mem (s : State) (c q : Nat) (f : Quarter → Quarter) : (s.modQuarter c q f).mem = s.mem := rfl
@[simp] theorem State.modQuarter_mtags (s : State) (c q : Nat) (f : Quarter → Quarter) : (s.modQuarter c q f).mtags = s.mtags := rfl
@[simp] theorem State.modQuarter_clasp (s : State) (c q : Nat) (f : Quarter → Quarter) : (s.modQuarter c q f).clasp = s.clasp := rfl
@[simp] theorem State.modQuarter_l2 (s : State) (c q : Nat) (f : Quarter → Quarter) : (s.modQuarter c q f).l2 = s.l2 := rfl
@[simp] theorem State.modQuarter_strand (s : State) (c q : Nat) (f : Quarter → Quarter) : (s.modQuarter c q f).strand = s.strand := rfl
@[simp] theorem State.modQuarter_moves (s : State) (c q : Nat) (f : Quarter → Quarter) : (s.modQuarter c q f).moves = s.moves := rfl
@[simp] theorem State.modQuarter_tenants (s : State) (c q : Nat) (f : Quarter → Quarter) : (s.modQuarter c q f).tenants = s.tenants := rfl
@[simp] theorem State.modQuarter_parts (s : State) (c q : Nat) (f : Quarter → Quarter) : (s.modQuarter c q f).parts = s.parts := rfl
@[simp] theorem State.modQuarter_written (s : State) (c q : Nat) (f : Quarter → Quarter) : (s.modQuarter c q f).written = s.written := rfl
@[simp] theorem State.modQuarter_frames (s : State) (c q : Nat) (f : Quarter → Quarter) : (s.modQuarter c q f).frames = s.frames := rfl
@[simp] theorem State.modQuarter_reserve (s : State) (c q : Nat) (f : Quarter → Quarter) : (s.modQuarter c q f).reserve = s.reserve := rfl
@[simp] theorem State.modQuarter_host (s : State) (c q : Nat) (f : Quarter → Quarter) : (s.modQuarter c q f).host = s.host := rfl
@[simp] theorem State.modQuarter_fabric (s : State) (c q : Nat) (f : Quarter → Quarter) : (s.modQuarter c q f).fabric = s.fabric := rfl
@[simp] theorem State.modQuarter_notices (s : State) (c q : Nat) (f : Quarter → Quarter) : (s.modQuarter c q f).notices = s.notices := rfl
@[simp] theorem State.modQuarter_spadOld (s : State) (c q : Nat) (f : Quarter → Quarter) : (s.modQuarter c q f).spadOld = s.spadOld := rfl
@[simp] theorem State.modQuarter_memOld (s : State) (c q : Nat) (f : Quarter → Quarter) : (s.modQuarter c q f).memOld = s.memOld := rfl
@[simp] theorem State.modQuarter_opens (s : State) (c q : Nat) (f : Quarter → Quarter) : (s.modQuarter c q f).opens = s.opens := rfl
@[simp] theorem State.modQuarter_resetting (s : State) (c q : Nat) (f : Quarter → Quarter) : (s.modQuarter c q f).resetting = s.resetting := rfl

@[simp] theorem State.modTeam_agenda (s : State) (c t : Nat) (f : Team → Team) : (s.modTeam c t f).agenda = s.agenda := rfl
@[simp] theorem State.modTeam_issue (s : State) (c t : Nat) (f : Team → Team) : (s.modTeam c t f).issue = s.issue := rfl
@[simp] theorem State.modTeam_ilen (s : State) (c t : Nat) (f : Team → Team) : (s.modTeam c t f).ilen = s.ilen := rfl
@[simp] theorem State.modTeam_ticket (s : State) (c t : Nat) (f : Team → Team) : (s.modTeam c t f).ticket = s.ticket := rfl
@[simp] theorem State.modTeam_turn (s : State) (c t : Nat) (f : Team → Team) : (s.modTeam c t f).turn = s.turn := rfl
@[simp] theorem State.modTeam_cycle (s : State) (c t : Nat) (f : Team → Team) : (s.modTeam c t f).cycle = s.cycle := rfl
@[simp] theorem State.modTeam_groups (s : State) (c t : Nat) (f : Team → Team) : (s.modTeam c t f).groups = s.groups := rfl
@[simp] theorem State.modTeam_mem (s : State) (c t : Nat) (f : Team → Team) : (s.modTeam c t f).mem = s.mem := rfl
@[simp] theorem State.modTeam_mtags (s : State) (c t : Nat) (f : Team → Team) : (s.modTeam c t f).mtags = s.mtags := rfl
@[simp] theorem State.modTeam_clasp (s : State) (c t : Nat) (f : Team → Team) : (s.modTeam c t f).clasp = s.clasp := rfl
@[simp] theorem State.modTeam_l2 (s : State) (c t : Nat) (f : Team → Team) : (s.modTeam c t f).l2 = s.l2 := rfl
@[simp] theorem State.modTeam_strand (s : State) (c t : Nat) (f : Team → Team) : (s.modTeam c t f).strand = s.strand := rfl
@[simp] theorem State.modTeam_moves (s : State) (c t : Nat) (f : Team → Team) : (s.modTeam c t f).moves = s.moves := rfl
@[simp] theorem State.modTeam_tenants (s : State) (c t : Nat) (f : Team → Team) : (s.modTeam c t f).tenants = s.tenants := rfl
@[simp] theorem State.modTeam_parts (s : State) (c t : Nat) (f : Team → Team) : (s.modTeam c t f).parts = s.parts := rfl
@[simp] theorem State.modTeam_written (s : State) (c t : Nat) (f : Team → Team) : (s.modTeam c t f).written = s.written := rfl
@[simp] theorem State.modTeam_frames (s : State) (c t : Nat) (f : Team → Team) : (s.modTeam c t f).frames = s.frames := rfl
@[simp] theorem State.modTeam_reserve (s : State) (c t : Nat) (f : Team → Team) : (s.modTeam c t f).reserve = s.reserve := rfl
@[simp] theorem State.modTeam_host (s : State) (c t : Nat) (f : Team → Team) : (s.modTeam c t f).host = s.host := rfl
@[simp] theorem State.modTeam_fabric (s : State) (c t : Nat) (f : Team → Team) : (s.modTeam c t f).fabric = s.fabric := rfl
@[simp] theorem State.modTeam_notices (s : State) (c t : Nat) (f : Team → Team) : (s.modTeam c t f).notices = s.notices := rfl
@[simp] theorem State.modTeam_spadOld (s : State) (c t : Nat) (f : Team → Team) : (s.modTeam c t f).spadOld = s.spadOld := rfl
@[simp] theorem State.modTeam_memOld (s : State) (c t : Nat) (f : Team → Team) : (s.modTeam c t f).memOld = s.memOld := rfl
@[simp] theorem State.modTeam_opens (s : State) (c t : Nat) (f : Team → Team) : (s.modTeam c t f).opens = s.opens := rfl
@[simp] theorem State.modTeam_resetting (s : State) (c t : Nat) (f : Team → Team) : (s.modTeam c t f).resetting = s.resetting := rfl

@[simp] theorem State.setGroup_agenda (s : State) (r : GRef) (g : Group) : (s.setGroup r g).agenda = s.agenda := rfl
@[simp] theorem State.setGroup_issue (s : State) (r : GRef) (g : Group) : (s.setGroup r g).issue = s.issue := rfl
@[simp] theorem State.setGroup_ilen (s : State) (r : GRef) (g : Group) : (s.setGroup r g).ilen = s.ilen := rfl
@[simp] theorem State.setGroup_ticket (s : State) (r : GRef) (g : Group) : (s.setGroup r g).ticket = s.ticket := rfl
@[simp] theorem State.setGroup_turn (s : State) (r : GRef) (g : Group) : (s.setGroup r g).turn = s.turn := rfl
@[simp] theorem State.setGroup_cycle (s : State) (r : GRef) (g : Group) : (s.setGroup r g).cycle = s.cycle := rfl
@[simp] theorem State.setGroup_cores (s : State) (r : GRef) (g : Group) : (s.setGroup r g).cores = s.cores := rfl
@[simp] theorem State.setGroup_mem (s : State) (r : GRef) (g : Group) : (s.setGroup r g).mem = s.mem := rfl
@[simp] theorem State.setGroup_mtags (s : State) (r : GRef) (g : Group) : (s.setGroup r g).mtags = s.mtags := rfl
@[simp] theorem State.setGroup_clasp (s : State) (r : GRef) (g : Group) : (s.setGroup r g).clasp = s.clasp := rfl
@[simp] theorem State.setGroup_l2 (s : State) (r : GRef) (g : Group) : (s.setGroup r g).l2 = s.l2 := rfl
@[simp] theorem State.setGroup_strand (s : State) (r : GRef) (g : Group) : (s.setGroup r g).strand = s.strand := rfl
@[simp] theorem State.setGroup_moves (s : State) (r : GRef) (g : Group) : (s.setGroup r g).moves = s.moves := rfl
@[simp] theorem State.setGroup_tenants (s : State) (r : GRef) (g : Group) : (s.setGroup r g).tenants = s.tenants := rfl
@[simp] theorem State.setGroup_parts (s : State) (r : GRef) (g : Group) : (s.setGroup r g).parts = s.parts := rfl
@[simp] theorem State.setGroup_written (s : State) (r : GRef) (g : Group) : (s.setGroup r g).written = s.written := rfl
@[simp] theorem State.setGroup_frames (s : State) (r : GRef) (g : Group) : (s.setGroup r g).frames = s.frames := rfl
@[simp] theorem State.setGroup_reserve (s : State) (r : GRef) (g : Group) : (s.setGroup r g).reserve = s.reserve := rfl
@[simp] theorem State.setGroup_host (s : State) (r : GRef) (g : Group) : (s.setGroup r g).host = s.host := rfl
@[simp] theorem State.setGroup_fabric (s : State) (r : GRef) (g : Group) : (s.setGroup r g).fabric = s.fabric := rfl
@[simp] theorem State.setGroup_notices (s : State) (r : GRef) (g : Group) : (s.setGroup r g).notices = s.notices := rfl
@[simp] theorem State.setGroup_spadOld (s : State) (r : GRef) (g : Group) : (s.setGroup r g).spadOld = s.spadOld := rfl
@[simp] theorem State.setGroup_memOld (s : State) (r : GRef) (g : Group) : (s.setGroup r g).memOld = s.memOld := rfl
@[simp] theorem State.setGroup_opens (s : State) (r : GRef) (g : Group) : (s.setGroup r g).opens = s.opens := rfl
@[simp] theorem State.setGroup_resetting (s : State) (r : GRef) (g : Group) : (s.setGroup r g).resetting = s.resetting := rfl

@[simp] theorem State.delGroup_agenda (s : State) (r : GRef) : (s.delGroup r).agenda = s.agenda := rfl
@[simp] theorem State.delGroup_issue (s : State) (r : GRef) : (s.delGroup r).issue = s.issue := rfl
@[simp] theorem State.delGroup_ilen (s : State) (r : GRef) : (s.delGroup r).ilen = s.ilen := rfl
@[simp] theorem State.delGroup_ticket (s : State) (r : GRef) : (s.delGroup r).ticket = s.ticket := rfl
@[simp] theorem State.delGroup_turn (s : State) (r : GRef) : (s.delGroup r).turn = s.turn := rfl
@[simp] theorem State.delGroup_cycle (s : State) (r : GRef) : (s.delGroup r).cycle = s.cycle := rfl
@[simp] theorem State.delGroup_cores (s : State) (r : GRef) : (s.delGroup r).cores = s.cores := rfl
@[simp] theorem State.delGroup_mem (s : State) (r : GRef) : (s.delGroup r).mem = s.mem := rfl
@[simp] theorem State.delGroup_mtags (s : State) (r : GRef) : (s.delGroup r).mtags = s.mtags := rfl
@[simp] theorem State.delGroup_clasp (s : State) (r : GRef) : (s.delGroup r).clasp = s.clasp := rfl
@[simp] theorem State.delGroup_l2 (s : State) (r : GRef) : (s.delGroup r).l2 = s.l2 := rfl
@[simp] theorem State.delGroup_strand (s : State) (r : GRef) : (s.delGroup r).strand = s.strand := rfl
@[simp] theorem State.delGroup_moves (s : State) (r : GRef) : (s.delGroup r).moves = s.moves := rfl
@[simp] theorem State.delGroup_tenants (s : State) (r : GRef) : (s.delGroup r).tenants = s.tenants := rfl
@[simp] theorem State.delGroup_parts (s : State) (r : GRef) : (s.delGroup r).parts = s.parts := rfl
@[simp] theorem State.delGroup_written (s : State) (r : GRef) : (s.delGroup r).written = s.written := rfl
@[simp] theorem State.delGroup_frames (s : State) (r : GRef) : (s.delGroup r).frames = s.frames := rfl
@[simp] theorem State.delGroup_reserve (s : State) (r : GRef) : (s.delGroup r).reserve = s.reserve := rfl
@[simp] theorem State.delGroup_host (s : State) (r : GRef) : (s.delGroup r).host = s.host := rfl
@[simp] theorem State.delGroup_fabric (s : State) (r : GRef) : (s.delGroup r).fabric = s.fabric := rfl
@[simp] theorem State.delGroup_notices (s : State) (r : GRef) : (s.delGroup r).notices = s.notices := rfl
@[simp] theorem State.delGroup_spadOld (s : State) (r : GRef) : (s.delGroup r).spadOld = s.spadOld := rfl
@[simp] theorem State.delGroup_memOld (s : State) (r : GRef) : (s.delGroup r).memOld = s.memOld := rfl
@[simp] theorem State.delGroup_opens (s : State) (r : GRef) : (s.delGroup r).opens = s.opens := rfl
@[simp] theorem State.delGroup_resetting (s : State) (r : GRef) : (s.delGroup r).resetting = s.resetting := rfl

@[simp] theorem State.modGroup_agenda (s : State) (r : GRef) (f : Group → Group) : (s.modGroup r f).agenda = s.agenda := by unfold State.modGroup; split <;> rfl
@[simp] theorem State.modGroup_issue (s : State) (r : GRef) (f : Group → Group) : (s.modGroup r f).issue = s.issue := by unfold State.modGroup; split <;> rfl
@[simp] theorem State.modGroup_ilen (s : State) (r : GRef) (f : Group → Group) : (s.modGroup r f).ilen = s.ilen := by unfold State.modGroup; split <;> rfl
@[simp] theorem State.modGroup_ticket (s : State) (r : GRef) (f : Group → Group) : (s.modGroup r f).ticket = s.ticket := by unfold State.modGroup; split <;> rfl
@[simp] theorem State.modGroup_turn (s : State) (r : GRef) (f : Group → Group) : (s.modGroup r f).turn = s.turn := by unfold State.modGroup; split <;> rfl
@[simp] theorem State.modGroup_cycle (s : State) (r : GRef) (f : Group → Group) : (s.modGroup r f).cycle = s.cycle := by unfold State.modGroup; split <;> rfl
@[simp] theorem State.modGroup_cores (s : State) (r : GRef) (f : Group → Group) : (s.modGroup r f).cores = s.cores := by unfold State.modGroup; split <;> rfl
@[simp] theorem State.modGroup_mem (s : State) (r : GRef) (f : Group → Group) : (s.modGroup r f).mem = s.mem := by unfold State.modGroup; split <;> rfl
@[simp] theorem State.modGroup_mtags (s : State) (r : GRef) (f : Group → Group) : (s.modGroup r f).mtags = s.mtags := by unfold State.modGroup; split <;> rfl
@[simp] theorem State.modGroup_clasp (s : State) (r : GRef) (f : Group → Group) : (s.modGroup r f).clasp = s.clasp := by unfold State.modGroup; split <;> rfl
@[simp] theorem State.modGroup_l2 (s : State) (r : GRef) (f : Group → Group) : (s.modGroup r f).l2 = s.l2 := by unfold State.modGroup; split <;> rfl
@[simp] theorem State.modGroup_strand (s : State) (r : GRef) (f : Group → Group) : (s.modGroup r f).strand = s.strand := by unfold State.modGroup; split <;> rfl
@[simp] theorem State.modGroup_moves (s : State) (r : GRef) (f : Group → Group) : (s.modGroup r f).moves = s.moves := by unfold State.modGroup; split <;> rfl
@[simp] theorem State.modGroup_tenants (s : State) (r : GRef) (f : Group → Group) : (s.modGroup r f).tenants = s.tenants := by unfold State.modGroup; split <;> rfl
@[simp] theorem State.modGroup_parts (s : State) (r : GRef) (f : Group → Group) : (s.modGroup r f).parts = s.parts := by unfold State.modGroup; split <;> rfl
@[simp] theorem State.modGroup_written (s : State) (r : GRef) (f : Group → Group) : (s.modGroup r f).written = s.written := by unfold State.modGroup; split <;> rfl
@[simp] theorem State.modGroup_frames (s : State) (r : GRef) (f : Group → Group) : (s.modGroup r f).frames = s.frames := by unfold State.modGroup; split <;> rfl
@[simp] theorem State.modGroup_reserve (s : State) (r : GRef) (f : Group → Group) : (s.modGroup r f).reserve = s.reserve := by unfold State.modGroup; split <;> rfl
@[simp] theorem State.modGroup_host (s : State) (r : GRef) (f : Group → Group) : (s.modGroup r f).host = s.host := by unfold State.modGroup; split <;> rfl
@[simp] theorem State.modGroup_fabric (s : State) (r : GRef) (f : Group → Group) : (s.modGroup r f).fabric = s.fabric := by unfold State.modGroup; split <;> rfl
@[simp] theorem State.modGroup_notices (s : State) (r : GRef) (f : Group → Group) : (s.modGroup r f).notices = s.notices := by unfold State.modGroup; split <;> rfl
@[simp] theorem State.modGroup_spadOld (s : State) (r : GRef) (f : Group → Group) : (s.modGroup r f).spadOld = s.spadOld := by unfold State.modGroup; split <;> rfl
@[simp] theorem State.modGroup_memOld (s : State) (r : GRef) (f : Group → Group) : (s.modGroup r f).memOld = s.memOld := by unfold State.modGroup; split <;> rfl
@[simp] theorem State.modGroup_opens (s : State) (r : GRef) (f : Group → Group) : (s.modGroup r f).opens = s.opens := by unfold State.modGroup; split <;> rfl
@[simp] theorem State.modGroup_resetting (s : State) (r : GRef) (f : Group → Group) : (s.modGroup r f).resetting = s.resetting := by unfold State.modGroup; split <;> rfl

@[simp] theorem State.modPart_agenda (s : State) (p : Nat) (f : Part → Part) : (s.modPart p f).agenda = s.agenda := by unfold State.modPart; split <;> rfl
@[simp] theorem State.modPart_issue (s : State) (p : Nat) (f : Part → Part) : (s.modPart p f).issue = s.issue := by unfold State.modPart; split <;> rfl
@[simp] theorem State.modPart_ilen (s : State) (p : Nat) (f : Part → Part) : (s.modPart p f).ilen = s.ilen := by unfold State.modPart; split <;> rfl
@[simp] theorem State.modPart_ticket (s : State) (p : Nat) (f : Part → Part) : (s.modPart p f).ticket = s.ticket := by unfold State.modPart; split <;> rfl
@[simp] theorem State.modPart_turn (s : State) (p : Nat) (f : Part → Part) : (s.modPart p f).turn = s.turn := by unfold State.modPart; split <;> rfl
@[simp] theorem State.modPart_cycle (s : State) (p : Nat) (f : Part → Part) : (s.modPart p f).cycle = s.cycle := by unfold State.modPart; split <;> rfl
@[simp] theorem State.modPart_groups (s : State) (p : Nat) (f : Part → Part) : (s.modPart p f).groups = s.groups := by unfold State.modPart; split <;> rfl
@[simp] theorem State.modPart_cores (s : State) (p : Nat) (f : Part → Part) : (s.modPart p f).cores = s.cores := by unfold State.modPart; split <;> rfl
@[simp] theorem State.modPart_mem (s : State) (p : Nat) (f : Part → Part) : (s.modPart p f).mem = s.mem := by unfold State.modPart; split <;> rfl
@[simp] theorem State.modPart_mtags (s : State) (p : Nat) (f : Part → Part) : (s.modPart p f).mtags = s.mtags := by unfold State.modPart; split <;> rfl
@[simp] theorem State.modPart_clasp (s : State) (p : Nat) (f : Part → Part) : (s.modPart p f).clasp = s.clasp := by unfold State.modPart; split <;> rfl
@[simp] theorem State.modPart_l2 (s : State) (p : Nat) (f : Part → Part) : (s.modPart p f).l2 = s.l2 := by unfold State.modPart; split <;> rfl
@[simp] theorem State.modPart_strand (s : State) (p : Nat) (f : Part → Part) : (s.modPart p f).strand = s.strand := by unfold State.modPart; split <;> rfl
@[simp] theorem State.modPart_moves (s : State) (p : Nat) (f : Part → Part) : (s.modPart p f).moves = s.moves := by unfold State.modPart; split <;> rfl
@[simp] theorem State.modPart_tenants (s : State) (p : Nat) (f : Part → Part) : (s.modPart p f).tenants = s.tenants := by unfold State.modPart; split <;> rfl
@[simp] theorem State.modPart_written (s : State) (p : Nat) (f : Part → Part) : (s.modPart p f).written = s.written := by unfold State.modPart; split <;> rfl
@[simp] theorem State.modPart_frames (s : State) (p : Nat) (f : Part → Part) : (s.modPart p f).frames = s.frames := by unfold State.modPart; split <;> rfl
@[simp] theorem State.modPart_reserve (s : State) (p : Nat) (f : Part → Part) : (s.modPart p f).reserve = s.reserve := by unfold State.modPart; split <;> rfl
@[simp] theorem State.modPart_host (s : State) (p : Nat) (f : Part → Part) : (s.modPart p f).host = s.host := by unfold State.modPart; split <;> rfl
@[simp] theorem State.modPart_fabric (s : State) (p : Nat) (f : Part → Part) : (s.modPart p f).fabric = s.fabric := by unfold State.modPart; split <;> rfl
@[simp] theorem State.modPart_notices (s : State) (p : Nat) (f : Part → Part) : (s.modPart p f).notices = s.notices := by unfold State.modPart; split <;> rfl
@[simp] theorem State.modPart_spadOld (s : State) (p : Nat) (f : Part → Part) : (s.modPart p f).spadOld = s.spadOld := by unfold State.modPart; split <;> rfl
@[simp] theorem State.modPart_memOld (s : State) (p : Nat) (f : Part → Part) : (s.modPart p f).memOld = s.memOld := by unfold State.modPart; split <;> rfl
@[simp] theorem State.modPart_opens (s : State) (p : Nat) (f : Part → Part) : (s.modPart p f).opens = s.opens := by unfold State.modPart; split <;> rfl
@[simp] theorem State.modPart_resetting (s : State) (p : Nat) (f : Part → Part) : (s.modPart p f).resetting = s.resetting := by unfold State.modPart; split <;> rfl

@[simp] theorem State.modGrid_agenda (s : State) (p h : Nat) (f : Grid → Grid) : (s.modGrid p h f).agenda = s.agenda := by unfold State.modGrid State.modPart; split <;> rfl
@[simp] theorem State.modGrid_issue (s : State) (p h : Nat) (f : Grid → Grid) : (s.modGrid p h f).issue = s.issue := by unfold State.modGrid State.modPart; split <;> rfl
@[simp] theorem State.modGrid_ilen (s : State) (p h : Nat) (f : Grid → Grid) : (s.modGrid p h f).ilen = s.ilen := by unfold State.modGrid State.modPart; split <;> rfl
@[simp] theorem State.modGrid_ticket (s : State) (p h : Nat) (f : Grid → Grid) : (s.modGrid p h f).ticket = s.ticket := by unfold State.modGrid State.modPart; split <;> rfl
@[simp] theorem State.modGrid_turn (s : State) (p h : Nat) (f : Grid → Grid) : (s.modGrid p h f).turn = s.turn := by unfold State.modGrid State.modPart; split <;> rfl
@[simp] theorem State.modGrid_cycle (s : State) (p h : Nat) (f : Grid → Grid) : (s.modGrid p h f).cycle = s.cycle := by unfold State.modGrid State.modPart; split <;> rfl
@[simp] theorem State.modGrid_groups (s : State) (p h : Nat) (f : Grid → Grid) : (s.modGrid p h f).groups = s.groups := by unfold State.modGrid State.modPart; split <;> rfl
@[simp] theorem State.modGrid_cores (s : State) (p h : Nat) (f : Grid → Grid) : (s.modGrid p h f).cores = s.cores := by unfold State.modGrid State.modPart; split <;> rfl
@[simp] theorem State.modGrid_mem (s : State) (p h : Nat) (f : Grid → Grid) : (s.modGrid p h f).mem = s.mem := by unfold State.modGrid State.modPart; split <;> rfl
@[simp] theorem State.modGrid_mtags (s : State) (p h : Nat) (f : Grid → Grid) : (s.modGrid p h f).mtags = s.mtags := by unfold State.modGrid State.modPart; split <;> rfl
@[simp] theorem State.modGrid_clasp (s : State) (p h : Nat) (f : Grid → Grid) : (s.modGrid p h f).clasp = s.clasp := by unfold State.modGrid State.modPart; split <;> rfl
@[simp] theorem State.modGrid_l2 (s : State) (p h : Nat) (f : Grid → Grid) : (s.modGrid p h f).l2 = s.l2 := by unfold State.modGrid State.modPart; split <;> rfl
@[simp] theorem State.modGrid_strand (s : State) (p h : Nat) (f : Grid → Grid) : (s.modGrid p h f).strand = s.strand := by unfold State.modGrid State.modPart; split <;> rfl
@[simp] theorem State.modGrid_moves (s : State) (p h : Nat) (f : Grid → Grid) : (s.modGrid p h f).moves = s.moves := by unfold State.modGrid State.modPart; split <;> rfl
@[simp] theorem State.modGrid_tenants (s : State) (p h : Nat) (f : Grid → Grid) : (s.modGrid p h f).tenants = s.tenants := by unfold State.modGrid State.modPart; split <;> rfl
@[simp] theorem State.modGrid_written (s : State) (p h : Nat) (f : Grid → Grid) : (s.modGrid p h f).written = s.written := by unfold State.modGrid State.modPart; split <;> rfl
@[simp] theorem State.modGrid_frames (s : State) (p h : Nat) (f : Grid → Grid) : (s.modGrid p h f).frames = s.frames := by unfold State.modGrid State.modPart; split <;> rfl
@[simp] theorem State.modGrid_reserve (s : State) (p h : Nat) (f : Grid → Grid) : (s.modGrid p h f).reserve = s.reserve := by unfold State.modGrid State.modPart; split <;> rfl
@[simp] theorem State.modGrid_host (s : State) (p h : Nat) (f : Grid → Grid) : (s.modGrid p h f).host = s.host := by unfold State.modGrid State.modPart; split <;> rfl
@[simp] theorem State.modGrid_fabric (s : State) (p h : Nat) (f : Grid → Grid) : (s.modGrid p h f).fabric = s.fabric := by unfold State.modGrid State.modPart; split <;> rfl
@[simp] theorem State.modGrid_notices (s : State) (p h : Nat) (f : Grid → Grid) : (s.modGrid p h f).notices = s.notices := by unfold State.modGrid State.modPart; split <;> rfl
@[simp] theorem State.modGrid_spadOld (s : State) (p h : Nat) (f : Grid → Grid) : (s.modGrid p h f).spadOld = s.spadOld := by unfold State.modGrid State.modPart; split <;> rfl
@[simp] theorem State.modGrid_memOld (s : State) (p h : Nat) (f : Grid → Grid) : (s.modGrid p h f).memOld = s.memOld := by unfold State.modGrid State.modPart; split <;> rfl
@[simp] theorem State.modGrid_opens (s : State) (p h : Nat) (f : Grid → Grid) : (s.modGrid p h f).opens = s.opens := by unfold State.modGrid State.modPart; split <;> rfl
@[simp] theorem State.modGrid_resetting (s : State) (p h : Nat) (f : Grid → Grid) : (s.modGrid p h f).resetting = s.resetting := by unfold State.modGrid State.modPart; split <;> rfl

@[simp] theorem State.modTenant_agenda (s : State) (t : Nat) (f : Tenant → Tenant) : (s.modTenant t f).agenda = s.agenda := by unfold State.modTenant; split <;> rfl
@[simp] theorem State.modTenant_issue (s : State) (t : Nat) (f : Tenant → Tenant) : (s.modTenant t f).issue = s.issue := by unfold State.modTenant; split <;> rfl
@[simp] theorem State.modTenant_ilen (s : State) (t : Nat) (f : Tenant → Tenant) : (s.modTenant t f).ilen = s.ilen := by unfold State.modTenant; split <;> rfl
@[simp] theorem State.modTenant_ticket (s : State) (t : Nat) (f : Tenant → Tenant) : (s.modTenant t f).ticket = s.ticket := by unfold State.modTenant; split <;> rfl
@[simp] theorem State.modTenant_turn (s : State) (t : Nat) (f : Tenant → Tenant) : (s.modTenant t f).turn = s.turn := by unfold State.modTenant; split <;> rfl
@[simp] theorem State.modTenant_cycle (s : State) (t : Nat) (f : Tenant → Tenant) : (s.modTenant t f).cycle = s.cycle := by unfold State.modTenant; split <;> rfl
@[simp] theorem State.modTenant_groups (s : State) (t : Nat) (f : Tenant → Tenant) : (s.modTenant t f).groups = s.groups := by unfold State.modTenant; split <;> rfl
@[simp] theorem State.modTenant_cores (s : State) (t : Nat) (f : Tenant → Tenant) : (s.modTenant t f).cores = s.cores := by unfold State.modTenant; split <;> rfl
@[simp] theorem State.modTenant_mem (s : State) (t : Nat) (f : Tenant → Tenant) : (s.modTenant t f).mem = s.mem := by unfold State.modTenant; split <;> rfl
@[simp] theorem State.modTenant_mtags (s : State) (t : Nat) (f : Tenant → Tenant) : (s.modTenant t f).mtags = s.mtags := by unfold State.modTenant; split <;> rfl
@[simp] theorem State.modTenant_clasp (s : State) (t : Nat) (f : Tenant → Tenant) : (s.modTenant t f).clasp = s.clasp := by unfold State.modTenant; split <;> rfl
@[simp] theorem State.modTenant_l2 (s : State) (t : Nat) (f : Tenant → Tenant) : (s.modTenant t f).l2 = s.l2 := by unfold State.modTenant; split <;> rfl
@[simp] theorem State.modTenant_strand (s : State) (t : Nat) (f : Tenant → Tenant) : (s.modTenant t f).strand = s.strand := by unfold State.modTenant; split <;> rfl
@[simp] theorem State.modTenant_moves (s : State) (t : Nat) (f : Tenant → Tenant) : (s.modTenant t f).moves = s.moves := by unfold State.modTenant; split <;> rfl
@[simp] theorem State.modTenant_parts (s : State) (t : Nat) (f : Tenant → Tenant) : (s.modTenant t f).parts = s.parts := by unfold State.modTenant; split <;> rfl
@[simp] theorem State.modTenant_written (s : State) (t : Nat) (f : Tenant → Tenant) : (s.modTenant t f).written = s.written := by unfold State.modTenant; split <;> rfl
@[simp] theorem State.modTenant_frames (s : State) (t : Nat) (f : Tenant → Tenant) : (s.modTenant t f).frames = s.frames := by unfold State.modTenant; split <;> rfl
@[simp] theorem State.modTenant_reserve (s : State) (t : Nat) (f : Tenant → Tenant) : (s.modTenant t f).reserve = s.reserve := by unfold State.modTenant; split <;> rfl
@[simp] theorem State.modTenant_host (s : State) (t : Nat) (f : Tenant → Tenant) : (s.modTenant t f).host = s.host := by unfold State.modTenant; split <;> rfl
@[simp] theorem State.modTenant_fabric (s : State) (t : Nat) (f : Tenant → Tenant) : (s.modTenant t f).fabric = s.fabric := by unfold State.modTenant; split <;> rfl
@[simp] theorem State.modTenant_notices (s : State) (t : Nat) (f : Tenant → Tenant) : (s.modTenant t f).notices = s.notices := by unfold State.modTenant; split <;> rfl
@[simp] theorem State.modTenant_spadOld (s : State) (t : Nat) (f : Tenant → Tenant) : (s.modTenant t f).spadOld = s.spadOld := by unfold State.modTenant; split <;> rfl
@[simp] theorem State.modTenant_memOld (s : State) (t : Nat) (f : Tenant → Tenant) : (s.modTenant t f).memOld = s.memOld := by unfold State.modTenant; split <;> rfl
@[simp] theorem State.modTenant_opens (s : State) (t : Nat) (f : Tenant → Tenant) : (s.modTenant t f).opens = s.opens := by unfold State.modTenant; split <;> rfl
@[simp] theorem State.modTenant_resetting (s : State) (t : Nat) (f : Tenant → Tenant) : (s.modTenant t f).resetting = s.resetting := by unfold State.modTenant; split <;> rfl

@[simp] theorem State.writeMem_agenda (s : State) (a : Nat) (bs : List Byte) (own : Option Own) : (s.writeMem a bs own).agenda = s.agenda := rfl
@[simp] theorem State.writeMem_issue (s : State) (a : Nat) (bs : List Byte) (own : Option Own) : (s.writeMem a bs own).issue = s.issue := rfl
@[simp] theorem State.writeMem_ilen (s : State) (a : Nat) (bs : List Byte) (own : Option Own) : (s.writeMem a bs own).ilen = s.ilen := rfl
@[simp] theorem State.writeMem_ticket (s : State) (a : Nat) (bs : List Byte) (own : Option Own) : (s.writeMem a bs own).ticket = s.ticket := rfl
@[simp] theorem State.writeMem_turn (s : State) (a : Nat) (bs : List Byte) (own : Option Own) : (s.writeMem a bs own).turn = s.turn := rfl
@[simp] theorem State.writeMem_cycle (s : State) (a : Nat) (bs : List Byte) (own : Option Own) : (s.writeMem a bs own).cycle = s.cycle := rfl
@[simp] theorem State.writeMem_groups (s : State) (a : Nat) (bs : List Byte) (own : Option Own) : (s.writeMem a bs own).groups = s.groups := rfl
@[simp] theorem State.writeMem_cores (s : State) (a : Nat) (bs : List Byte) (own : Option Own) : (s.writeMem a bs own).cores = s.cores := rfl
@[simp] theorem State.writeMem_clasp (s : State) (a : Nat) (bs : List Byte) (own : Option Own) : (s.writeMem a bs own).clasp = s.clasp := rfl
@[simp] theorem State.writeMem_l2 (s : State) (a : Nat) (bs : List Byte) (own : Option Own) : (s.writeMem a bs own).l2 = s.l2 := rfl
@[simp] theorem State.writeMem_strand (s : State) (a : Nat) (bs : List Byte) (own : Option Own) : (s.writeMem a bs own).strand = s.strand := rfl
@[simp] theorem State.writeMem_moves (s : State) (a : Nat) (bs : List Byte) (own : Option Own) : (s.writeMem a bs own).moves = s.moves := rfl
@[simp] theorem State.writeMem_tenants (s : State) (a : Nat) (bs : List Byte) (own : Option Own) : (s.writeMem a bs own).tenants = s.tenants := rfl
@[simp] theorem State.writeMem_parts (s : State) (a : Nat) (bs : List Byte) (own : Option Own) : (s.writeMem a bs own).parts = s.parts := rfl
@[simp] theorem State.writeMem_written (s : State) (a : Nat) (bs : List Byte) (own : Option Own) : (s.writeMem a bs own).written = s.written := rfl
@[simp] theorem State.writeMem_frames (s : State) (a : Nat) (bs : List Byte) (own : Option Own) : (s.writeMem a bs own).frames = s.frames := rfl
@[simp] theorem State.writeMem_reserve (s : State) (a : Nat) (bs : List Byte) (own : Option Own) : (s.writeMem a bs own).reserve = s.reserve := rfl
@[simp] theorem State.writeMem_host (s : State) (a : Nat) (bs : List Byte) (own : Option Own) : (s.writeMem a bs own).host = s.host := rfl
@[simp] theorem State.writeMem_fabric (s : State) (a : Nat) (bs : List Byte) (own : Option Own) : (s.writeMem a bs own).fabric = s.fabric := rfl
@[simp] theorem State.writeMem_notices (s : State) (a : Nat) (bs : List Byte) (own : Option Own) : (s.writeMem a bs own).notices = s.notices := rfl
@[simp] theorem State.writeMem_spadOld (s : State) (a : Nat) (bs : List Byte) (own : Option Own) : (s.writeMem a bs own).spadOld = s.spadOld := rfl
@[simp] theorem State.writeMem_opens (s : State) (a : Nat) (bs : List Byte) (own : Option Own) : (s.writeMem a bs own).opens = s.opens := rfl
@[simp] theorem State.writeMem_resetting (s : State) (a : Nat) (bs : List Byte) (own : Option Own) : (s.writeMem a bs own).resetting = s.resetting := rfl

@[simp] theorem State.noteBytes_agenda (s : State) (l : Loc) (old : List Byte) (own : Option Own) : (s.noteBytes l old own).agenda = s.agenda := rfl
@[simp] theorem State.noteBytes_issue (s : State) (l : Loc) (old : List Byte) (own : Option Own) : (s.noteBytes l old own).issue = s.issue := rfl
@[simp] theorem State.noteBytes_ilen (s : State) (l : Loc) (old : List Byte) (own : Option Own) : (s.noteBytes l old own).ilen = s.ilen := rfl
@[simp] theorem State.noteBytes_ticket (s : State) (l : Loc) (old : List Byte) (own : Option Own) : (s.noteBytes l old own).ticket = s.ticket := rfl
@[simp] theorem State.noteBytes_turn (s : State) (l : Loc) (old : List Byte) (own : Option Own) : (s.noteBytes l old own).turn = s.turn := rfl
@[simp] theorem State.noteBytes_cycle (s : State) (l : Loc) (old : List Byte) (own : Option Own) : (s.noteBytes l old own).cycle = s.cycle := rfl
@[simp] theorem State.noteBytes_groups (s : State) (l : Loc) (old : List Byte) (own : Option Own) : (s.noteBytes l old own).groups = s.groups := rfl
@[simp] theorem State.noteBytes_cores (s : State) (l : Loc) (old : List Byte) (own : Option Own) : (s.noteBytes l old own).cores = s.cores := rfl
@[simp] theorem State.noteBytes_mem (s : State) (l : Loc) (old : List Byte) (own : Option Own) : (s.noteBytes l old own).mem = s.mem := rfl
@[simp] theorem State.noteBytes_mtags (s : State) (l : Loc) (old : List Byte) (own : Option Own) : (s.noteBytes l old own).mtags = s.mtags := rfl
@[simp] theorem State.noteBytes_clasp (s : State) (l : Loc) (old : List Byte) (own : Option Own) : (s.noteBytes l old own).clasp = s.clasp := rfl
@[simp] theorem State.noteBytes_l2 (s : State) (l : Loc) (old : List Byte) (own : Option Own) : (s.noteBytes l old own).l2 = s.l2 := rfl
@[simp] theorem State.noteBytes_strand (s : State) (l : Loc) (old : List Byte) (own : Option Own) : (s.noteBytes l old own).strand = s.strand := rfl
@[simp] theorem State.noteBytes_moves (s : State) (l : Loc) (old : List Byte) (own : Option Own) : (s.noteBytes l old own).moves = s.moves := rfl
@[simp] theorem State.noteBytes_tenants (s : State) (l : Loc) (old : List Byte) (own : Option Own) : (s.noteBytes l old own).tenants = s.tenants := rfl
@[simp] theorem State.noteBytes_parts (s : State) (l : Loc) (old : List Byte) (own : Option Own) : (s.noteBytes l old own).parts = s.parts := rfl
@[simp] theorem State.noteBytes_written (s : State) (l : Loc) (old : List Byte) (own : Option Own) : (s.noteBytes l old own).written = s.written := rfl
@[simp] theorem State.noteBytes_frames (s : State) (l : Loc) (old : List Byte) (own : Option Own) : (s.noteBytes l old own).frames = s.frames := rfl
@[simp] theorem State.noteBytes_reserve (s : State) (l : Loc) (old : List Byte) (own : Option Own) : (s.noteBytes l old own).reserve = s.reserve := rfl
@[simp] theorem State.noteBytes_host (s : State) (l : Loc) (old : List Byte) (own : Option Own) : (s.noteBytes l old own).host = s.host := rfl
@[simp] theorem State.noteBytes_fabric (s : State) (l : Loc) (old : List Byte) (own : Option Own) : (s.noteBytes l old own).fabric = s.fabric := rfl
@[simp] theorem State.noteBytes_notices (s : State) (l : Loc) (old : List Byte) (own : Option Own) : (s.noteBytes l old own).notices = s.notices := rfl
@[simp] theorem State.noteBytes_spadOld (s : State) (l : Loc) (old : List Byte) (own : Option Own) : (s.noteBytes l old own).spadOld = s.spadOld := rfl
@[simp] theorem State.noteBytes_opens (s : State) (l : Loc) (old : List Byte) (own : Option Own) : (s.noteBytes l old own).opens = s.opens := rfl
@[simp] theorem State.noteBytes_resetting (s : State) (l : Loc) (old : List Byte) (own : Option Own) : (s.noteBytes l old own).resetting = s.resetting := rfl

@[simp] theorem State.setCore_core (s : State) (c d : Nat) (k : Core) :
    (s.setCore c k).core d = if d = c then k else s.core d := by
  simp only [State.core, State.setCore, mgetD, mget_mset]; split <;> simp_all

@[simp] theorem State.modCore_core (s : State) (c d : Nat) (f : Core → Core) :
    (s.modCore c f).core d = if d = c then f (s.core c) else s.core d := by simp [State.modCore]

@[simp] theorem State.setGroup_group? (s : State) (r q : GRef) (g : Group) :
    (s.setGroup r g).group? q = if gkey q = gkey r then some g else s.group? q := by
  simp [State.group?, State.setGroup, mget_mset]

@[simp] theorem State.setGroup_core (s : State) (r : GRef) (g : Group) (c : Nat) : (s.setGroup r g).core c = s.core c := rfl
@[simp] theorem State.setCore_group? (s : State) (c : Nat) (k : Core) (r : GRef) : (s.setCore c k).group? r = s.group? r := rfl
@[simp] theorem State.modCore_group? (s : State) (c : Nat) (f : Core → Core) (r : GRef) :
    (s.modCore c f).group? r = s.group? r := rfl
@[simp] theorem State.setGroup_setGroup (s : State) (r : GRef) (g h : Group) :
    (s.setGroup r g).setGroup r h = s.setGroup r h := by simp [State.setGroup]

/-- A change of a resident group. -/
theorem State.modGroup_of_some {s : State} {r : GRef} {g : Group} (h : s.group? r = some g) (f : Group → Group) :
    s.modGroup r f = s.setGroup r (f g) := by simp [State.modGroup, h]

@[simp] theorem State.setGroup_modGroup (s : State) (r : GRef) (g : Group) (f : Group → Group) :
    (s.setGroup r g).modGroup r f = s.setGroup r (f g) := by simp [State.modGroup]

/-! ### A core -/

@[simp] theorem Core.modQuarter_inService (k : Core) (q : Nat) (f : Quarter → Quarter) : (k.modQuarter q f).inService = k.inService := rfl
@[simp] theorem Core.modQuarter_halted (k : Core) (q : Nat) (f : Quarter → Quarter) : (k.modQuarter q f).halted = k.halted := rfl
@[simp] theorem Core.modQuarter_part (k : Core) (q : Nat) (f : Quarter → Quarter) : (k.modQuarter q f).part = k.part := rfl
@[simp] theorem Core.modQuarter_saving (k : Core) (q : Nat) (f : Quarter → Quarter) : (k.modQuarter q f).saving = k.saving := rfl
@[simp] theorem Core.modQuarter_teams (k : Core) (q : Nat) (f : Quarter → Quarter) : (k.modQuarter q f).teams = k.teams := rfl
@[simp] theorem Core.modQuarter_lastTen (k : Core) (q : Nat) (f : Quarter → Quarter) : (k.modQuarter q f).lastTen = k.lastTen := rfl
@[simp] theorem Core.modQuarter_spad (k : Core) (q : Nat) (f : Quarter → Quarter) : (k.modQuarter q f).spad = k.spad := rfl
@[simp] theorem Core.modQuarter_stags (k : Core) (q : Nat) (f : Quarter → Quarter) : (k.modQuarter q f).stags = k.stags := rfl
@[simp] theorem Core.modQuarter_armed (k : Core) (q : Nat) (f : Quarter → Quarter) : (k.modQuarter q f).armed = k.armed := rfl
@[simp] theorem Core.modQuarter_acc (k : Core) (q : Nat) (f : Quarter → Quarter) : (k.modQuarter q f).acc = k.acc := rfl
@[simp] theorem Core.modQuarter_side (k : Core) (q : Nat) (f : Quarter → Quarter) : (k.modQuarter q f).side = k.side := rfl
@[simp] theorem Core.modQuarter_mat (k : Core) (q : Nat) (f : Quarter → Quarter) : (k.modQuarter q f).mat = k.mat := rfl
@[simp] theorem Core.modQuarter_matIn (k : Core) (q : Nat) (f : Quarter → Quarter) : (k.modQuarter q f).matIn = k.matIn := rfl
@[simp] theorem Core.modQuarter_chans (k : Core) (q : Nat) (f : Quarter → Quarter) : (k.modQuarter q f).chans = k.chans := rfl
@[simp] theorem Core.modQuarter_pub (k : Core) (q : Nat) (f : Quarter → Quarter) : (k.modQuarter q f).pub = k.pub := rfl
@[simp] theorem Core.modQuarter_released (k : Core) (q : Nat) (f : Quarter → Quarter) : (k.modQuarter q f).released = k.released := rfl
@[simp] theorem Core.modQuarter_log (k : Core) (q : Nat) (f : Quarter → Quarter) : (k.modQuarter q f).log = k.log := rfl
@[simp] theorem Core.modQuarter_logNext (k : Core) (q : Nat) (f : Quarter → Quarter) : (k.modQuarter q f).logNext = k.logNext := rfl
@[simp] theorem Core.modQuarter_logWait (k : Core) (q : Nat) (f : Quarter → Quarter) : (k.modQuarter q f).logWait = k.logWait := rfl
@[simp] theorem Core.modQuarter_sess (k : Core) (q : Nat) (f : Quarter → Quarter) : (k.modQuarter q f).sess = k.sess := rfl
@[simp] theorem Core.modQuarter_l1 (k : Core) (q : Nat) (f : Quarter → Quarter) : (k.modQuarter q f).l1 = k.l1 := rfl
@[simp] theorem Core.modQuarter_barq (k : Core) (q : Nat) (f : Quarter → Quarter) : (k.modQuarter q f).barq = k.barq := rfl
@[simp] theorem Core.modQuarter_spilled (k : Core) (q : Nat) (f : Quarter → Quarter) : (k.modQuarter q f).spilled = k.spilled := rfl
@[simp] theorem Core.modQuarter_saved (k : Core) (q : Nat) (f : Quarter → Quarter) : (k.modQuarter q f).saved = k.saved := rfl
@[simp] theorem Core.modQuarter_spare (k : Core) (q : Nat) (f : Quarter → Quarter) : (k.modQuarter q f).spare = k.spare := rfl
@[simp] theorem Core.modQuarter_nextAge (k : Core) (q : Nat) (f : Quarter → Quarter) : (k.modQuarter q f).nextAge = k.nextAge := rfl

@[simp] theorem Core.modQuarter_quarter (k : Core) (q p : Nat) (f : Quarter → Quarter) :
    (k.modQuarter q f).quarter p = if p = q then f (k.quarter q) else k.quarter p := by
  simp only [Core.quarter, Core.modQuarter, lput_getD]

@[simp] theorem State.modQuarter_quarter (s : State) (c q d p : Nat) (f : Quarter → Quarter) :
    (s.modQuarter c q f).quarter d p = if d = c ∧ p = q then f (s.quarter c q) else s.quarter d p := by
  simp only [State.quarter, State.modQuarter, State.modCore_core]
  by_cases h : d = c
  · subst h; simp only [if_true, Core.modQuarter_quarter, true_and]
  · simp [h]

/-! ### A group and its threads -/

@[simp] theorem Group.modThread_ten (g : Group) (l : Nat) (u : Thread → Thread) : (g.modThread l u).ten = g.ten := rfl
@[simp] theorem Group.modThread_part (g : Group) (l : Nat) (u : Thread → Thread) : (g.modThread l u).part = g.part := rfl
@[simp] theorem Group.modThread_handle (g : Group) (l : Nat) (u : Thread → Thread) : (g.modThread l u).handle = g.handle := rfl
@[simp] theorem Group.modThread_team (g : Group) (l : Nat) (u : Thread → Thread) : (g.modThread l u).team = g.team := rfl
@[simp] theorem Group.modThread_gidx (g : Group) (l : Nat) (u : Thread → Thread) : (g.modThread l u).gidx = g.gidx := rfl
@[simp] theorem Group.modThread_ridx (g : Group) (l : Nat) (u : Thread → Thread) : (g.modThread l u).ridx = g.ridx := rfl
@[simp] theorem Group.modThread_role (g : Group) (l : Nat) (u : Thread → Thread) : (g.modThread l u).role = g.role := rfl
@[simp] theorem Group.modThread_lpass (g : Group) (l : Nat) (u : Thread → Thread) : (g.modThread l u).lpass = g.lpass := rfl
@[simp] theorem Group.modThread_st (g : Group) (l : Nat) (u : Thread → Thread) : (g.modThread l u).st = g.st := rfl
@[simp] theorem Group.modThread_frozen (g : Group) (l : Nat) (u : Thread → Thread) : (g.modThread l u).frozen = g.frozen := rfl
@[simp] theorem Group.modThread_forced (g : Group) (l : Nat) (u : Thread → Thread) : (g.modThread l u).forced = g.forced := rfl
@[simp] theorem Group.modThread_readyAt (g : Group) (l : Nat) (u : Thread → Thread) : (g.modThread l u).readyAt = g.readyAt := rfl
@[simp] theorem Group.modThread_age (g : Group) (l : Nat) (u : Thread → Thread) : (g.modThread l u).age = g.age := rfl
@[simp] theorem Group.modThread_flags (g : Group) (l : Nat) (u : Thread → Thread) : (g.modThread l u).flags = g.flags := rfl
@[simp] theorem Group.modThread_pend (g : Group) (l : Nat) (u : Thread → Thread) : (g.modThread l u).pend = g.pend := rfl
@[simp] theorem Group.modThread_nextId (g : Group) (l : Nat) (u : Thread → Thread) : (g.modThread l u).nextId = g.nextId := rfl
@[simp] theorem Group.modThread_pro (g : Group) (l : Nat) (u : Thread → Thread) : (g.modThread l u).pro = g.pro := rfl
@[simp] theorem Group.modThread_full (g : Group) (l : Nat) (u : Thread → Thread) : (g.modThread l u).full = g.full := rfl
@[simp] theorem Group.modThread_allot (g : Group) (l : Nat) (u : Thread → Thread) : (g.modThread l u).allot = g.allot := rfl
@[simp] theorem Group.modThread_acqf (g : Group) (l : Nat) (u : Thread → Thread) : (g.modThread l u).acqf = g.acqf := rfl
@[simp] theorem Group.modThread_strict (g : Group) (l : Nat) (u : Thread → Thread) : (g.modThread l u).strict = g.strict := rfl
@[simp] theorem Group.modThread_univ (g : Group) (l : Nat) (u : Thread → Thread) : (g.modThread l u).univ = g.univ := rfl
@[simp] theorem Group.modThread_scal (g : Group) (l : Nat) (u : Thread → Thread) : (g.modThread l u).scal = g.scal := rfl
@[simp] theorem Group.modThread_ctag (g : Group) (l : Nat) (u : Thread → Thread) : (g.modThread l u).ctag = g.ctag := rfl
@[simp] theorem Group.modThread_latches (g : Group) (l : Nat) (u : Thread → Thread) : (g.modThread l u).latches = g.latches := rfl
@[simp] theorem Group.modThread_phase (g : Group) (l : Nat) (u : Thread → Thread) : (g.modThread l u).phase = g.phase := rfl
@[simp] theorem Group.modThread_bgen (g : Group) (l : Nat) (u : Thread → Thread) : (g.modThread l u).bgen = g.bgen := rfl
@[simp] theorem Group.modThread_crec (g : Group) (l : Nat) (u : Thread → Thread) : (g.modThread l u).crec = g.crec := rfl
@[simp] theorem Group.modThread_fopd (g : Group) (l : Nat) (u : Thread → Thread) : (g.modThread l u).fopd = g.fopd := rfl
@[simp] theorem Group.modThread_fopdFar (g : Group) (l : Nat) (u : Thread → Thread) : (g.modThread l u).fopdFar = g.fopdFar := rfl
@[simp] theorem Group.modThread_covered (g : Group) (l : Nat) (u : Thread → Thread) : (g.modThread l u).covered = g.covered := rfl

@[simp] theorem Group.modThread_thread (g : Group) (l m : Nat) (u : Thread → Thread) :
    (g.modThread l u).thread m = if m = l then u (g.thread l) else g.thread m := by
  simp only [Group.thread, Group.modThread, lput_getD]


@[simp] theorem Group.modThreads_ten (ls : List Nat) (u : Nat → Thread → Thread) (g : Group) : (g.modThreads ls u).ten = g.ten := by
  induction ls generalizing g with
  | nil => rfl
  | cons l r ih => exact ih (g.modThread l (u l))
@[simp] theorem Group.modThreads_part (ls : List Nat) (u : Nat → Thread → Thread) (g : Group) : (g.modThreads ls u).part = g.part := by
  induction ls generalizing g with
  | nil => rfl
  | cons l r ih => exact ih (g.modThread l (u l))
@[simp] theorem Group.modThreads_handle (ls : List Nat) (u : Nat → Thread → Thread) (g : Group) : (g.modThreads ls u).handle = g.handle := by
  induction ls generalizing g with
  | nil => rfl
  | cons l r ih => exact ih (g.modThread l (u l))
@[simp] theorem Group.modThreads_team (ls : List Nat) (u : Nat → Thread → Thread) (g : Group) : (g.modThreads ls u).team = g.team := by
  induction ls generalizing g with
  | nil => rfl
  | cons l r ih => exact ih (g.modThread l (u l))
@[simp] theorem Group.modThreads_gidx (ls : List Nat) (u : Nat → Thread → Thread) (g : Group) : (g.modThreads ls u).gidx = g.gidx := by
  induction ls generalizing g with
  | nil => rfl
  | cons l r ih => exact ih (g.modThread l (u l))
@[simp] theorem Group.modThreads_ridx (ls : List Nat) (u : Nat → Thread → Thread) (g : Group) : (g.modThreads ls u).ridx = g.ridx := by
  induction ls generalizing g with
  | nil => rfl
  | cons l r ih => exact ih (g.modThread l (u l))
@[simp] theorem Group.modThreads_role (ls : List Nat) (u : Nat → Thread → Thread) (g : Group) : (g.modThreads ls u).role = g.role := by
  induction ls generalizing g with
  | nil => rfl
  | cons l r ih => exact ih (g.modThread l (u l))
@[simp] theorem Group.modThreads_lpass (ls : List Nat) (u : Nat → Thread → Thread) (g : Group) : (g.modThreads ls u).lpass = g.lpass := by
  induction ls generalizing g with
  | nil => rfl
  | cons l r ih => exact ih (g.modThread l (u l))
@[simp] theorem Group.modThreads_st (ls : List Nat) (u : Nat → Thread → Thread) (g : Group) : (g.modThreads ls u).st = g.st := by
  induction ls generalizing g with
  | nil => rfl
  | cons l r ih => exact ih (g.modThread l (u l))
@[simp] theorem Group.modThreads_frozen (ls : List Nat) (u : Nat → Thread → Thread) (g : Group) : (g.modThreads ls u).frozen = g.frozen := by
  induction ls generalizing g with
  | nil => rfl
  | cons l r ih => exact ih (g.modThread l (u l))
@[simp] theorem Group.modThreads_forced (ls : List Nat) (u : Nat → Thread → Thread) (g : Group) : (g.modThreads ls u).forced = g.forced := by
  induction ls generalizing g with
  | nil => rfl
  | cons l r ih => exact ih (g.modThread l (u l))
@[simp] theorem Group.modThreads_readyAt (ls : List Nat) (u : Nat → Thread → Thread) (g : Group) : (g.modThreads ls u).readyAt = g.readyAt := by
  induction ls generalizing g with
  | nil => rfl
  | cons l r ih => exact ih (g.modThread l (u l))
@[simp] theorem Group.modThreads_age (ls : List Nat) (u : Nat → Thread → Thread) (g : Group) : (g.modThreads ls u).age = g.age := by
  induction ls generalizing g with
  | nil => rfl
  | cons l r ih => exact ih (g.modThread l (u l))
@[simp] theorem Group.modThreads_flags (ls : List Nat) (u : Nat → Thread → Thread) (g : Group) : (g.modThreads ls u).flags = g.flags := by
  induction ls generalizing g with
  | nil => rfl
  | cons l r ih => exact ih (g.modThread l (u l))
@[simp] theorem Group.modThreads_pend (ls : List Nat) (u : Nat → Thread → Thread) (g : Group) : (g.modThreads ls u).pend = g.pend := by
  induction ls generalizing g with
  | nil => rfl
  | cons l r ih => exact ih (g.modThread l (u l))
@[simp] theorem Group.modThreads_nextId (ls : List Nat) (u : Nat → Thread → Thread) (g : Group) : (g.modThreads ls u).nextId = g.nextId := by
  induction ls generalizing g with
  | nil => rfl
  | cons l r ih => exact ih (g.modThread l (u l))
@[simp] theorem Group.modThreads_pro (ls : List Nat) (u : Nat → Thread → Thread) (g : Group) : (g.modThreads ls u).pro = g.pro := by
  induction ls generalizing g with
  | nil => rfl
  | cons l r ih => exact ih (g.modThread l (u l))
@[simp] theorem Group.modThreads_full (ls : List Nat) (u : Nat → Thread → Thread) (g : Group) : (g.modThreads ls u).full = g.full := by
  induction ls generalizing g with
  | nil => rfl
  | cons l r ih => exact ih (g.modThread l (u l))
@[simp] theorem Group.modThreads_allot (ls : List Nat) (u : Nat → Thread → Thread) (g : Group) : (g.modThreads ls u).allot = g.allot := by
  induction ls generalizing g with
  | nil => rfl
  | cons l r ih => exact ih (g.modThread l (u l))
@[simp] theorem Group.modThreads_acqf (ls : List Nat) (u : Nat → Thread → Thread) (g : Group) : (g.modThreads ls u).acqf = g.acqf := by
  induction ls generalizing g with
  | nil => rfl
  | cons l r ih => exact ih (g.modThread l (u l))
@[simp] theorem Group.modThreads_strict (ls : List Nat) (u : Nat → Thread → Thread) (g : Group) : (g.modThreads ls u).strict = g.strict := by
  induction ls generalizing g with
  | nil => rfl
  | cons l r ih => exact ih (g.modThread l (u l))
@[simp] theorem Group.modThreads_univ (ls : List Nat) (u : Nat → Thread → Thread) (g : Group) : (g.modThreads ls u).univ = g.univ := by
  induction ls generalizing g with
  | nil => rfl
  | cons l r ih => exact ih (g.modThread l (u l))
@[simp] theorem Group.modThreads_scal (ls : List Nat) (u : Nat → Thread → Thread) (g : Group) : (g.modThreads ls u).scal = g.scal := by
  induction ls generalizing g with
  | nil => rfl
  | cons l r ih => exact ih (g.modThread l (u l))
@[simp] theorem Group.modThreads_ctag (ls : List Nat) (u : Nat → Thread → Thread) (g : Group) : (g.modThreads ls u).ctag = g.ctag := by
  induction ls generalizing g with
  | nil => rfl
  | cons l r ih => exact ih (g.modThread l (u l))
@[simp] theorem Group.modThreads_latches (ls : List Nat) (u : Nat → Thread → Thread) (g : Group) : (g.modThreads ls u).latches = g.latches := by
  induction ls generalizing g with
  | nil => rfl
  | cons l r ih => exact ih (g.modThread l (u l))
@[simp] theorem Group.modThreads_phase (ls : List Nat) (u : Nat → Thread → Thread) (g : Group) : (g.modThreads ls u).phase = g.phase := by
  induction ls generalizing g with
  | nil => rfl
  | cons l r ih => exact ih (g.modThread l (u l))
@[simp] theorem Group.modThreads_bgen (ls : List Nat) (u : Nat → Thread → Thread) (g : Group) : (g.modThreads ls u).bgen = g.bgen := by
  induction ls generalizing g with
  | nil => rfl
  | cons l r ih => exact ih (g.modThread l (u l))
@[simp] theorem Group.modThreads_crec (ls : List Nat) (u : Nat → Thread → Thread) (g : Group) : (g.modThreads ls u).crec = g.crec := by
  induction ls generalizing g with
  | nil => rfl
  | cons l r ih => exact ih (g.modThread l (u l))
@[simp] theorem Group.modThreads_fopd (ls : List Nat) (u : Nat → Thread → Thread) (g : Group) : (g.modThreads ls u).fopd = g.fopd := by
  induction ls generalizing g with
  | nil => rfl
  | cons l r ih => exact ih (g.modThread l (u l))
@[simp] theorem Group.modThreads_fopdFar (ls : List Nat) (u : Nat → Thread → Thread) (g : Group) : (g.modThreads ls u).fopdFar = g.fopdFar := by
  induction ls generalizing g with
  | nil => rfl
  | cons l r ih => exact ih (g.modThread l (u l))
@[simp] theorem Group.modThreads_covered (ls : List Nat) (u : Nat → Thread → Thread) (g : Group) : (g.modThreads ls u).covered = g.covered := by
  induction ls generalizing g with
  | nil => rfl
  | cons l r ih => exact ih (g.modThread l (u l))

/-- Threads after a change of some distinct lanes. -/
theorem Group.modThreads_thread {ls : List Nat} (hn : ls.Nodup) (u : Nat → Thread → Thread) (g : Group) (m : Nat) :
    (g.modThreads ls u).thread m = if m ∈ ls then u m (g.thread m) else g.thread m := by
  induction ls generalizing g with
  | nil => simp [Group.modThreads]
  | cons l r ih =>
    rw [List.nodup_cons] at hn
    have h := ih hn.2 (g.modThread l (u l))
    simp only [Group.modThreads, List.foldl_cons] at h ⊢
    rw [h]
    by_cases h1 : m = l
    · subst h1; simp [hn.1]
    · by_cases h2 : m ∈ r <;> simp [h1, h2]

end Sys2Proof.Machine
end

