-- ==== Sys2Proof/Laws/Issue.lean ====
section
/-! SUPPORT. Laws of issuing: what the issuing set is, what the shared checks leave to an instruction's own part, and what
an instruction that ends normally leaves of its group. -/

namespace Sys2Proof.Machine

open Sys2Proof

-- One theorem at a time, so that the package compiles as one text in little memory.
set_option Elab.async false

/-! ### The issuing set (R141) -/

theorem nodup_kept {α : Type} {l : List α} (p : α → Bool) (h : l.Nodup) : (l.filter p).Nodup := List.Pairwise.filter p h

theorem mem_liveLanes {g : Group} {l : Nat} : l ∈ g.liveLanes ↔ l < 64 ∧ (g.thread l).live = true := by
  simp [Group.liveLanes, allLanes]

theorem issuingSet_sub {g : Group} {l : Nat} (h : l ∈ g.issuingSet) : l ∈ g.liveLanes := by
  unfold Group.issuingSet at h
  split at h
  · simp at h
  · exact (List.mem_filter.1 h).1

theorem issuingSet_nodup (g : Group) : g.issuingSet.Nodup := by
  unfold Group.issuingSet
  split
  · exact List.nodup_nil
  · exact nodup_kept _ (nodup_kept _ List.nodup_range)

/-- What an issue is: the ready group whose turn it is, its issuing set and the set's address. -/
theorem ctx_some {s : State} {c : Ctx} (h : s.ctx = some c) :
    s.turnRef = some c.r ∧ s.group? c.r = some c.g ∧ c.g.canIssue = true ∧ (s.core c.r.core).halted = false ∧
      c.set = c.g.issuingSet ∧ c.set ≠ [] ∧ c.pc = (c.g.thread (c.set.headD 0)).pc ∧ c.len = s.ilen ∧
      c.sys = (c.r.slot == 63) ∧ c.tk = s.ticket := by
  unfold State.ctx at h
  split at h
  · simp at h
  · rename_i r hr
    split at h
    · simp at h
    · rename_i g hg
      split at h
      · simp at h
      · rename_i hc
        split at h
        · simp at h
        · rename_i l ls hs
          have h' := Option.some.inj h
          subst h'
          simp only [Bool.or_eq_true, Bool.not_eq_true', not_or, Bool.not_eq_false, Bool.not_eq_true] at hc
          exact ⟨hr, hg, hc.1, hc.2, hs.symm, by simp, by simp, rfl, rfl, rfl⟩

theorem ctx_group {s : State} {c : Ctx} (h : s.ctx = some c) : s.group? c.r = some c.g := (ctx_some h).2.1

theorem ctx_live {s : State} {c : Ctx} (h : s.ctx = some c) {l : Nat} (hl : l ∈ c.set) :
    l < 64 ∧ (c.g.thread l).live = true := by
  obtain ⟨_, _, _, _, hs, _⟩ := ctx_some h
  exact mem_liveLanes.1 (issuingSet_sub (hs ▸ hl))

theorem ctx_nodup {s : State} {c : Ctx} (h : s.ctx = some c) : c.set.Nodup := by
  obtain ⟨_, _, _, _, hs, _⟩ := ctx_some h
  exact hs ▸ issuingSet_nodup _

theorem on_sub {c : Ctx} {gd : Guard} {l : Nat} (h : l ∈ c.on gd) : l ∈ c.set := (List.mem_filter.1 h).1

theorem on_nodup {s : State} {c : Ctx} (h : s.ctx = some c) (gd : Guard) : (c.on gd).Nodup := nodup_kept _ (ctx_nodup h)

theorem mem_on {c : Ctx} {gd : Guard} {l : Nat} : l ∈ c.on gd ↔ l ∈ c.set ∧ c.guard gd l = .t := by
  simp [Ctx.on]

/-- Where no guard is undecided the threads at T or U are those at T. -/
theorem notOff_eq_on {c : Ctx} {gd : Guard} (h : ∀ l ∈ c.set, c.guard gd l ≠ .u) : c.notOff gd = c.on gd := by
  unfold Ctx.notOff Ctx.on
  apply List.filter_congr
  intro l hl
  have := h l hl
  cases hg : c.guard gd l <;> simp_all

theorem maybe_nil {c : Ctx} {gd : Guard} (h : ∀ l ∈ c.set, c.guard gd l ≠ .u) : c.maybe gd = [] := by
  unfold Ctx.maybe
  rw [List.filter_eq_nil_iff]
  intro l hl
  have := h l hl
  simpa using this

/-! ### What an instruction leaves -/

@[simp] theorem undecide_nil (s : State) (r : GRef) : s.undecide r [] = s := rfl

@[simp] theorem done_nil (c : Ctx) (s : State) (g : Group) : c.done s (g, []) = .next (s.setGroup c.r g) := rfl

/-- A thread after the instruction's words. -/
def Ctx.past (c : Ctx) (t : Thread) : Thread := t.past (BitVec.ofNat 64 (lenSize c.len))

/-- The threads after an advance. -/
theorem advance_thread {c : Ctx} (hn : c.set.Nodup) (g : Group) (l : Nat) :
    (c.advance g).thread l = if l ∈ c.set ∧ (g.thread l).live = true then c.past (g.thread l) else g.thread l := by
  unfold Ctx.advance Ctx.advanceLanes
  rw [Group.modThreads_thread (nodup_kept _ hn)]
  simp [List.mem_filter, Ctx.past]

/-- Nothing but threads changes in an advance. -/
theorem advance_rest (c : Ctx) (g : Group) : c.advance g = { g with threads := (c.advance g).threads } := by
  unfold Ctx.advance Ctx.advanceLanes
  generalize List.filter _ _ = ls
  induction ls generalizing g with
  | nil => rfl
  | cons l r ih =>
    have h := ih (g.modThread l fun t => t.past (BitVec.ofNat 64 (lenSize c.len)))
    simp only [Group.modThreads, List.foldl_cons] at h ⊢
    rw [h]
    rfl

/-- The latches of a group after an instruction depend on the instruction alone. -/
theorem latched_rest (c : Ctx) (hold : BitVec 2) (a : Opnd) (lit : Option DWord) (aw : Nat) (g : Group)
    (h : g.latches = c.g.latches) :
    c.latched hold a lit aw g = { g with latches := (c.latched hold a lit aw c.g).latches } := by
  unfold Ctx.latched
  split <;> simp [h]

/-- An instruction whose own part changes its group alone. -/
theorem settle_next (s : State) (c : Ctx) (latch : Group → Group) (g : Group) :
    c.settle s latch (.next (s.setGroup c.r g)) = s.setGroup c.r (c.advance (latch g)) := by
  simp [Ctx.settle]

/-- An instruction that passes the shared checks runs its own part. -/
theorem run_body {ru : Rules} {f : Form} {c : Ctx} {body : Ctx → State → Res} {s : State}
    (hc : ru.ctl = true → c.atEnd = true) (hp : ru.priv = true → c.sys = true) (ho : ru.operandFault c.g f = none)
    (hg : ru.always = true ∨ c.notOff f.guard ≠ [])
    (hl : ru.long = true → selectFlag c.lead f.fs ≠ 15 ∧ c.g.flag (selectFlag c.lead f.fs) < 63)
    (hu : ru.und = true → c.interval = false) : ru.run f c body s = body c s := by
  unfold Rules.run
  have h1 : (ru.ctl && !c.atEnd) = false := by cases h : ru.ctl <;> simp_all
  have h2 : (ru.priv && !c.sys) = false := by cases h : ru.priv <;> simp_all
  have h3 : (!ru.always && (c.notOff f.guard).isEmpty) = false := by cases h : ru.always <;> simp_all
  have h6 : (ru.und && c.interval) = false := by cases h : ru.und <;> simp_all
  simp only [h1, h2, ho, h3, h6]
  cases h : ru.long
  · simp
  · have := hl h
    simp [this.1, Nat.not_le.2 this.2]

/-- A short-latency instruction that passes the shared checks and changes its group alone. -/
theorem issueForm_next {s : State} {c : Ctx} {ru : Rules} {f : Form} {body : Ctx → State → Res} {g : Group}
    (hs : s.ctx = some c) (hr : ru.run f c body s = .next (s.setGroup c.r g)) :
    s.issueForm ru f body = .next (s.setGroup c.r (c.advance (c.latched f.hold f.a f.lit ru.aw g))) := by
  simp only [State.issueForm, hs, hr, settle_next]

end Sys2Proof.Machine
end

