-- ==== Sys2Proof/Laws/Memory.lean ====
section
/-! SUPPORT. Laws of the memories: a read after a write, and that every memory operation keeps the canonical form. -/

namespace Sys2Proof.Machine

open Sys2Proof

-- One theorem at a time, so that the package compiles as one text in little memory.
set_option Elab.async false

/-! ### Reads after writes -/

theorem cellsAbove_mono {j k : Nat} {m : List Host.Cell} (h : j ≤ k) (hk : cellsAbove k m = true) :
    cellsAbove j m = true := by
  cases m with
  | nil => rfl
  | cons x r =>
    obtain ⟨a, b⟩ := x
    simp only [cellsAbove, Bool.and_eq_true, decide_eq_true_eq] at hk ⊢
    exact ⟨⟨by omega, hk.1.2⟩, hk.2⟩

/-- An address below every listed one reads as unlisted. -/
theorem cget_below {k : Nat} {m : List Host.Cell} : ∀ {j}, cellsAbove j m = true → k < j → cget m k = unlisted := by
  intro j h hk
  cases m with
  | nil => rfl
  | cons x r =>
    obtain ⟨a, b⟩ := x
    simp only [cellsAbove, Bool.and_eq_true, decide_eq_true_eq] at h
    have : ¬ a = k := by omega
    have : k < a := by omega
    simp [cget, *]

theorem cget_cset_aux (m : List Host.Cell) (a : Nat) (v : Byte) (k : Nat) :
    ∀ j, cellsAbove j m = true → cget (cset m a v) k = if k = a then v else cget m k := by
  induction m with
  | nil =>
    intro j _
    by_cases hv : v = unlisted <;> by_cases hk : k = a
    · simp [cset, cget, hv]
    · simp [cset, cget, hv]
    · simp [cset, cget, hv, hk]
    · simp [cset, cget, hv, hk, Ne.symm hk]
  | cons x r ih =>
    intro j h
    obtain ⟨b, w⟩ := x
    simp only [cellsAbove, Bool.and_eq_true, decide_eq_true_eq] at h
    obtain ⟨⟨hj, hw⟩, hr⟩ := h
    by_cases h1 : a < b
    · by_cases hv : v = unlisted
      · by_cases hk : k = a
        · have h2 : ¬ b = a := by omega
          simp [cset, cget, h1, hv, hk, h2]
        · simp [cset, h1, hv, hk]
      · by_cases hk : k = a
        · simp [cset, cget, h1, hv, hk]
        · by_cases h3 : k < a
          · have : ¬ b = k := by omega
            have : k < b := by omega
            have : ¬ a = k := by omega
            simp [cset, cget, *]
          · simp [cset, cget, h1, hv, hk, Ne.symm hk, h3]
    · by_cases h2 : b = a
      · subst h2
        by_cases hv : v = unlisted
        · by_cases hk : k = b
          · subst hk
            simp [cset, hv, cget_below hr (Nat.lt_succ_self k)]
          · by_cases h3 : k < b
            · simp [cset, cget, hv, hk, Ne.symm hk, h3, cget_below hr (by omega : k < b + 1)]
            · simp [cset, cget, hv, hk, Ne.symm hk, h3]
        · by_cases hk : k = b
          · simp [cset, cget, hv, hk]
          · simp [cset, cget, hv, hk, Ne.symm hk]
      · by_cases h3 : b = k
        · have : ¬ k = a := by omega
          subst h3; simp [cset, cget, h1, h2]
        · by_cases h4 : k < b
          · have : ¬ k = a := by omega
            simp [cset, cget, h1, h2, h3, h4, this]
          · simp [cset, cget, h1, h2, h3, h4, ih _ hr]

/-- A byte read after a byte is written (canonical form). -/
theorem cget_cset {m : List Host.Cell} (h : Memory.wf m = true) (a : Nat) (v : Byte) (k : Nat) :
    cget (cset m a v) k = if k = a then v else cget m k := cget_cset_aux m a v k 0 h

/-! ### The canonical form -/

theorem cset_above (m : List Host.Cell) (a : Nat) (v : Byte) :
    ∀ j, j ≤ a → cellsAbove j m = true → cellsAbove j (cset m a v) = true := by
  induction m with
  | nil => intro j h _; by_cases hv : v = unlisted <;> simp [cset, cellsAbove, hv, h]
  | cons x r ih =>
    intro j ha h
    obtain ⟨b, w⟩ := x
    simp only [cellsAbove, Bool.and_eq_true, decide_eq_true_eq] at h
    obtain ⟨⟨hj, hw⟩, hr⟩ := h
    by_cases h1 : a < b
    · by_cases hv : v = unlisted
      · simp [cset, cellsAbove, h1, hv, hr, hj]; simpa using hw
      · simp [cset, cellsAbove, h1, hv, hr, ha, Nat.succ_le_of_lt h1]; simpa using hw
    · by_cases h2 : b = a
      · by_cases hv : v = unlisted
        · subst h2; simpa [cset, hv] using cellsAbove_mono (by omega) hr
        · subst h2; simp [cset, cellsAbove, hv, hr, ha]
      · have h3 := ih (b + 1) (by omega) hr
        simp [cset, cellsAbove, h1, h2, h3, hj]; simpa using hw

/-- Writing a byte keeps the canonical form. -/
theorem wf_cset {m : List Host.Cell} (h : Memory.wf m = true) (a : Nat) (v : Byte) : Memory.wf (cset m a v) = true :=
  cset_above m a v 0 (Nat.zero_le _) h

/-- Writing bytes keeps the canonical form. -/
theorem wf_cwrite {m : List Host.Cell} (h : Memory.wf m = true) (a : Nat) (bs : List Byte) :
    Memory.wf (cwrite m a bs) = true := by
  induction bs generalizing m a with
  | nil => exact h
  | cons b r ih => exact ih (wf_cset h a b) (a + 1)

/-- Writing the cells of another memory keeps the canonical form. -/
theorem wf_coverlay {m : List Host.Cell} (h : Memory.wf m = true) (cs : List Host.Cell) :
    Memory.wf (coverlay m cs) = true := by
  induction cs generalizing m with
  | nil => exact h
  | cons x r ih => obtain ⟨a, b⟩ := x; exact ih (wf_cset h a b)

theorem filter_above (p : Host.Cell → Bool) (m : List Host.Cell) :
    ∀ j, cellsAbove j m = true → cellsAbove j (m.filter p) = true := by
  induction m with
  | nil => intro j h; rfl
  | cons x r ih =>
    intro j h
    obtain ⟨b, w⟩ := x
    simp only [cellsAbove, Bool.and_eq_true, decide_eq_true_eq] at h
    obtain ⟨⟨hj, hw⟩, hr⟩ := h
    by_cases hp : p (b, w) = true
    · simp [hp, cellsAbove, hj, ih _ hr]; simpa using hw
    · simpa [hp] using cellsAbove_mono (by omega) (ih _ hr)

/-- Leaving cells out keeps the canonical form. -/
theorem wf_filter {m : List Host.Cell} (h : Memory.wf m = true) (p : Host.Cell → Bool) :
    Memory.wf (m.filter p) = true := filter_above p m 0 h

/-- Clearing a range keeps the canonical form. -/
theorem wf_cclear {m : List Host.Cell} (h : Memory.wf m = true) (a n : Nat) : Memory.wf (cclear m a n) = true :=
  wf_filter h _

/-- The operations of the physical memory keep the canonical form. -/
theorem wf_writeMem {s : State} (h : Memory.wf s.mem = true) (a : Nat) (bs : List Byte) :
    Memory.wf (s.writeMem a bs).mem = true := wf_cwrite h a bs

theorem wf_writeGranule {s : State} (h : Memory.wf s.mem = true) (a : Nat) (bs : List Byte) (t : Bool) :
    Memory.wf (s.writeGranule a bs t).mem = true := by
  unfold State.writeGranule; split <;> exact wf_writeMem h a bs

/-- Reset's memory has the canonical form. -/
theorem wf_reset : Memory.wf State.reset.mem = true := rfl

/-- A byte outside the written range reads as before; a byte in it reads as written. -/
theorem cget_cwrite {m : List Host.Cell} (h : Memory.wf m = true) (a : Nat) (bs : List Byte) (k : Nat) :
    cget (cwrite m a bs) k = if a ≤ k ∧ k < a + bs.length then bs.getD (k - a) 0 else cget m k := by
  induction bs generalizing m a with
  | nil =>
    have h0 : ¬ (a ≤ k ∧ k < a + ([] : List Byte).length) := by simp
    rw [if_neg h0]; rfl
  | cons b r ih =>
    rw [cwrite, ih (wf_cset h a b), cget_cset h]
    by_cases h1 : k = a
    · subst h1
      have h2 : ¬ (k + 1 ≤ k ∧ k < k + 1 + r.length) := by omega
      have h3 : k ≤ k ∧ k < k + (b :: r).length := by rw [List.length_cons]; omega
      rw [if_neg h2, if_pos rfl, if_pos h3, Nat.sub_self, List.getD_cons_zero]
    · by_cases h2 : a + 1 ≤ k ∧ k < a + 1 + r.length
      · have h3 : a ≤ k ∧ k < a + (r.length + 1) := by omega
        have h4 : k - a = (k - (a + 1)) + 1 := by omega
        simp [h2, h3, h4]
      · have h3 : ¬ (a ≤ k ∧ k < a + (b :: r).length) := by
          rw [List.length_cons]; omega
        rw [if_neg h2, if_neg h1, if_neg h3]

theorem length_cread (m : List Host.Cell) (a n : Nat) : (cread m a n).length = n := by
  induction n generalizing a with
  | zero => rfl
  | succ n ih => simp [cread, ih]

theorem cread_cwrite_same {m : List Host.Cell} (h : Memory.wf m = true) (a : Nat) (bs : List Byte) :
    cread (cwrite m a bs) a bs.length = bs := by
  have aux : ∀ n i, i + n = bs.length → cread (cwrite m a bs) (a + i) n = bs.drop i := by
    intro n
    induction n with
    | zero => intro i hi; simp [cread, ← hi]
    | succ n ih =>
      intro i hi
      have hlt : i < bs.length := by omega
      have h1 : a ≤ a + i ∧ a + i < a + bs.length := by omega
      rw [cread, cget_cwrite h, if_pos h1, show a + i + 1 = a + (i + 1) by omega, ih (i + 1) (by omega),
        List.drop_eq_getElem_cons hlt]
      simp [hlt]
  simpa using aux bs.length 0 (by omega)

end Sys2Proof.Machine
end

