-- ==== Sys2Proof/Laws/PerInstr.lean ====
section
/-! SUPPORT. One lemma per constructor: an instruction's words have one of the three lengths of R115, and an event has no words. -/

namespace Sys2Proof.Laws

open Sys2Proof

-- One theorem at a time, so that the package compiles as one text in little memory.
set_option Elab.async false

theorem leBytes_length (n v : Nat) : (leBytes n v).length = n := by
  induction n generalizing v with
  | zero => simp [leBytes]
  | succ n ih => simp [leBytes, ih]

theorem packForm_length (op fn : Nat) (f : Form) :
    (packForm op fn f).length = 4 ∨ (packForm op fn f).length = 12 ∨ (packForm op fn f).length = 20 := by
  unfold packForm
  cases f.ext <;> cases f.lit <;> simp [leBytes_length]

theorem packWide_length (base : Nat) (o : WideOff) : (packWide base o).length = 12 := by
  cases o <;> simp [packWide, leBytes_length]

namespace EncodeLength

/-- An event has no words; an instruction has 4, 12 or 20 bytes. -/
def Statement (i : Instr) : Prop :=
  if i.isEvent then encode i = [] else (encode i).length = 4 ∨ (encode i).length = 12 ∨ (encode i).length = 20

theorem nop : Statement .nop := by simp [Statement, Instr.isEvent, encode, leBytes_length]
theorem nopExtended : Statement .nopExtended := by simp [Statement, Instr.isEvent, encode, leBytes_length]
theorem br : ∀ g off, Statement (.br g off) := by simp [Statement, Instr.isEvent, encode, leBytes_length]
theorem brWide : ∀ g off, Statement (.brWide g off) := fun _ o => .inr (.inl (packWide_length _ o))
theorem bru : ∀ g off, Statement (.bru g off) := by simp [Statement, Instr.isEvent, encode, leBytes_length]
theorem bruWide : ∀ g off, Statement (.bruWide g off) := fun _ o => .inr (.inl (packWide_length _ o))
theorem jmp : ∀ h g a, Statement (.jmp h g a) := by simp [Statement, Instr.isEvent, encode, leBytes_length]
theorem jmpExtended : ∀ h g a, Statement (.jmpExtended h g a) := by simp [Statement, Instr.isEvent, encode, leBytes_length]
theorem call : ∀ g fr off, Statement (.call g fr off) := by simp [Statement, Instr.isEvent, encode, leBytes_length]
theorem callWide : ∀ g fr off, Statement (.callWide g fr off) := fun _ _ o => .inr (.inl (packWide_length _ o))
theorem ret : ∀ g, Statement (.ret g) := by simp [Statement, Instr.isEvent, encode, leBytes_length]
theorem retExtended : ∀ g, Statement (.retExtended g) := by simp [Statement, Instr.isEvent, encode, leBytes_length]
theorem exit : ∀ g, Statement (.exit g) := by simp [Statement, Instr.isEvent, encode, leBytes_length]
theorem exitExtended : ∀ g, Statement (.exitExtended g) := by simp [Statement, Instr.isEvent, encode, leBytes_length]
theorem add : ∀ f, Statement (.add f) := fun f => packForm_length _ _ f
theorem addExtended : ∀ f, Statement (.addExtended f) := fun f => packForm_length _ _ f
theorem sub : ∀ f, Statement (.sub f) := fun f => packForm_length _ _ f
theorem subExtended : ∀ f, Statement (.subExtended f) := fun f => packForm_length _ _ f
theorem mul : ∀ f, Statement (.mul f) := fun f => packForm_length _ _ f
theorem mulExtended : ∀ f, Statement (.mulExtended f) := fun f => packForm_length _ _ f
theorem mad : ∀ f, Statement (.mad f) := fun f => packForm_length _ _ f
theorem madExtended : ∀ f, Statement (.madExtended f) := fun f => packForm_length _ _ f
theorem and : ∀ f, Statement (.and f) := fun f => packForm_length _ _ f
theorem andExtended : ∀ f, Statement (.andExtended f) := fun f => packForm_length _ _ f
theorem or : ∀ f, Statement (.or f) := fun f => packForm_length _ _ f
theorem orExtended : ∀ f, Statement (.orExtended f) := fun f => packForm_length _ _ f
theorem xor : ∀ f, Statement (.xor f) := fun f => packForm_length _ _ f
theorem xorExtended : ∀ f, Statement (.xorExtended f) := fun f => packForm_length _ _ f
theorem shl : ∀ f, Statement (.shl f) := fun f => packForm_length _ _ f
theorem shlExtended : ∀ f, Statement (.shlExtended f) := fun f => packForm_length _ _ f
theorem shr : ∀ f, Statement (.shr f) := fun f => packForm_length _ _ f
theorem shrExtended : ∀ f, Statement (.shrExtended f) := fun f => packForm_length _ _ f
theorem sar : ∀ f, Statement (.sar f) := fun f => packForm_length _ _ f
theorem sarExtended : ∀ f, Statement (.sarExtended f) := fun f => packForm_length _ _ f
theorem min : ∀ f, Statement (.min f) := fun f => packForm_length _ _ f
theorem minExtended : ∀ f, Statement (.minExtended f) := fun f => packForm_length _ _ f
theorem max : ∀ f, Statement (.max f) := fun f => packForm_length _ _ f
theorem maxExtended : ∀ f, Statement (.maxExtended f) := fun f => packForm_length _ _ f
theorem cmp : ∀ f, Statement (.cmp f) := fun f => packForm_length _ _ f
theorem cmpExtended : ∀ f, Statement (.cmpExtended f) := fun f => packForm_length _ _ f
theorem sel : ∀ f, Statement (.sel f) := fun f => packForm_length _ _ f
theorem selExtended : ∀ f, Statement (.selExtended f) := fun f => packForm_length _ _ f
theorem mov : ∀ f, Statement (.mov f) := fun f => packForm_length _ _ f
theorem movExtended : ∀ f, Statement (.movExtended f) := fun f => packForm_length _ _ f
theorem lea : ∀ f, Statement (.lea f) := fun f => packForm_length _ _ f
theorem leaExtended : ∀ f, Statement (.leaExtended f) := fun f => packForm_length _ _ f
theorem fadd : ∀ f, Statement (.fadd f) := fun f => packForm_length _ _ f
theorem faddExtended : ∀ f, Statement (.faddExtended f) := fun f => packForm_length _ _ f
theorem fmul : ∀ f, Statement (.fmul f) := fun f => packForm_length _ _ f
theorem fmulExtended : ∀ f, Statement (.fmulExtended f) := fun f => packForm_length _ _ f
theorem fma : ∀ f, Statement (.fma f) := fun f => packForm_length _ _ f
theorem fmaExtended : ∀ f, Statement (.fmaExtended f) := fun f => packForm_length _ _ f
theorem fmin : ∀ f, Statement (.fmin f) := fun f => packForm_length _ _ f
theorem fminExtended : ∀ f, Statement (.fminExtended f) := fun f => packForm_length _ _ f
theorem fmax : ∀ f, Statement (.fmax f) := fun f => packForm_length _ _ f
theorem fmaxExtended : ∀ f, Statement (.fmaxExtended f) := fun f => packForm_length _ _ f
theorem fcmp : ∀ f, Statement (.fcmp f) := fun f => packForm_length _ _ f
theorem fcmpExtended : ∀ f, Statement (.fcmpExtended f) := fun f => packForm_length _ _ f
theorem ld : ∀ f, Statement (.ld f) := fun f => packForm_length _ _ f
theorem ldExtended : ∀ f, Statement (.ldExtended f) := fun f => packForm_length _ _ f
theorem st : ∀ f, Statement (.st f) := fun f => packForm_length _ _ f
theorem stExtended : ∀ f, Statement (.stExtended f) := fun f => packForm_length _ _ f
theorem ldc : ∀ f, Statement (.ldc f) := fun f => packForm_length _ _ f
theorem ldcExtended : ∀ f, Statement (.ldcExtended f) := fun f => packForm_length _ _ f
theorem addc : ∀ f, Statement (.addc f) := fun f => packForm_length _ _ f
theorem mulh : ∀ f, Statement (.mulh f) := fun f => packForm_length _ _ f
theorem div : ∀ f, Statement (.div f) := fun f => packForm_length _ _ f
theorem rem : ∀ f, Statement (.rem f) := fun f => packForm_length _ _ f
theorem neg : ∀ f, Statement (.neg f) := fun f => packForm_length _ _ f
theorem abs : ∀ f, Statement (.abs f) := fun f => packForm_length _ _ f
theorem not : ∀ f, Statement (.not f) := fun f => packForm_length _ _ f
theorem rot : ∀ f, Statement (.rot f) := fun f => packForm_length _ _ f
theorem popc : ∀ f, Statement (.popc f) := fun f => packForm_length _ _ f
theorem clz : ∀ f, Statement (.clz f) := fun f => packForm_length _ _ f
theorem brev : ∀ f, Statement (.brev f) := fun f => packForm_length _ _ f
theorem bfx : ∀ f, Statement (.bfx f) := fun f => packForm_length _ _ f
theorem bfi : ∀ f, Statement (.bfi f) := fun f => packForm_length _ _ f
theorem idx : ∀ f, Statement (.idx f) := fun f => packForm_length _ _ f
theorem fsub : ∀ f, Statement (.fsub f) := fun f => packForm_length _ _ f
theorem frcp : ∀ f, Statement (.frcp f) := fun f => packForm_length _ _ f
theorem frsq : ∀ f, Statement (.frsq f) := fun f => packForm_length _ _ f
theorem fsqrt : ∀ f, Statement (.fsqrt f) := fun f => packForm_length _ _ f
theorem fex2 : ∀ f, Statement (.fex2 f) := fun f => packForm_length _ _ f
theorem flg2 : ∀ f, Statement (.flg2 f) := fun f => packForm_length _ _ f
theorem frnd : ∀ f, Statement (.frnd f) := fun f => packForm_length _ _ f
theorem fclass : ∀ f, Statement (.fclass f) := fun f => packForm_length _ _ f
theorem vdot4 : ∀ f, Statement (.vdot4 f) := fun f => packForm_length _ _ f
theorem hfma2 : ∀ f, Statement (.hfma2 f) := fun f => packForm_length _ _ f
theorem hadd2 : ∀ f, Statement (.hadd2 f) := fun f => packForm_length _ _ f
theorem hmul2 : ∀ f, Statement (.hmul2 f) := fun f => packForm_length _ _ f
theorem cvtTo : ∀ f, Statement (.cvtTo f) := fun f => packForm_length _ _ f
theorem cvtFr : ∀ f, Statement (.cvtFr f) := fun f => packForm_length _ _ f
theorem cvtBlk : ∀ f, Statement (.cvtBlk f) := fun f => packForm_length _ _ f
theorem cvtUblk : ∀ f, Statement (.cvtUblk f) := fun f => packForm_length _ _ f
theorem fcvt : ∀ f, Statement (.fcvt f) := fun f => packForm_length _ _ f
theorem icvt : ∀ f, Statement (.icvt f) := fun f => packForm_length _ _ f
theorem rq : ∀ f, Statement (.rq f) := fun f => packForm_length _ _ f
theorem pln : ∀ f, Statement (.pln f) := fun f => packForm_length _ _ f
theorem unpl : ∀ f, Statement (.unpl f) := fun f => packForm_length _ _ f
theorem rfl : ∀ f, Statement (.rfl f) := fun f => packForm_length _ _ f
theorem matchLanes : ∀ f, Statement (.matchLanes f) := fun f => packForm_length _ _ f
theorem voteAny : ∀ f, Statement (.voteAny f) := fun f => packForm_length _ _ f
theorem voteAll : ∀ f, Statement (.voteAll f) := fun f => packForm_length _ _ f
theorem voteBal : ∀ f, Statement (.voteBal f) := fun f => packForm_length _ _ f
theorem shflIdx : ∀ f, Statement (.shflIdx f) := fun f => packForm_length _ _ f
theorem shflUp : ∀ f, Statement (.shflUp f) := fun f => packForm_length _ _ f
theorem shflDn : ∀ f, Statement (.shflDn f) := fun f => packForm_length _ _ f
theorem shflXor : ∀ f, Statement (.shflXor f) := fun f => packForm_length _ _ f
theorem lmaskLt : ∀ f, Statement (.lmaskLt f) := fun f => packForm_length _ _ f
theorem lmaskLe : ∀ f, Statement (.lmaskLe f) := fun f => packForm_length _ _ f
theorem lmaskGt : ∀ f, Statement (.lmaskGt f) := fun f => packForm_length _ _ f
theorem lmaskGe : ∀ f, Statement (.lmaskGe f) := fun f => packForm_length _ _ f
theorem bcst : ∀ f, Statement (.bcst f) := fun f => packForm_length _ _ f
theorem calls : ∀ f, Statement (.calls f) := fun f => packForm_length _ _ f
theorem yield : ∀ f, Statement (.yield f) := fun f => packForm_length _ _ f
theorem trap : ∀ f, Statement (.trap f) := fun f => packForm_length _ _ f
theorem waitf : ∀ f, Statement (.waitf f) := fun f => packForm_length _ _ f
theorem acq : ∀ f, Statement (.acq f) := fun f => packForm_length _ _ f
theorem rel : ∀ f, Statement (.rel f) := fun f => packForm_length _ _ f
theorem ldk : ∀ f, Statement (.ldk f) := fun f => packForm_length _ _ f
theorem stk : ∀ f, Statement (.stk f) := fun f => packForm_length _ _ f
theorem atomAdd : ∀ f, Statement (.atomAdd f) := fun f => packForm_length _ _ f
theorem atomFadd : ∀ f, Statement (.atomFadd f) := fun f => packForm_length _ _ f
theorem atomMin : ∀ f, Statement (.atomMin f) := fun f => packForm_length _ _ f
theorem atomMax : ∀ f, Statement (.atomMax f) := fun f => packForm_length _ _ f
theorem atomAnd : ∀ f, Statement (.atomAnd f) := fun f => packForm_length _ _ f
theorem atomOr : ∀ f, Statement (.atomOr f) := fun f => packForm_length _ _ f
theorem atomXor : ∀ f, Statement (.atomXor f) := fun f => packForm_length _ _ f
theorem atomXchg : ∀ f, Statement (.atomXchg f) := fun f => packForm_length _ _ f
theorem atomCas : ∀ f, Statement (.atomCas f) := fun f => packForm_length _ _ f
theorem redAdd : ∀ f, Statement (.redAdd f) := fun f => packForm_length _ _ f
theorem redFadd : ∀ f, Statement (.redFadd f) := fun f => packForm_length _ _ f
theorem redMin : ∀ f, Statement (.redMin f) := fun f => packForm_length _ _ f
theorem redMax : ∀ f, Statement (.redMax f) := fun f => packForm_length _ _ f
theorem redAnd : ∀ f, Statement (.redAnd f) := fun f => packForm_length _ _ f
theorem redOr : ∀ f, Statement (.redOr f) := fun f => packForm_length _ _ f
theorem redXor : ∀ f, Statement (.redXor f) := fun f => packForm_length _ _ f
theorem poolA : ∀ f, Statement (.poolA f) := fun f => packForm_length _ _ f
theorem poolF : ∀ f, Statement (.poolF f) := fun f => packForm_length _ _ f
theorem cpy : ∀ f, Statement (.cpy f) := fun f => packForm_length _ _ f
theorem cpwp : ∀ f, Statement (.cpwp f) := fun f => packForm_length _ _ f
theorem cpwt : ∀ f, Statement (.cpwt f) := fun f => packForm_length _ _ f
theorem cpcan : ∀ f, Statement (.cpcan f) := fun f => packForm_length _ _ f
theorem binit : ∀ f, Statement (.binit f) := fun f => packForm_length _ _ f
theorem barv : ∀ f, Statement (.barv f) := fun f => packForm_length _ _ f
theorem bexp : ∀ f, Statement (.bexp f) := fun f => packForm_length _ _ f
theorem bwait : ∀ f, Statement (.bwait f) := fun f => packForm_length _ _ f
theorem btry : ∀ f, Statement (.btry f) := fun f => packForm_length _ _ f
theorem phase : ∀ f, Statement (.phase f) := fun f => packForm_length _ _ f
theorem fence : ∀ f, Statement (.fence f) := fun f => packForm_length _ _ f
theorem fopd : ∀ f, Statement (.fopd f) := fun f => packForm_length _ _ f
theorem tokwt : ∀ f, Statement (.tokwt f) := fun f => packForm_length _ _ f
theorem mma : ∀ f, Statement (.mma f) := fun f => packForm_length _ _ f
theorem mmac : ∀ f, Statement (.mmac f) := fun f => packForm_length _ _ f
theorem msmx : ∀ f, Statement (.msmx f) := fun f => packForm_length _ _ f
theorem mdrn : ∀ f, Statement (.mdrn f) := fun f => packForm_length _ _ f
theorem mzero : ∀ f, Statement (.mzero f) := fun f => packForm_length _ _ f
theorem mlda : ∀ f, Statement (.mlda f) := fun f => packForm_length _ _ f
theorem mside : ∀ f, Statement (.mside f) := fun f => packForm_length _ _ f
theorem cnar : ∀ f, Statement (.cnar f) := fun f => packForm_length _ _ f
theorem cperm : ∀ f, Statement (.cperm f) := fun f => packForm_length _ _ f
theorem cget : ∀ f, Statement (.cget f) := fun f => packForm_length _ _ f
theorem cchk : ∀ f, Statement (.cchk f) := fun f => packForm_length _ _ f
theorem cmint : ∀ f, Statement (.cmint f) := fun f => packForm_length _ _ f
theorem lfill : ∀ f, Statement (.lfill f) := fun f => packForm_length _ _ f
theorem lsplit : ∀ f, Statement (.lsplit f) := fun f => packForm_length _ _ f
theorem ivpt : ∀ f, Statement (.ivpt f) := fun f => packForm_length _ _ f
theorem ivlo : ∀ f, Statement (.ivlo f) := fun f => packForm_length _ _ f
theorem ivhi : ∀ f, Statement (.ivhi f) := fun f => packForm_length _ _ f
theorem lsum : ∀ f, Statement (.lsum f) := fun f => packForm_length _ _ f
theorem sopen : ∀ f, Statement (.sopen f) := fun f => packForm_length _ _ f
theorem srun : ∀ f, Statement (.srun f) := fun f => packForm_length _ _ f
theorem stopk : ∀ f, Statement (.stopk f) := fun f => packForm_length _ _ f
theorem sstat : ∀ f, Statement (.sstat f) := fun f => packForm_length _ _ f
theorem launch : ∀ f, Statement (.launch f) := fun f => packForm_length _ _ f
theorem lqry : ∀ f, Statement (.lqry f) := fun f => packForm_length _ _ f
theorem lcan : ∀ f, Statement (.lcan f) := fun f => packForm_length _ _ f
theorem sysrd : ∀ f, Statement (.sysrd f) := fun f => packForm_length _ _ f
theorem syswr : ∀ f, Statement (.syswr f) := fun f => packForm_length _ _ f
theorem eret : ∀ f, Statement (.eret f) := fun f => packForm_length _ _ f
theorem tlbiPage : ∀ f, Statement (.tlbiPage f) := fun f => packForm_length _ _ f
theorem tlbiTen : ∀ f, Statement (.tlbiTen f) := fun f => packForm_length _ _ f
theorem tlbiAll : ∀ f, Statement (.tlbiAll f) := fun f => packForm_length _ _ f
theorem slogSt : ∀ f, Statement (.slogSt f) := fun f => packForm_length _ _ f
theorem slogRd : ∀ f, Statement (.slogRd f) := fun f => packForm_length _ _ f
theorem slogDh : ∀ f, Statement (.slogDh f) := fun f => packForm_length _ _ f
theorem freeze : ∀ f, Statement (.freeze f) := fun f => packForm_length _ _ f
theorem thaw : ∀ f, Statement (.thaw f) := fun f => packForm_length _ _ f
theorem thawIp : ∀ f, Statement (.thawIp f) := fun f => packForm_length _ _ f
theorem winsp : ∀ f, Statement (.winsp f) := fun f => packForm_length _ _ f
theorem winfl : ∀ f, Statement (.winfl f) := fun f => packForm_length _ _ f
theorem haltGrid : ∀ f, Statement (.haltGrid f) := fun f => packForm_length _ _ f
theorem haltTen : ∀ f, Statement (.haltTen f) := fun f => packForm_length _ _ f
theorem barrelTurn : Statement .barrelTurn := Eq.refl _
theorem quantumExpiry : ∀ r, Statement (.quantumExpiry r) := fun _ => Eq.refl _
theorem longLatencyCompletion : ∀ r id, Statement (.longLatencyCompletion r id) := fun _ _ => Eq.refl _
theorem acquireDeadlockBreak : ∀ core qtr, Statement (.acquireDeadlockBreak core qtr) := fun _ _ => Eq.refl _
theorem spilledRefill : ∀ core qtr, Statement (.spilledRefill core qtr) := fun _ _ => Eq.refl _
theorem gridRetire : ∀ part handle, Statement (.gridRetire part handle) := fun _ _ => Eq.refl _
theorem gridStart : ∀ part, Statement (.gridStart part) := fun _ => Eq.refl _
theorem clusterAdmission : ∀ part handle idx, Statement (.clusterAdmission part handle idx) := fun _ _ _ => Eq.refl _
theorem cooperativeAdmission : ∀ part handle, Statement (.cooperativeAdmission part handle) := fun _ _ => Eq.refl _
theorem coreWithdraw : ∀ part cores, Statement (.coreWithdraw part cores) := fun _ _ => Eq.refl _
theorem parkedResume : ∀ part handle, Statement (.parkedResume part handle) := fun _ _ => Eq.refl _
theorem publicationBufferDrain : ∀ core, Statement (.publicationBufferDrain core) := fun _ => Eq.refl _
theorem sideLogReplay : ∀ core, Statement (.sideLogReplay core) := fun _ => Eq.refl _
theorem faultRecordWrite : ∀ core qtr, Statement (.faultRecordWrite core qtr) := fun _ _ => Eq.refl _
theorem systemGroupService : ∀ core qtr, Statement (.systemGroupService core qtr) := fun _ _ => Eq.refl _
theorem claspRequest : ∀ engine, Statement (.claspRequest engine) := fun _ => Eq.refl _
theorem hotLineWriteback : ∀ engine line, Statement (.hotLineWriteback engine line) := fun _ _ => Eq.refl _
theorem pageMoveRequest : ∀ ten va m, Statement (.pageMoveRequest ten va m) := fun _ _ _ => Eq.refl _
theorem pageMoveComplete : ∀ ten va, Statement (.pageMoveComplete ten va) := fun _ _ => Eq.refl _
theorem engineCompress : ∀ ten va, Statement (.engineCompress ten va) := fun _ _ => Eq.refl _
theorem copySector : ∀ core ch recv, Statement (.copySector core ch recv) := fun _ _ _ => Eq.refl _
theorem matrixOperationStart : ∀ core, Statement (.matrixOperationStart core) := fun _ => Eq.refl _
theorem matrixUnit : ∀ core, Statement (.matrixUnit core) := fun _ => Eq.refl _
theorem matrixOperationComplete : ∀ core, Statement (.matrixOperationComplete core) := fun _ => Eq.refl _
theorem mmacQuarterEnqueue : ∀ core, Statement (.mmacQuarterEnqueue core) := fun _ => Eq.refl _
theorem barrierUnitOperation : ∀ core, Statement (.barrierUnitOperation core) := fun _ => Eq.refl _
theorem strandBlock : ∀ core sess, Statement (.strandBlock core sess) := fun _ _ => Eq.refl _
theorem loupeBatchStart : ∀ r, Statement (.loupeBatchStart r) := fun _ => Eq.refl _
theorem freezeReachCore : ∀ ten core, Statement (.freezeReachCore ten core) := fun _ _ => Eq.refl _
theorem reconvergenceTimeout : ∀ ten core, Statement (.reconvergenceTimeout ten core) := fun _ _ => Eq.refl _
theorem freezeComplete : ∀ ten, Statement (.freezeComplete ten) := fun _ => Eq.refl _
theorem peerRequest : ∀ q, Statement (.peerRequest q) := fun _ => Eq.refl _
theorem resolvedMessage : ∀ dev va, Statement (.resolvedMessage dev va) := fun _ _ => Eq.refl _
theorem remoteTimeout : ∀ r id, Statement (.remoteTimeout r id) := fun _ _ => Eq.refl _
theorem pagePull : ∀ ten va, Statement (.pagePull ten va) := fun _ _ => Eq.refl _
theorem pullService : ∀ ten va dev, Statement (.pullService ten va dev) := fun _ _ _ => Eq.refl _
theorem pullRefusalTimeout : ∀ ten va, Statement (.pullRefusalTimeout ten va) := fun _ _ => Eq.refl _
theorem forwardedAtomic : ∀ q, Statement (.forwardedAtomic q) := fun _ => Eq.refl _
theorem routeSwitch : ∀ old new, Statement (.routeSwitch old new) := fun _ _ => Eq.refl _
theorem migration : ∀ ten act, Statement (.migration ten act) := fun _ _ => Eq.refl _
theorem managerRequest : ∀ core qtr code ten, Statement (.managerRequest core qtr code ten) := fun _ _ _ _ => Eq.refl _
theorem haltNotice : ∀ core, Statement (.haltNotice core) := fun _ => Eq.refl _
theorem coreRepair : ∀ core spare, Statement (.coreRepair core spare) := fun _ _ => Eq.refl _
theorem voltageReplan : Statement .voltageReplan := Eq.refl _
theorem hostRead : ∀ off len, Statement (.hostRead off len) := fun _ _ => Eq.refl _
theorem hostWrite : ∀ off data, Statement (.hostWrite off data) := fun _ _ => Eq.refl _
theorem hostAtomicop : ∀ off size op uns value cmp, Statement (.hostAtomicop off size op uns value cmp) := fun _ _ _ _ _ _ => Eq.refl _
theorem hostFaultService : Statement .hostFaultService := Eq.refl _
theorem caphi : ∀ bell value, Statement (.caphi bell value) := fun _ _ => Eq.refl _
theorem hostLaunchOutcome : ∀ bell, Statement (.hostLaunchOutcome bell) := fun _ => Eq.refl _
theorem crst : Statement .crst := Eq.refl _
theorem attestationSign : Statement .attestationSign := Eq.refl _
theorem hostRegisterWrite : ∀ off data, Statement (.hostRegisterWrite off data) := fun _ _ => Eq.refl _
theorem atsInvalidateRequest : ∀ pasid va, Statement (.atsInvalidateRequest pasid va) := fun _ _ => Eq.refl _
theorem pageRequestResponse : ∀ pasid va code, Statement (.pageRequestResponse pasid va code) := fun _ _ _ => Eq.refl _
theorem computeReset : Statement .computeReset := Eq.refl _
theorem computeResetComplete : Statement .computeResetComplete := Eq.refl _
theorem fullReset : Statement .fullReset := Eq.refl _
theorem powerGood : Statement .powerGood := Eq.refl _
theorem bringupStepEnd : Statement .bringupStepEnd := Eq.refl _
theorem attestationReportSigned : Statement .attestationReportSigned := Eq.refl _
theorem atsTranslationCompletion : ∀ pasid va ans, Statement (.atsTranslationCompletion pasid va ans) := fun _ _ _ => Eq.refl _
theorem partitionCreate : ∀ pid ndev didx cores, Statement (.partitionCreate pid ndev didx cores) := fun _ _ _ _ => Eq.refl _
theorem lsumBlock : ∀ r id, Statement (.lsumBlock r id) := fun _ _ => Eq.refl _
theorem peerRetryResponse : ∀ r id, Statement (.peerRetryResponse r id) := fun _ _ => Eq.refl _
theorem peerRefusalResponse : ∀ r id, Statement (.peerRefusalResponse r id) := fun _ _ => Eq.refl _

end EncodeLength

end Sys2Proof.Laws
end

