-- ==== Sys2Proof/Laws/Registers.lean ====
section
/-! SUPPORT. Laws of register writes: what a write of a register, and a write of one result in each of several lanes, leaves
of the group. -/

namespace Sys2Proof.Machine

open Sys2Proof

-- One theorem at a time, so that the package compiles as one text in little memory.
set_option Elab.async false

@[simp] theorem doneUncovered_false {g : Group} {x : Reg} (h : g.uncovered x = false) : g.doneUncovered x = false := by
  simp only [Group.uncovered, List.any_eq_false] at h
  simp only [Group.doneUncovered, List.any_eq_false]
  intro p hp
  have := h p hp
  simp_all

@[simp] theorem noteClash_free {g : Group} {x : Reg} (h : g.uncovered x = false) : g.noteClash x = g := by
  simp [Group.noteClash, h]

/-- A stack word written where no uncovered operation writes it. -/
theorem setWord_free {g : Group} {lane w : Nat} (h : g.uncovered (.word lane w) = false) (tk : Nat) (v : Word) :
    g.setWord tk lane w v = g.modThread lane fun t => { t with stack := mset t.stack w v } := by
  simp [Group.setWord, h]

/-- A scalar written where no uncovered operation writes it. -/
theorem setScalar_free {g : Group} {n : Nat} (h : g.uncovered (.scalar n) = false) (tk : Nat) (v : DWord) :
    g.setScalar tk n v = { g with scal := lput 0 g.scal n v, ctag := g.ctag &&& ~~~(1#24 <<< (n / 2)) } := by
  simp [Group.setScalar, h]

/-- A predicate written where no uncovered operation writes it. -/
theorem setPred_free {g : Group} {lane n : Nat} (h : g.uncovered (.pred lane n) = false) (tk : Nat) (v : Tri) :
    g.setPred tk lane n v = if n = 0 then g else g.modThread lane fun t => { t with preds := lput .f t.preds (n - 1) v } := by
  unfold Group.setPred
  split <;> simp [h]

/-- A write reads back: the word written, every other word of the lane and every other lane as before. -/
theorem setWord_reads {g : Group} {lane w : Nat} (h : g.uncovered (.word lane w) = false) (tk : Nat) (v : Word) (m k : Nat) :
    mget ((g.setWord tk lane w v).thread m).stack k =
      if m = lane ∧ k = w then some v else mget (g.thread m).stack k := by
  rw [setWord_free h]
  by_cases h1 : m = lane
  · subst h1; by_cases h2 : k = w <;> simp [mget_mset, h2]
  · simp [h1]

/-- The stack of a lane with a value of w bits in register n of an ordinary grid. -/
def Thread.withVec (n w v : Nat) (t : Thread) : Thread :=
  if w = 64 then
    { t with stack := mset (mset t.stack (t.wb + n) (BitVec.ofNat 32 (v % 2 ^ 32))) (t.wb + n + 1) (BitVec.ofNat 32 (v / 2 ^ 32)) }
  else { t with stack := mset t.stack (t.wb + n) (BitVec.ofNat 32 v) }

@[simp] theorem uncovered_modThread (g : Group) (l : Nat) (u : Thread → Thread) (x : Reg) :
    (g.modThread l u).uncovered x = g.uncovered x := rfl

@[simp] theorem lput_lput {α : Type} (d : α) (l : List α) (n : Nat) (v w : α) : lput d (lput d l n v) n w = lput d l n w := by
  induction l generalizing n with
  | nil => induction n with
    | zero => rfl
    | succ n ih => simp [lput, ih]
  | cons a r ih => cases n <;> simp [lput, ih]

theorem modThread_modThread (g : Group) (l : Nat) (u v : Thread → Thread) :
    (g.modThread l u).modThread l v = g.modThread l fun t => v (u t) := by
  have h : (g.modThread l u).thread l = u (g.thread l) := by simp
  unfold Group.modThread at h ⊢
  simp [h]

theorem setReg_plain {g : Group} {lane n : Nat} (hp : g.lpass = false)
    (h : g.uncovered (.word lane ((g.thread lane).wb + n)) = false) (tk lo hi : Nat) (x : Hidden) :
    g.setReg tk lane n lo hi x =
      g.modThread lane fun t => { t with stack := mset t.stack ((g.thread lane).wb + n) (BitVec.ofNat 32 lo) } := by
  have hw : g.wordOf lane n = (g.thread lane).wb + n := by simp [Group.wordOf, Group.regWords, hp]
  have e : g.setWord tk lane ((g.thread lane).wb + n) (BitVec.ofNat 32 lo) = g.modThread lane fun t =>
      { t with stack := mset t.stack ((g.thread lane).wb + n) (BitVec.ofNat 32 lo) } := setWord_free h tk _
  show (if (g.setWord tk lane (g.wordOf lane n) (BitVec.ofNat 32 lo)).lpass = true then _ else _) = _
  rw [hw, e, if_neg (by simp [hp])]

/-- A result written into a vector register or pair of a lane of an ordinary grid. -/
theorem writeIv_plain {g : Group} {lane n w : Nat} (hp : g.lpass = false) (hw : w = 32 ∨ w = 64)
    (h : ∀ i < w / 32, g.uncovered (.word lane ((g.thread lane).wb + n + i)) = false) (tk : Nat) (i : Iv) :
    g.writeIv tk lane n w i = g.modThread lane (Thread.withVec n w i.lo) := by
  have same : ∀ u v : Thread → Thread, u (g.thread lane) = v (g.thread lane) → g.modThread lane u = g.modThread lane v := by
    intro u v e; simp [Group.modThread, e]
  have h0 := h 0
  rcases hw with rfl | rfl
  · unfold Group.writeIv
    rw [if_neg (by decide), setReg_plain hp (by simpa using h0 (by decide))]
    exact same _ _ rfl
  · have h1 := h 1 (by decide)
    unfold Group.writeIv
    rw [if_pos rfl, setReg_plain hp (by simpa using h0 (by decide)), setReg_plain (by simp [hp]) (by simpa [Nat.add_assoc] using h1),
      modThread_modThread]
    exact same _ _ (by simp [Thread.withVec, Nat.add_assoc])

/-- Changes of several distinct lanes, one after another, each of the lane's own thread. -/
theorem foldl_lanes {step : Group → Nat → Group} {u : Nat → Thread → Thread} {ok : Group → Prop}
    (hs : ∀ g l, ok g → step g l = g.modThread l (u l)) (hk : ∀ g l, ok g → ok (g.modThread l (u l))) :
    ∀ (ls : List Nat) (g : Group), ok g → ls.foldl step g = g.modThreads ls u := by
  intro ls
  induction ls with
  | nil => intro g _; rfl
  | cons l r ih =>
    intro g hg
    rw [List.foldl_cons, hs g l hg, ih _ (hk g l hg)]
    rfl

@[simp] theorem withVec_wb (n w v : Nat) (t : Thread) : (t.withVec n w v).wb = t.wb := by
  unfold Thread.withVec; split <;> rfl

/-- What stays true of a group while an instruction writes its lanes: an ordinary grid, the same outstanding operations and
the same windows. -/
def SameWindows (c : Ctx) (g : Group) : Prop :=
  g.lpass = false ∧ g.pend = c.g.pend ∧ ∀ l, (g.thread l).wb = (c.g.thread l).wb

theorem sameWindows_self {c : Ctx} (h : c.g.lpass = false) : SameWindows c c.g := ⟨h, rfl, fun _ => rfl⟩

theorem sameWindows_modThread {c : Ctx} {g : Group} (h : SameWindows c g) (l : Nat) {u : Thread → Thread}
    (hu : ∀ t, (u t).wb = t.wb) : SameWindows c (g.modThread l u) := by
  refine ⟨h.1, h.2.1, fun m => ?_⟩
  by_cases e : m = l
  · subst e; simp [hu, h.2.2]
  · simp [e, h.2.2]

theorem sameWindows_uncovered {c : Ctx} {g : Group} (h : SameWindows c g) (x : Reg) : g.uncovered x = c.g.uncovered x := by
  simp [Group.uncovered, h.2.1]

/-- The writes of per-lane results in an ordinary grid. -/
theorem foldl_writeIv {c : Ctx} {ls : List Nat} {n w : Nat} (hp : c.g.lpass = false) (hw : w = 32 ∨ w = 64)
    (h : ∀ l ∈ ls, ∀ i < w / 32, c.g.uncovered (.word l ((c.g.thread l).wb + n + i)) = false) (val : Nat → Iv) :
    ls.foldl (fun g l => g.writeIv c.tk l n w (val l)) c.g = c.g.modThreads ls fun l => Thread.withVec n w (val l).lo := by
  have key : ∀ (ls : List Nat) (g : Group), (∀ l ∈ ls, ∀ i < w / 32, c.g.uncovered (.word l ((c.g.thread l).wb + n + i)) = false) →
      SameWindows c g → ls.foldl (fun g l => g.writeIv c.tk l n w (val l)) g = g.modThreads ls fun l => Thread.withVec n w (val l).lo := by
    intro ls
    induction ls with
    | nil => intro g _ _; rfl
    | cons l r ih =>
      intro g hf hg
      rw [List.foldl_cons, writeIv_plain hg.1 hw ?_]
      · exact ih _ (fun m hm => hf m (List.mem_cons_of_mem _ hm)) (sameWindows_modThread hg l (withVec_wb n w _))
      · intro i hi
        rw [sameWindows_uncovered hg, hg.2.2]
        exact hf l List.mem_cons_self i hi
  exact key ls c.g h (sameWindows_self hp)

/-- Per-thread results into a vector register of an ordinary grid, where no guard is undecided. -/
theorem putLanes_plain {c : Ctx} {gd : Guard} {n w : Nat} (hp : c.g.lpass = false) (hw : w = 32 ∨ w = 64)
    (h : ∀ l ∈ c.on gd, ∀ i < w / 32, c.g.uncovered (.word l ((c.g.thread l).wb + n + i)) = false) (val : Nat → Iv) :
    c.putLanes gd n w ((c.on gd).map fun l => (l, .val (val l))) =
      (c.g.modThreads (c.on gd) fun l => Thread.withVec n w (val l).lo, []) := by
  have key : ∀ (ls : List Nat) (g : Group), (∀ l ∈ ls, c.guard gd l = .t) →
      (ls.map fun l => ((l, LRes.val (val l)) : Nat × LRes)).foldl (c.putLane gd n w) (g, []) =
        (ls.foldl (fun g l => g.writeIv c.tk l n w (val l)) g, []) := by
    intro ls
    induction ls with
    | nil => intro g _; rfl
    | cons l r ih =>
      intro g hg
      simp only [List.map_cons, List.foldl_cons, Ctx.putLane, Group.writeTri, hg l List.mem_cons_self]
      exact ih _ fun m hm => hg m (List.mem_cons_of_mem _ hm)
  unfold Ctx.putLanes
  rw [key _ _ fun l hl => (mem_on.1 hl).2, foldl_writeIv hp hw h]

/-- Nothing but threads changes. -/
theorem modThreads_rest (ls : List Nat) (u : Nat → Thread → Thread) (g : Group) :
    g.modThreads ls u = { g with threads := (g.modThreads ls u).threads } := by
  induction ls generalizing g with
  | nil => rfl
  | cons l r ih =>
    have h := ih (g.modThread l (u l))
    simp only [Group.modThreads, List.foldl_cons] at h ⊢
    rw [h]
    rfl

end Sys2Proof.Machine
end

