-- ==== Sys2Proof/Laws/Results.lean ====
section
/-! SUPPORT. Laws of the register results: what an instruction that writes one result leaves, for every operation. -/

namespace Sys2Proof.Machine

open Sys2Proof

-- One theorem at a time, so that the package compiles as one text in little memory.
set_option Elab.async false

/-- In an ordinary grid every value read is a point. -/
theorem readIv_point {g : Group} (h : g.lpass = false) (tk : Nat) (lit : Option DWord) (w lane : Nat) (o : Opnd) :
    (g.readIv tk lit w lane o).isPoint = true := by
  cases o <;> simp [Group.readIv, h, Iv.isPoint, Iv.pt, Group.latchIv]
  split <;> simp

/-- An operation on points gives the point of its value. -/
theorem alu_at_points {x : Alu} {vs : List Iv} (h : vs.all Iv.isPoint = true) :
    x.at vs = .val (Iv.pt (x.kind vs) (x.pt (vs.map (·.lo)) % 2 ^ x.dw)) := by simp [Alu.at, h]

theorem sources_points {c : Ctx} (h : c.g.lpass = false) (lit : Option DWord) (srcs : List (Opnd × Nat)) (lane : Nat) :
    (c.sources lit srcs lane).all Iv.isPoint = true := by
  simp only [Ctx.sources, List.all_map, List.all_eq_true]
  intro x _
  exact readIv_point h _ _ _ _ _

/-- The values that a lane reads. -/
def Ctx.values (c : Ctx) (lit : Option DWord) (srcs : List (Opnd × Nat)) (lane : Nat) : List Nat :=
  srcs.map fun x => c.g.read c.tk lit x.2 lane x.1

theorem sources_values (c : Ctx) (lit : Option DWord) (srcs : List (Opnd × Nat)) (lane : Nat) :
    (c.sources lit srcs lane).map (·.lo) = c.values lit srcs lane := by
  simp [Ctx.sources, Ctx.values, Group.read, Function.comp_def]

/-- The result of an operation in the lanes of an ordinary grid. -/
theorem alu_vector {c : Ctx} {f : Form} {srcs : List (Opnd × Nat)} {x : Alu} {n : Fin 32} (hp : c.g.lpass = false)
    (hg : ∀ l ∈ c.set, c.guard f.guard l ≠ .u) (hd : f.d = .v n) (hw : x.dw = 32 ∨ x.dw = 64)
    (h : ∀ l ∈ c.on f.guard, ∀ i < x.dw / 32, c.g.uncovered (.word l ((c.g.thread l).wb + n.val + i)) = false) :
    c.alu f srcs x = (c.g.modThreads (c.on f.guard) fun l =>
      Thread.withVec n.val x.dw (x.pt (c.values f.lit srcs l) % 2 ^ x.dw), []) := by
  unfold Ctx.alu
  rw [hd, if_neg (by simp [isS]), notOff_eq_on hg]
  have e : ((c.on f.guard).map fun l => (l, x.at (c.sources f.lit srcs l))) =
      (c.on f.guard).map fun l => (l, LRes.val (Iv.pt (x.kind (c.sources f.lit srcs l)) (x.pt (c.values f.lit srcs l) % 2 ^ x.dw))) := by
    apply List.map_congr_left
    intro l _
    rw [alu_at_points (sources_points hp f.lit srcs l), sources_values]
  rw [e]
  exact putLanes_plain hp hw h _

/-- A result made once into a scalar register. -/
theorem alu_scalar {c : Ctx} {f : Form} {srcs : List (Opnd × Nat)} {x : Alu} {n : Fin 48} (hd : f.d = .s n)
    (hon : c.on f.guard ≠ []) :
    c.alu f srcs x = (c.g.setScalar c.tk n.val (BitVec.ofNat 64 (x.pt (c.values f.lit srcs 0) % 2 ^ x.dw)), []) := by
  unfold Ctx.alu Ctx.putScalar
  rw [hd, if_pos (by simp [isS]), if_neg (by simpa using hon), sources_values]
  rfl

/-- The group that an instruction leaves after changes of its own threads only. -/
theorem left_threads {s : State} {c : Ctx} (hs : s.ctx = some c) (hold : BitVec 2) (a : Opnd) (lit : Option DWord) (aw : Nat)
    {ls : List Nat} (hn : ls.Nodup) (hsub : ∀ l ∈ ls, l ∈ c.set) {u : Nat → Thread → Thread} {own : Group → Group}
    (hown : own c.g = { own c.g with threads := c.g.threads, latches := c.g.latches })
    (hl : ∀ l t, (u l t).live = t.live) :
    ∃ g, c.advance (c.latched hold a lit aw ((own c.g).modThreads ls u)) = g ∧
      g = { own c.g with threads := g.threads, latches := (c.latched hold a lit aw c.g).latches } ∧
      ∀ l, g.thread l = if l ∈ c.set then c.past (if l ∈ ls then u l (c.g.thread l) else c.g.thread l) else c.g.thread l := by
  refine ⟨_, rfl, ?_, ?_⟩
  · rw [advance_rest, latched_rest c hold a lit aw _ (by rw [Group.modThreads_latches, hown]), modThreads_rest]
  · intro l
    have ht : ∀ m, (own c.g).thread m = c.g.thread m := by intro m; rw [hown]; rfl
    have e : ∀ m, (c.latched hold a lit aw ((own c.g).modThreads ls u)).thread m =
        if m ∈ ls then u m (c.g.thread m) else c.g.thread m := by
      intro m
      rw [latched_rest c hold a lit aw _ (by rw [Group.modThreads_latches, hown])]
      show ((own c.g).modThreads ls u).thread m = _
      rw [Group.modThreads_thread hn, ht]
    rw [advance_thread (ctx_nodup hs), e]
    by_cases h1 : l ∈ c.set
    · by_cases h2 : l ∈ ls <;> simp [h1, h2, hl, (ctx_live hs h1).2]
    · have h2 : l ∉ ls := fun h => h1 (hsub l h)
      simp [h1, h2]

end Sys2Proof.Machine
end

