-- ==== Sys2Proof/Tests/Worlds.lean ====
section
/-! SUPPORT. The small states of the tests and witnesses. -/

namespace Sys2Proof.Tests

open Sys2Proof Sys2Proof.Machine Sys2Proof.Claims

-- One theorem at a time, so that the package compiles as one text in little memory.
set_option Elab.async false

/-- A live thread at the instruction, with some words in its first registers. -/
def laneOf (ws : List Nat) : Thread :=
  { Thread.start with pc := BitVec.ofNat 64 bootPc, left := some 1, seta := 0, setb := 1, stack := ws.zipIdx.map fun x => (x.2, BitVec.ofNat 32 x.1) }

/-- A thread that has exited. -/
def gone : Thread := { laneOf [] with live := false }

/-- A group of some live threads, with some scalar registers. -/
def groupOf (ls : List Thread) (sc : List Nat) : Group :=
  { bootGroup with threads := ls ++ List.replicate (64 - ls.length) gone, scal := (sc.map (BitVec.ofNat 64)) ++ List.replicate (48 - sc.length) 0 }

/-- A state whose turn belongs to a group, with some bytes at its PC. -/
def at_ (g : Group) (code : List Byte) : State := (State.reset.boot code).setGroup ⟨0, 0, 0⟩ g

/-- The words of a lane's first registers. -/
def wordsA : List Nat := [7, 3, 12, 5, 9, 0, 2, 1]
/-- Those of another. -/
def wordsB : List Nat := [1, 8, 0x7fffffff, 2, 6, 0, 4, 0xffffffff]

/-- Two live threads. -/
def two : Group := groupOf [laneOf wordsA, laneOf wordsB] [0, 40, 2, 3]
/-- The state in which they issue. -/
def wS : State := at_ two []

/-- What issues in a state. -/
def ctxOf (s : State) : Ctx := s.ctx.getD ⟨⟨0, 0, 0⟩, Group.start, [], 0, 0, false, 0⟩

theorem ctx_of (s : State) (h : s.ctx.isSome = true) : s.ctx = some (ctxOf s) := by
  unfold ctxOf
  cases hs : s.ctx with
  | none => simp [hs] at h
  | some c => rfl

/-- The issuing set is decided, and some thread's guard holds. -/
def surely (c : Ctx) (gd : Guard) : Bool := !c.g.lpass && (c.set.all fun l => c.guard gd l != .u) && !(c.on gd).isEmpty

theorem issuing_of (s : State) (gd : Guard) (h : (s.ctx.isSome && surely (ctxOf s) gd) = true) : Issuing s (ctxOf s) gd := by
  simp only [surely, Bool.and_eq_true, Bool.not_eq_true', List.all_eq_true, bne_iff_ne, ne_eq, List.isEmpty_eq_false_iff] at h
  exact ⟨ctx_of s h.1, h.2.1.1, h.2.1.2, h.2.2⟩

theorem pair_of {α β : Type} {p : α × β} {y : β} (h : p.2 = y) : p = (p.1, y) := by rw [← h]

theorem ok_of {ε α : Type} {x : Except ε α} {a : α} (h : x.toOption = some a) : x = .ok a := by
  cases x with
  | error e => simp [Except.toOption] at h
  | ok b => simpa [Except.toOption] using h

/-- What an error is. -/
def wrongOf {ε α : Type} : Except ε α → Option ε
  | .error e => some e
  | .ok _ => none

theorem error_of {ε α : Type} {x : Except ε α} {e : ε} (h : wrongOf x = some e) : x = .error e := by
  cases x with
  | error d => simpa [wrongOf] using h
  | ok b => simp [wrongOf] at h

/-- The bytes of an instruction are in place. -/
def coded (g : Group) (i : Instr) : State := at_ g (encode i)

/-- What a lane of group 0 of a state's first place holds in register n. -/
def regOf (t : State) (l n : Nat) : Option Word := (t.group? ⟨0, 0, 0⟩).bind fun g => mget (g.thread l).stack n

/-- What its scalar register n holds. -/
def scalOf (t : State) (n : Nat) : Option DWord := (t.group? ⟨0, 0, 0⟩).map fun g => g.scal.getD n 0

/-- The state that an outcome goes on with. -/
def goes : Host.Outcome State Fault Refusal → Option State
  | .next t => some t
  | _ => none

theorem next_of {o : Host.Outcome State Fault Refusal} (h : (goes o).isSome = true) : ∃ t, o = .next t := by
  cases o with
  | next t => exact ⟨t, rfl⟩
  | fault f => simp [goes] at h
  | refused r => simp [goes] at h

/-- A system group, in the turn. -/
def sysGroup : Group := { groupOf [laneOf wordsA] [0, 40, 2, 7, 1, 0, 2 ^ 12] with ten := 0, team := 16 }
/-- The state with the system group in its place. -/
def sysState (g : Group) (code : List Byte) : State :=
  let s := (State.reset.boot code).setGroup ⟨0, 0, 63⟩ g
  { s with groups := s.groups.filter fun x => x.1 != 0 }.modQuarter 0 0 fun q => { q with active := lput none q.active 0 (some 63), sroot := BitVec.ofNat 64 bootRoot }
/-- It issues. -/
def sysS : State := sysState sysGroup []

theorem oks_of {α ε β : Type} (ys : List (α × β)) {xs : List (α × Except ε β)}
    (h : xs.map (fun x => (x.1, x.2.toOption)) = ys.map fun y => (y.1, some y.2)) : xs = ys.map fun y => (y.1, .ok y.2) := by
  induction xs generalizing ys with
  | nil => cases ys with
    | nil => rfl
    | cons y r => simp at h
  | cons x xs ih => cases ys with
    | nil => simp at h
    | cons y r =>
      simp only [List.map_cons, List.cons.injEq, Prod.mk.injEq] at h
      obtain ⟨⟨h1, h2⟩, h3⟩ := h
      simp only [List.map_cons, List.cons.injEq]
      exact ⟨Prod.ext h1 (ok_of h2), ih r h3⟩

theorem core_all {P : Core → Prop} (s : State) (h : ∀ x ∈ s.cores, P x.2) (d : P Core.reset) (k : Nat) : P (s.core k) := by
  have m : ∀ xs : NMap Core, (∀ x ∈ xs, P x.2) → P ((mget xs k).getD Core.reset) := by
    intro xs
    induction xs with
    | nil => intro _; simpa [mget] using d
    | cons x r ih =>
      intro hx
      by_cases e : x.1 = k
      · simpa [mget, e] using hx x (List.mem_cons_self ..)
      · simpa [mget, e] using ih fun y hy => hx y (List.mem_cons_of_mem _ hy)
  exact m s.cores h

/-- A form without operands. -/
def noF : Form := wide .unused .unused .unused .unused

/-- A running grid of the partition, with given words 16 and on in its record. -/
def gridOf_ (ws : List Nat) : Grid :=
  { handle := 1, st := .running, ten := 1, prio := 0, lrec := List.replicate 16 0 ++ ws.map (BitVec.ofNat 64) ++ List.replicate (16 - ws.length) 0,
    args := [], base := 0, order := 0, started := 0, clusters := [], retired := 0, stop := false, before := .queued, loupe := ⟨[], 0, 0, 0, 0, 0⟩, by_ := none }
/-- The state with that grid. -/
def withGrid (s : State) (x : Grid) : State := s.modPart 0 fun p => { p with grids := [x] }

end Sys2Proof.Tests
end

