-- ==== Sys2Proof/Tests/Slice0.lean ====
section
/-! SUPPORT. The model's own tests: words written out from R116, R125 and R127 decode to their instructions, ill-formed terms are refused,
and one step of each family has the result that the manual works out. -/

namespace Sys2Proof.Tests

open Sys2Proof Sys2Proof.Machine Sys2Proof.Claims

-- One theorem at a time, so that the package compiles as one text in little memory.
set_option Elab.async false

/-! ### Words (R116, R125 to R128): OP, FN, MOD and IMM from the tables, D = v1, A = v2, B = v3, C = v4 where the row has them -/

/-- Each number, its words from the lowest bits on, decodes to the instruction beside it. -/
def readAs (xs : List (Nat × Instr)) : Bool := xs.all fun x => decide (decodeTableWord 160 x.1 = some x.2)

theorem test_decode_control : readAs [
    (0x00000004, .nop), (0x000000_00000000_00000005, .nopExtended), (0x04000508, .br ⟨false, 1⟩ 5), (0x24000008, .br ⟨true, 1⟩ 0),
    (0xfffffe_00000000_00000009, .brWide ⟨false, 0⟩ (.imm 0xfffffe)), (0x123456789_0000000a, .brWide ⟨false, 0⟩ (.lit 0x123456789)),
    (0x03ffff0c, .bru ⟨false, 0⟩ (-1)), (0x000010_00000000_0000000d, .bruWide ⟨false, 0⟩ (.imm 16)),
    (0x000a0010, .jmp 0 ⟨false, 0⟩ (.s 8)), (0x2000000_00000000_000a0011, .jmpExtended 0 ⟨false, 0⟩ (.s 32)),
    (0x00000514, .call ⟨false, 0⟩ 1 1), (0x03fffe14, .call ⟨false, 0⟩ 2 (-1)), (0x000007_00000000_00000315, .callWide ⟨false, 0⟩ 3 (.imm 7)),
    (0x00000018, .ret ⟨false, 0⟩), (0x000000_00000000_00000019, .retExtended ⟨false, 0⟩), (0x2c00001c, .exit ⟨true, 3⟩),
    (0x000000_00000000_0c00001d, .exitExtended ⟨false, 3⟩),
    (0x000000_08000001_000080d1, .calls { wide .unused (.v 2) .unused .unused with mod := 2 })] = true := by decide +kernel

theorem test_decode_base : readAs [
    (0x00308120, .add (bare (.v 1) (.v 2) (.v 3))), (0x00308124, .sub (bare (.v 1) (.v 2) (.v 3))), (0x00308128, .mul (bare (.v 1) (.v 2) (.v 3))),
    (0x0030812c, .mad (bare (.v 1) (.v 2) (.v 3))), (0x00308130, .and (bare (.v 1) (.v 2) (.v 3))), (0x00308134, .or (bare (.v 1) (.v 2) (.v 3))),
    (0x00308138, .xor (bare (.v 1) (.v 2) (.v 3))), (0x0030813c, .shl (bare (.v 1) (.v 2) (.v 3))), (0x00308140, .shr (bare (.v 1) (.v 2) (.v 3))),
    (0x00308144, .sar (bare (.v 1) (.v 2) (.v 3))), (0x00308148, .min (bare (.v 1) (.v 2) (.v 3))), (0x0030814c, .max (bare (.v 1) (.v 2) (.v 3))),
    (0x00308150, .cmp (bare (.v 1) (.v 2) (.v 3))), (0x00308154, .sel (bare (.v 1) (.v 2) (.v 3))), (0x00008158, .mov (bare (.v 1) (.v 2) .unused)),
    (0x0030815c, .lea (bare (.v 1) (.v 2) (.v 3))), (0x00308160, .fadd (bare (.v 1) (.v 2) (.v 3))), (0x00308164, .fmul (bare (.v 1) (.v 2) (.v 3))),
    (0x00308168, .fma (bare (.v 1) (.v 2) (.v 3))), (0x0030816c, .fmin (bare (.v 1) (.v 2) (.v 3))), (0x00308170, .fmax (bare (.v 1) (.v 2) (.v 3))),
    (0x00308174, .fcmp (bare (.v 1) (.v 2) (.v 3))), (0x00308178, .ld (bare (.v 1) (.v 2) (.v 3))), (0x0030817c, .st (bare (.v 1) (.v 2) (.v 3))),
    (0x00308180, .ldc (bare (.v 1) (.v 2) (.v 3)))] = true := by decide +kernel

theorem test_decode_extended : readAs [
    (0x000000_00000000_00308121, .addExtended (wide (.v 1) (.v 2) (.v 3) .unused)),
    (0x000000_00000000_00308125, .subExtended (wide (.v 1) (.v 2) (.v 3) .unused)),
    (0x000000_00000000_00308129, .mulExtended (wide (.v 1) (.v 2) (.v 3) .unused)),
    (0x000000_00004000_0030812d, .madExtended (wide (.v 1) (.v 2) (.v 3) (.v 4))),
    (0x000000_00000000_00308131, .andExtended (wide (.v 1) (.v 2) (.v 3) .unused)),
    (0x000000_00000000_00308135, .orExtended (wide (.v 1) (.v 2) (.v 3) .unused)),
    (0x000000_00000000_00308139, .xorExtended (wide (.v 1) (.v 2) (.v 3) .unused)),
    (0x000000_00000000_0030813d, .shlExtended (wide (.v 1) (.v 2) (.v 3) .unused)),
    (0x000000_00000000_00308141, .shrExtended (wide (.v 1) (.v 2) (.v 3) .unused)),
    (0x000000_00000000_00308145, .sarExtended (wide (.v 1) (.v 2) (.v 3) .unused)),
    (0x000000_00000000_00308149, .minExtended (wide (.v 1) (.v 2) (.v 3) .unused)),
    (0x000000_00000000_0030814d, .maxExtended (wide (.v 1) (.v 2) (.v 3) .unused)),
    (0x000000_00000000_00308151, .cmpExtended (wide (.v 1) (.v 2) (.v 3) .unused)),
    (0x000000_00000000_00308155, .selExtended (wide (.v 1) (.v 2) (.v 3) .unused)),
    (0x000000_00000000_00008159, .movExtended (wide (.v 1) (.v 2) .unused .unused)),
    (0x000000_00000000_0030815d, .leaExtended (wide (.v 1) (.v 2) (.v 3) .unused)),
    (0x000000_00000000_00308161, .faddExtended (wide (.v 1) (.v 2) (.v 3) .unused)),
    (0x000000_00000000_00308165, .fmulExtended (wide (.v 1) (.v 2) (.v 3) .unused)),
    (0x000000_00004000_00308169, .fmaExtended (wide (.v 1) (.v 2) (.v 3) (.v 4))),
    (0x000000_00000000_0030816d, .fminExtended (wide (.v 1) (.v 2) (.v 3) .unused)),
    (0x000000_00000000_00308171, .fmaxExtended (wide (.v 1) (.v 2) (.v 3) .unused)),
    (0x000000_00000000_00308175, .fcmpExtended (wide (.v 1) (.v 2) (.v 3) .unused)),
    (0x000000_00000000_00308179, .ldExtended (wide (.v 1) (.v 2) (.v 3) .unused)),
    (0x000000_00000000_0030817d, .stExtended (wide (.v 1) (.v 2) (.v 3) .unused)),
    (0x000000_00000000_00308181, .ldcExtended (wide (.v 1) (.v 2) (.v 3) .unused))] = true := by decide +kernel

theorem test_decode_xint : readAs [
    (0x000000_00004001_003081c1, .addc (wide (.v 1) (.v 2) (.v 3) (.v 4))), (0x000000_00000002_003081c1, .mulh (wide (.v 1) (.v 2) (.v 3) .unused)),
    (0x000000_00000003_003081c1, .div (wide (.v 1) (.v 2) (.v 3) .unused)), (0x000000_00000004_003081c1, .rem (wide (.v 1) (.v 2) (.v 3) .unused)),
    (0x000000_00000005_000081c1, .neg (wide (.v 1) (.v 2) .unused .unused)), (0x000000_00000006_000081c1, .abs (wide (.v 1) (.v 2) .unused .unused)),
    (0x000000_00000007_000081c1, .not (wide (.v 1) (.v 2) .unused .unused)), (0x000000_00000008_003081c1, .rot (wide (.v 1) (.v 2) (.v 3) .unused)),
    (0x000000_00000009_000081c1, .popc (wide (.v 1) (.v 2) .unused .unused)), (0x000000_0000000a_000081c1, .clz (wide (.v 1) (.v 2) .unused .unused)),
    (0x000000_0000000b_000081c1, .brev (wide (.v 1) (.v 2) .unused .unused)), (0x000000_0000400c_003081c1, .bfx (wide (.v 1) (.v 2) (.v 3) (.v 4))),
    (0x000000_0000400d_003081c1, .bfi (wide (.v 1) (.v 2) (.v 3) (.v 4))), (0x000000_0000400e_003081c1, .idx (wide (.v 1) (.v 2) (.v 3) (.v 4)))] = true := by decide +kernel

theorem test_decode_xflt : readAs [
    (0x000000_00000001_003081c5, .fsub (wide (.v 1) (.v 2) (.v 3) .unused)), (0x000000_00000002_000081c5, .frcp (wide (.v 1) (.v 2) .unused .unused)),
    (0x000000_00000003_000081c5, .frsq (wide (.v 1) (.v 2) .unused .unused)),
    (0x000000_00000004_000081c5, .fsqrt (wide (.v 1) (.v 2) .unused .unused)),
    (0x000000_00000005_000081c5, .fex2 (wide (.v 1) (.v 2) .unused .unused)),
    (0x000000_00000006_000081c5, .flg2 (wide (.v 1) (.v 2) .unused .unused)),
    (0x000000_00000007_000081c5, .frnd (wide (.v 1) (.v 2) .unused .unused)),
    (0x000000_00000008_000081c5, .fclass (wide (.v 1) (.v 2) .unused .unused)),
    (0x000000_00004010_003081c5, .vdot4 (wide (.v 1) (.v 2) (.v 3) (.v 4))), (0x000000_00004011_003081c5, .hfma2 (wide (.v 1) (.v 2) (.v 3) (.v 4))),
    (0x000000_00000012_003081c5, .hadd2 (wide (.v 1) (.v 2) (.v 3) .unused)),
    (0x000000_00000013_003081c5, .hmul2 (wide (.v 1) (.v 2) (.v 3) .unused))] = true := by decide +kernel

theorem test_decode_xcvt : readAs [
    (0x000000_00000001_000081c9, .cvtTo (wide (.v 1) (.v 2) .unused .unused)),
    (0x000000_04000001_000081c9, .cvtFr { wide (.v 1) (.v 2) .unused .unused with mod := 1 }),
    (0x000000_08000001_000081c9, .cvtBlk { wide (.v 1) (.v 2) .unused .unused with mod := 2 }),
    (0x000000_0c000001_000081c9, .cvtUblk { wide (.v 1) (.v 2) .unused .unused with mod := 3 }),
    (0x000000_00000002_000081c9, .fcvt (wide (.v 1) (.v 2) .unused .unused)),
    (0x000000_00000003_000081c9, .icvt (wide (.v 1) (.v 2) .unused .unused)), (0x000000_00000004_003081c9, .rq (wide (.v 1) (.v 2) (.v 3) .unused)),
    (0x000000_00000005_000081c9, .pln (wide (.v 1) (.v 2) .unused .unused)), (0x000000_00000006_000081c9, .unpl (wide (.v 1) (.v 2) .unused .unused))] = true := by decide +kernel

theorem test_decode_xlane : readAs [
    (0x000000_00000001_000081cd, .rfl (wide (.v 1) (.v 2) .unused .unused)),
    (0x000000_00000002_000081cd, .matchLanes (wide (.v 1) (.v 2) .unused .unused)),
    (0x000000_00004010_000001cd, .voteAny (wide (.v 1) .unused .unused (.v 4))),
    (0x000000_00004011_000001cd, .voteAll (wide (.v 1) .unused .unused (.v 4))),
    (0x000000_00004012_000001cd, .voteBal (wide (.v 1) .unused .unused (.v 4))),
    (0x000000_00000020_003081cd, .shflIdx (wide (.v 1) (.v 2) (.v 3) .unused)),
    (0x000000_00000021_003081cd, .shflUp (wide (.v 1) (.v 2) (.v 3) .unused)),
    (0x000000_00000022_003081cd, .shflDn (wide (.v 1) (.v 2) (.v 3) .unused)),
    (0x000000_00000023_003081cd, .shflXor (wide (.v 1) (.v 2) (.v 3) .unused)),
    (0x000000_00000030_000001cd, .lmaskLt (wide (.v 1) .unused .unused .unused)),
    (0x000000_00000031_000001cd, .lmaskLe (wide (.v 1) .unused .unused .unused)),
    (0x000000_00000032_000001cd, .lmaskGt (wide (.v 1) .unused .unused .unused)),
    (0x000000_00000033_000001cd, .lmaskGe (wide (.v 1) .unused .unused .unused)),
    (0x000000_00000040_003081cd, .bcst (wide (.v 1) (.v 2) (.v 3) .unused))] = true := by decide +kernel

theorem test_decode_xctl : readAs [
    (0x000000_00000002_000000d1, .yield (wide .unused .unused .unused .unused)),
    (0x000009_00000003_000000d1, .trap { wide .unused .unused .unused .unused with imm := 0x9 }),
    (0x000001_00000004_000000d1, .waitf { wide .unused .unused .unused .unused with imm := 0x1 }),
    (0x000000_00000005_000000d1, .acq (wide .unused .unused .unused .unused)),
    (0x000000_00000006_000000d1, .rel (wide .unused .unused .unused .unused))] = true := by decide +kernel

theorem test_decode_xmem : readAs [
    (0x000000_00000001_003081d5, .ldk (wide (.v 1) (.v 2) (.v 3) .unused)), (0x000000_00000002_003081d5, .stk (wide (.v 1) (.v 2) (.v 3) .unused)),
    (0x000000_00004010_003081d5, .atomAdd (wide (.v 1) (.v 2) (.v 3) (.v 4))),
    (0x000000_00004011_003081d5, .atomFadd (wide (.v 1) (.v 2) (.v 3) (.v 4))),
    (0x000000_00004012_003081d5, .atomMin (wide (.v 1) (.v 2) (.v 3) (.v 4))),
    (0x000000_00004013_003081d5, .atomMax (wide (.v 1) (.v 2) (.v 3) (.v 4))),
    (0x000000_00004014_003081d5, .atomAnd (wide (.v 1) (.v 2) (.v 3) (.v 4))),
    (0x000000_00004015_003081d5, .atomOr (wide (.v 1) (.v 2) (.v 3) (.v 4))),
    (0x000000_00004016_003081d5, .atomXor (wide (.v 1) (.v 2) (.v 3) (.v 4))),
    (0x000000_00004017_003081d5, .atomXchg (wide (.v 1) (.v 2) (.v 3) (.v 4))),
    (0x000000_00004018_003081d5, .atomCas (wide (.v 1) (.v 2) (.v 3) (.v 4))),
    (0x000000_00000020_003081d5, .redAdd (wide (.v 1) (.v 2) (.v 3) .unused)),
    (0x000000_00000021_003081d5, .redFadd (wide (.v 1) (.v 2) (.v 3) .unused)),
    (0x000000_00000022_003081d5, .redMin (wide (.v 1) (.v 2) (.v 3) .unused)),
    (0x000000_00000023_003081d5, .redMax (wide (.v 1) (.v 2) (.v 3) .unused)),
    (0x000000_00000024_003081d5, .redAnd (wide (.v 1) (.v 2) (.v 3) .unused)),
    (0x000000_00000025_003081d5, .redOr (wide (.v 1) (.v 2) (.v 3) .unused)),
    (0x000000_00000026_003081d5, .redXor (wide (.v 1) (.v 2) (.v 3) .unused)),
    (0x000000_00004030_000081d5, .poolA (wide (.v 1) (.v 2) .unused (.v 4))),
    (0x000000_00004031_003080d5, .poolF (wide .unused (.v 2) (.v 3) (.v 4)))] = true := by decide +kernel

theorem test_decode_xcpy : readAs [
    (0x000000_00000001_003080d9, .cpy (wide .unused (.v 2) (.v 3) .unused)),
    (0x000000_00000002_000001d9, .cpwp (wide (.v 1) .unused .unused .unused)),
    (0x000000_00000003_000081d9, .cpwt (wide (.v 1) (.v 2) .unused .unused)),
    (0x000000_00000004_000001d9, .cpcan (wide (.v 1) .unused .unused .unused))] = true := by decide +kernel

theorem test_decode_xsyn : readAs [
    (0x000000_00004001_003080dd, .binit (wide .unused (.v 2) (.v 3) (.v 4))),
    (0x000000_00000002_003080dd, .barv (wide .unused (.v 2) (.v 3) .unused)), (0x000000_00004003_003080dd, .bexp (wide .unused (.v 2) (.v 3) (.v 4))),
    (0x000000_00004004_003081dd, .bwait (wide (.v 1) (.v 2) (.v 3) (.v 4))), (0x000000_00004005_003081dd, .btry (wide (.v 1) (.v 2) (.v 3) (.v 4))),
    (0x000000_00000006_000000dd, .phase (wide .unused .unused .unused .unused)),
    (0x000000_00000007_000000dd, .fence (wide .unused .unused .unused .unused)),
    (0x000000_00000008_000000dd, .fopd (wide .unused .unused .unused .unused)),
    (0x000000_00000009_003081dd, .tokwt (wide (.v 1) (.v 2) (.v 3) .unused))] = true := by decide +kernel

theorem test_decode_xmtx : readAs [
    (0x000000_00000001_003080e1, .mma (wide .unused (.v 2) (.v 3) .unused)), (0x000000_00000002_003080e1, .mmac (wide .unused (.v 2) (.v 3) .unused)),
    (0x000000_00000003_003080e1, .msmx (wide .unused (.v 2) (.v 3) .unused)),
    (0x000000_00000004_003080e1, .mdrn (wide .unused (.v 2) (.v 3) .unused)),
    (0x000000_00000005_000080e1, .mzero (wide .unused (.v 2) .unused .unused)),
    (0x000000_00000006_003080e1, .mlda (wide .unused (.v 2) (.v 3) .unused)),
    (0x000000_00000007_003080e1, .mside (wide .unused (.v 2) (.v 3) .unused))] = true := by decide +kernel

theorem test_decode_xcap : readAs [
    (0x000000_00004001_003081e5, .cnar (wide (.v 1) (.v 2) (.v 3) (.v 4))), (0x000000_00000002_003081e5, .cperm (wide (.v 1) (.v 2) (.v 3) .unused)),
    (0x000000_00000003_000081e5, .cget (wide (.v 1) (.v 2) .unused .unused)), (0x000000_00004004_003081e5, .cchk (wide (.v 1) (.v 2) (.v 3) (.v 4))),
    (0x000000_00004005_003081e5, .cmint (wide (.v 1) (.v 2) (.v 3) (.v 4)))] = true := by decide +kernel

theorem test_decode_xlpe : readAs [
    (0x000000_00000001_003080e9, .lfill (wide .unused (.v 2) (.v 3) .unused)),
    (0x000000_00000002_000000e9, .lsplit (wide .unused .unused .unused .unused)),
    (0x000000_00000003_000081e9, .ivpt (wide (.v 1) (.v 2) .unused .unused)),
    (0x000000_00000004_000081e9, .ivlo (wide (.v 1) (.v 2) .unused .unused)),
    (0x000000_00000005_000081e9, .ivhi (wide (.v 1) (.v 2) .unused .unused)),
    (0x000000_00000006_003080e9, .lsum (wide .unused (.v 2) (.v 3) .unused))] = true := by decide +kernel

theorem test_decode_xstr : readAs [
    (0x000000_00000001_003081ed, .sopen (wide (.v 1) (.v 2) (.v 3) .unused)),
    (0x000000_00000002_000001ed, .srun (wide (.v 1) .unused .unused .unused)),
    (0x000000_00000003_003081ed, .stopk (wide (.v 1) (.v 2) (.v 3) .unused)),
    (0x000000_00000004_000001ed, .sstat (wide (.v 1) .unused .unused .unused))] = true := by decide +kernel

theorem test_decode_xlch : readAs [
    (0x000000_00000001_000081f1, .launch (wide (.v 1) (.v 2) .unused .unused)),
    (0x000000_00000002_000081f1, .lqry (wide (.v 1) (.v 2) .unused .unused)),
    (0x000000_00000003_000081f1, .lcan (wide (.v 1) (.v 2) .unused .unused))] = true := by decide +kernel

theorem test_decode_xsys : readAs [
    (0x000103_00000001_000001f5, .sysrd { wide (.v 1) .unused .unused .unused with imm := 0x103 }),
    (0x000105_00000002_000080f5, .syswr { wide .unused (.v 2) .unused .unused with imm := 0x105 }),
    (0x000000_00000003_000000f5, .eret (wide .unused .unused .unused .unused)),
    (0x000000_00000004_000080f5, .tlbiPage (wide .unused (.v 2) .unused .unused)),
    (0x000001_00000004_000000f5, .tlbiTen { wide .unused .unused .unused .unused with imm := 0x1 }),
    (0x000002_00000004_000000f5, .tlbiAll { wide .unused .unused .unused .unused with imm := 0x2 }),
    (0x000000_00000005_000001f5, .slogSt (wide (.v 1) .unused .unused .unused)),
    (0x000001_00000005_000081f5, .slogRd { wide (.v 1) (.v 2) .unused .unused with imm := 0x1 }),
    (0x000002_00000005_000001f5, .slogDh { wide (.v 1) .unused .unused .unused with imm := 0x2 }),
    (0x000000_00000006_000081f5, .freeze (wide (.v 1) (.v 2) .unused .unused)),
    (0x000000_00000007_003081f5, .thaw (wide (.v 1) (.v 2) (.v 3) .unused)),
    (0x000001_00000007_000081f5, .thawIp { wide (.v 1) (.v 2) .unused .unused with imm := 0x1 }),
    (0x000000_00000008_003081f5, .winsp (wide (.v 1) (.v 2) (.v 3) .unused)),
    (0x000000_00000009_003081f5, .winfl (wide (.v 1) (.v 2) (.v 3) .unused)),
    (0x000000_0000000a_000001f5, .haltGrid (wide (.v 1) .unused .unused .unused)),
    (0x000001_0000000a_000081f5, .haltTen { wide (.v 1) (.v 2) .unused .unused with imm := 0x1 })] = true := by decide +kernel

/-- Each number decodes to nothing. -/
def refusedAll (xs : List Nat) : Bool := xs.all fun x => (decodeTableWord 160 x).isNone

/-- A clause header; reserved majors; an extended group without W1 and W2; an FN of no row, FN 0 and RED's missing ones; a base major with an FN; a nonzero
W2[31:28]; a reserved MOD; a reserved SCOPE; an unused operand; a literal that no field reads; a CALL with frame 0; a NOP with a guard. -/
theorem test_decode_refuses : refusedAll [
    0x00000000, 0x00000084, 0x000000f8, 0x000000fc, 0x000000c0, 0x000000_0000000f_000000c1, 0x000000_00000000_000000c1, 0x000000_00000027_000000d5,
    0x000000_00000028_000000d5, 0x000000_00000001_00308121, 0x10000000_00000000_00308121, 0x000000_c0000000_00308121, 0x000000_02c00006_000000dd,
    0x00308158, 0x000000_00000005_003081c1, 0x1_00308122, 0x00000414, 0x04000004] = true := by decide +kernel

/-- The operand codes: s24 to s47 by the high-scalar bits, the latches, zero, lane and the literal (R117, R118). -/
theorem test_decode_operands : readAs [
    (0x1000000_00000000_002ee021, .addExtended (wide (.s 24) .zero (.v 2) .unused)),
    (0x5_03dbb922, .addExtended { bare (.l 1) (.s 14) .lit with lit := some 5 }),
    (0x7_00000000_00000000_00000000_03df3a23, .addExtended { wide (.l 2) .lane .lit .unused with lit := some (7 * 2 ^ 32) }),
    (0x2000000_00000000_003df821, .addExtended (wide (.l 0) (.s 47) (.v 3) .unused))] = true := by decide +kernel

/-! ### Ill-formed terms, one for each check of WellFormed -/

/-- Every term is refused. -/
def illFormed (xs : List Instr) : Bool := xs.all fun i => !i.wf

/-- The form does not belong to the constructor. -/
theorem test_wf_shape : illFormed [
    .add (wide (.v 1) (.v 2) (.v 3) .unused), .addExtended (bare (.v 1) (.v 2) (.v 3)), .ld (wide (.v 1) (.s 2) (.v 3) .unused), .ldcExtended (bare (.v 1) (.s 2) (.v 3)),
    .cvtTo { wide (.v 1) (.v 2) .unused .unused with mod := 1 }, .cvtUblk (wide (.v 1) (.v 2) .unused .unused), .tlbiTen noF,
    .slogRd (wide (.s 1) (.s 2) .unused .unused), .thawIp (wide (.s 1) (.s 2) .unused .unused), .haltTen (wide (.s 1) (.s 2) .unused .unused),
    .haltGrid { wide (.s 1) .unused .unused .unused with imm := 1 }, .call ⟨false, 0⟩ 0 5, .callWide ⟨false, 0⟩ 0 (.imm 5), .jmp 0 ⟨false, 0⟩ (.s 30)] = true := by
  decide +kernel

/-- An event names a unit that the device does not have. -/
theorem test_wf_events : illFormed [
    .quantumExpiry ⟨0, 4, 0⟩, .longLatencyCompletion ⟨256, 0, 0⟩ 1, .acquireDeadlockBreak 256 0, .spilledRefill 0 4, .publicationBufferDrain 256, .sideLogReplay 256,
    .faultRecordWrite 0 4, .systemGroupService 0 4, .claspRequest 96, .hotLineWriteback 32 0, .copySector 0 8 0, .copySector 0 0 12, .matrixOperationStart 256,
    .matrixUnit 256, .matrixOperationComplete 256, .mmacQuarterEnqueue 256, .barrierUnitOperation 256, .strandBlock 0 2, .loupeBatchStart ⟨0, 0, 64⟩,
    .freezeReachCore 1 256, .reconvergenceTimeout 1 256, .remoteTimeout ⟨0, 4, 0⟩ 1, .managerRequest 0 4 0 0, .haltNotice 256, .coreRepair 0 16, .caphi 8 0,
    .hostLaunchOutcome 8, .lsumBlock ⟨0, 4, 0⟩ 1, .peerRetryResponse ⟨0, 4, 0⟩ 1, .peerRefusalResponse ⟨0, 4, 0⟩ 1, .partitionCreate 0 0 0 [],
    .partitionCreate 0 256 0 [], .partitionCreate 0 2 2 []] = true := by decide +kernel

/-- A length that the major does not have; an operand, a literal, MOD, SCOPE, SLOT, FS, IMM or H that the row does not use or that is reserved; a base-length
word with any of them; WAITF with a guard. -/
theorem test_wf_framing : illFormed [
    .addc (bare (.v 1) (.v 2) (.v 3)), .yield { noF with lit := some 1, a := .lit }, .neg (wide (.v 1) (.v 2) (.v 3) .unused), .yield (wide (.v 1) .unused .unused .unused),
    .eret (wide .unused (.v 2) .unused .unused), .add { bare (.v 1) (.v 2) (.v 3) with c := .v 4 }, .sub { bare (.v 1) (.v 2) (.v 3) with lit := some 4 },
    .addExtended { wide (.v 1) (.v 2) (.v 3) .unused with mod := 48 }, .fmaExtended { wide (.v 1) (.v 2) (.v 3) (.v 4) with mod := 4 },
    .phase { noF with scope := 11 }, .addExtended { wide (.v 1) (.v 2) (.v 3) .unused with scope := 6 }, .addExtended { wide (.v 1) (.v 2) (.v 3) .unused with slot := 1 },
    .addExtended { wide (.v 1) (.v 2) (.v 3) .unused with fs := true }, .addExtended { wide (.v 1) (.v 2) (.v 3) .unused with imm := 1 },
    .tlbiPage { wide .unused (.s 2) .unused .unused with imm := 8 }, .lmaskLt { wide (.v 1) .unused .unused .unused with hold := 1 },
    .add { bare (.v 1) (.v 2) (.v 3) with mod := 16 }, .add (bare (.s 30) (.v 2) (.v 3)), .waitf { noF with guard := ⟨false, 1⟩, imm := 1 }] = true := by decide +kernel


/-! ### Effects. Lane 0 has v1 = a, v2 = b, v3 = c, v4 = d; s1 = 5, s2 = -1, c2 the capability of the text under R176 -/

/-- The state. -/
def opS (a b c d : Nat) : State := at_ (groupOf [laneOf [0, a, b, c, d]] [0, 5, 2 ^ 64 - 1, 0, 0x4000020000, 0x1000 + 2 ^ 49 + 4 * 2 ^ 52]) []
/-- What v0 of lane 0 holds after the instruction. -/
def out (i : Instr) (s : State) : Option Word := (goes (exec i s)).bind fun t => regOf t 0 0
/-- What s0 holds after it. -/
def sout (i : Instr) (s : State) : Option DWord := (goes (exec i s)).bind fun t => scalOf t 0
/-- What a predicate of lane 0 holds after it. -/
def pout (n : Nat) (i : Instr) (s : State) : Option Tri := (goes (exec i s)).bind fun t => (t.group? ⟨0, 0, 0⟩).map fun g => (g.thread 0).preds.getD (n - 1) .u
/-- D = v0, A = v1, B = v2, C = v3. -/
def abc : Form := wide (.v 0) (.v 1) (.v 2) (.v 3)
/-- D = v0, A = v1, B = v2. -/
def ab : Form := wide (.v 0) (.v 1) (.v 2) .unused
/-- D = v0, A = v1. -/
def ao : Form := wide (.v 0) (.v 1) .unused .unused

/-- R167: sums wrap, and are clamped under SAT. -/
theorem test_add : out (.addExtended ab) (opS 0x7fffffff 1 0 0) = some 0x80000000 ∧ out (.addExtended { ab with mod := 4 }) (opS 0x7fffffff 1 0 0) = some 0x7fffffff := by
  decide +kernel
theorem test_sub : out (.sub (bare (.v 0) (.v 1) (.v 2))) (opS 3 5 0 0) = some 0xfffffffe ∧ out (.subExtended { ab with mod := 12 }) (opS 3 5 0 0) = some 0 := by decide +kernel
theorem test_mul : out (.mul (bare (.v 0) (.v 1) (.v 2))) (opS 0xffffffff 3 0 0) = some 0xfffffffd ∧
    out (.mulExtended { ab with mod := 4 }) (opS 0x10000 0x10000 0 0) = some 0x7fffffff := by decide +kernel
/-- The base form adds its destination, which is 0 here; the extended form adds C. -/
theorem test_mad : out (.mad (bare (.v 0) (.v 1) (.v 2))) (opS 6 7 9 0) = some 42 ∧ out (.madExtended abc) (opS 6 7 9 0) = some 51 := by decide +kernel
theorem test_mulh : out (.mulh ab) (opS 0xffffffff 2 0 0) = some 0xffffffff ∧ out (.mulh { ab with mod := 8 }) (opS 0xffffffff 2 0 0) = some 1 := by decide +kernel
/-- The table of the text under R176: lanes 1, 2 and 5. -/
theorem test_div : out (.div ab) (opS 0x80000000 0xffffffff 0 0) = some 0x80000000 ∧ out (.div { ab with mod := 4 }) (opS 0x80000000 0xffffffff 0 0) = some 0x7fffffff ∧
    out (.div ab) (opS 0x80000000 0 0 0) = some 0xffffffff ∧ out (.div ab) (opS 0x80000000 3 0 0) = some 0xd5555556 := by decide +kernel
theorem test_rem : out (.rem ab) (opS 0x80000000 0 0 0) = some 0x80000000 ∧ out (.rem ab) (opS 0x80000000 3 0 0) = some 0xfffffffe ∧
    out (.rem ab) (opS 0x80000000 0xffffffff 0 0) = some 0 := by decide +kernel
/-- Steps (7) and (8) there: −1 + 1 carries, 5 + 0 + 1 does not. -/
theorem test_addc : pout 1 (.addc { wide (.s 0) (.s 2) .lit (.v 1) with lit := some 1, mod := 32 }) (opS 0 0 0 0) = some .t ∧
    sout (.addc { wide (.s 0) (.s 2) .lit (.v 1) with lit := some 1, mod := 32 }) (opS 0 0 0 0) = some 0 := by decide +kernel
/-- Counts at or above the width are not reduced, but by ROT (R171). -/
theorem test_shifts : out (.shl (bare (.v 0) (.v 1) (.v 2))) (opS 1 32 0 0) = some 0 ∧ out (.shr (bare (.v 0) (.v 1) (.v 2))) (opS 0x80000000 31 0 0) = some 1 ∧
    out (.sar (bare (.v 0) (.v 1) (.v 2))) (opS 0x80000000 40 0 0) = some 0xffffffff ∧ out (.rot ab) (opS 0x80000001 33 0 0) = some 3 := by decide +kernel
theorem test_bits : out (.clz ao) (opS 0 0 0 0) = some 32 ∧ out (.popc ao) (opS 0xf0f 0 0 0) = some 8 ∧ out (.brev ao) (opS 3 0 0 0) = some 0xc0000000 ∧
    out (.not ao) (opS 0 0 0 0) = some 0xffffffff := by decide +kernel
/-- Bits [11:8] of 0xf00, signed and not; a field cut at bit 31 (R172). -/
theorem test_fields : out (.bfx abc) (opS 0xf00 8 4 0) = some 0xffffffff ∧ out (.bfx { abc with mod := 8 }) (opS 0xf00 8 4 0) = some 15 ∧
    out (.bfi abc) (opS 0xff 28 8 0) = some 0xf0000000 := by decide +kernel
theorem test_minmax : out (.minExtended ab) (opS 0xffffffff 1 0 0) = some 0xffffffff ∧ out (.maxExtended { ab with mod := 8 }) (opS 0xffffffff 1 0 0) = some 0xffffffff := by
  decide +kernel
theorem test_negabs : out (.neg { ao with mod := 4 }) (opS 0x80000000 0 0 0) = some 0x7fffffff ∧ out (.abs ao) (opS 0xfffffffb 0 0 0) = some 5 := by decide +kernel
/-- LT signed and unsigned (R121, R173). -/
theorem test_cmp : pout 2 (.cmpExtended { wide (.v 2) (.v 1) (.v 2) .unused with mod := 2 }) (opS 0xffffffff 1 0 0) = some .t ∧
    pout 2 (.cmpExtended { wide (.v 2) (.v 1) (.v 2) .unused with mod := 10 }) (opS 0xffffffff 1 0 0) = some .f := by decide +kernel
/-- The guard, here not p1, selects (R174). -/
theorem test_sel : out (.sel { bare (.v 0) (.v 1) (.v 2) with guard := ⟨true, 1⟩ }) (opS 4 6 0 0) = some 4 ∧
    out (.sel { bare (.v 0) (.v 1) (.v 2) with guard := ⟨false, 1⟩ }) (opS 4 6 0 0) = some 6 := by decide +kernel
theorem test_mov : sout (.movExtended { wide (.s 0) (.s 2) .unused .unused with mod := 32 }) (opS 0 0 0 0) = some 0xffffffffffffffff ∧
    out (.mov (bare (.v 0) (.s 2) .unused)) (opS 0 0 0 0) = some 0xffffffff := by decide +kernel
/-- 0x1000 − 4·2 through a vector index, which is sign-extended (R175). -/
theorem test_lea : out (.leaExtended { wide (.v 0) .lit (.v 1) .unused with lit := some 0x1000, mod := 32, imm := 1 }) (opS 0xfffffffc 0 0 0) = some 0xff8 := by decide +kernel
/-- The low word for row 3 of c2 and column 63 (text under R176). -/
theorem test_idx : out (.idx (wide (.v 0) (.s 4) (.v 2) (.v 4))) (opS 0 3 0 63) = some 0x203fc := by decide +kernel

/-- 1 + 2^−24 in RN and RP (R70, R180). -/
theorem test_fadd : out (.faddExtended ab) (opS 0x3f800000 0x33800000 0 0) = some 0x3f800000 ∧
    out (.faddExtended { ab with mod := 32 }) (opS 0x3f800000 0x33800000 0 0) = some 0x3f800001 := by decide +kernel
theorem test_fmul : out (.fmul (bare (.v 0) (.v 1) (.v 2))) (opS 0x40400000 0xbf000000 0 0) = some 0xbfc00000 := by decide +kernel
/-- 3·3 + (−9) is +0 in RN; ∞·0 is the canonical NaN (R50, R180). -/
theorem test_fma : out (.fmaExtended abc) (opS 0x40400000 0x40400000 0xc1100000 0) = some 0 ∧ out (.fmaExtended abc) (opS 0x7f800000 0 0 0) = some 0x7fc00000 := by decide +kernel
theorem test_fsub : out (.fsub ab) (opS 0x3f800000 0x40000000 0 0) = some 0xbf800000 := by decide +kernel
/-- FCMP LT of −1 and 2. -/
theorem test_fcmp : pout 2 (.fcmpExtended { wide (.v 2) (.v 1) (.v 2) .unused with mod := 2 }) (opS 0xbf800000 0x40000000 0 0) = some .t := by decide +kernel
/-- FEX2 of an integer and FLG2 of a power of two are exact (R184). -/
theorem test_series : out (.fex2 ao) (opS 0x40400000 0 0 0) = some 0x41000000 ∧ out (.flg2 ao) (opS 0x41000000 0 0 0) = some 0x40400000 := by decide +kernel
theorem test_roots : out (.frcp ao) (opS 0x40800000 0 0 0) = some 0x3e800000 ∧ out (.fsqrt ao) (opS 0x41100000 0 0 0) = some 0x40400000 ∧
    out (.frsq ao) (opS 0x40800000 0 0 0) = some 0x3f000000 := by decide +kernel
/-- The classes 5 (−0) and 7 (positive subnormal) of R185. -/
theorem test_fclass : out (.fclass ao) (opS 0x80000000 0 0 0) = some 5 ∧ out (.fclass ao) (opS 1 0 0 0) = some 7 := by decide +kernel
/-- (1, 2, −1, 0) · (4, 3, 2, 1) + 5 = 13 (R187). -/
theorem test_vdot4 : out (.vdot4 abc) (opS 0x00ff0201 0x01020304 5 0) = some 13 := by decide +kernel
/-- 1.0 + 1.0 and 2.0 + 0.5 in binary16 (R186). -/
theorem test_hadd2 : out (.hadd2 ab) (opS 0x40003c00 0x38003c00 0 0) = some 0x41004000 := by decide +kernel
/-- 65520 does not fit binary16 in RN (R188). -/
theorem test_fcvt : out (.fcvt ao) (opS 0x477ff000 0 0 0) = some 0x7c00 ∧ out (.fcvt ao) (opS 0x3fc00000 0 0 0) = some 0x3e00 := by decide +kernel
/-- ICVT of 2.5 rounds to even; of a NaN it gives 0 (R189). -/
theorem test_icvt : out (.icvt ao) (opS 0x40200000 0 0 0) = some 2 ∧ out (.icvt ao) (opS 0x7fc00000 0 0 0) = some 0 := by decide +kernel

/-- Two lanes: 7 and 1 in v0, 3 and 8 in v1 (the state wS). -/
def outs (i : Instr) : Option (Option Word × Option Word) := (goes (exec i wS)).map fun t => (regOf t 0 2, regOf t 1 2)
/-- Lane 1 gets lane 0's value, lane 0 none (R160). -/
theorem test_shfl : outs (.shflUp { wide (.v 2) (.v 0) .lit .unused with lit := some 1 }) = some (some 0, some 7) ∧
    outs (.shflXor { wide (.v 2) (.v 0) .lit .unused with lit := some 1 }) = some (some 1, some 7) := by decide +kernel
theorem test_match : outs (.matchLanes (wide (.v 2) (.v 0) .unused .unused)) = some (some 1, some 2) := by decide +kernel
/-- Both lanes take part with p0 (R159); the first lane's value is read (R157). -/
theorem test_vote : outs (.voteBal (wide (.v 2) .unused .unused .unused)) = some (some 2, some 2) ∧
    (goes (exec (.rfl (wide (.s 4) (.v 1) .unused .unused)) wS)).map (fun t => scalOf t 4) = some (some 3) := by decide +kernel

/-- Where lane 0 stands, and whether it lives. -/
def lane0 (i : Instr) (s : State) : Option (DWord × Bool) := (goes (exec i s)).bind fun t => (t.group? ⟨0, 0, 0⟩).map fun g => ((g.thread 0).pc, (g.thread 0).live)
/-- OFF counts words from the base word (R125). -/
theorem test_br : lane0 (.br ⟨false, 0⟩ 4) wS = some (BitVec.ofNat 64 (bootPc + 16), true) ∧ lane0 (.br ⟨false, 1⟩ 4) wS = some (BitVec.ofNat 64 (bootPc + 4), true) := by
  decide +kernel
/-- Lane 1, in which p1 is false, stays (R150). -/
theorem test_exit : (goes (exec (.exit ⟨true, 1⟩) { wS with groups := (wS.setGroup ⟨0, 0, 0⟩ { two with threads := lput gone two.threads 0 { two.thread 0 with
    preds := [.t, .f, .f, .f, .f, .f, .f] } }).groups })).map (fun t => (t.group? ⟨0, 0, 0⟩).map fun g => ((g.thread 0).live, (g.thread 1).live, (g.thread 0).pc)) =
    some (some (true, false, BitVec.ofNat 64 (bootPc + 4))) := by decide +kernel

/-- TRAP 9: the group is trapped, and a record of cause 0x0e waits in its quarter with the code (R151, R361). -/
theorem test_trap : ((goes (exec (.trap { noF with imm := 9 }) { wS with ilen := 1 })).map fun t => ((t.group? ⟨0, 0, 0⟩).map (·.st), ((t.quarter 0 0).ring ++ (t.quarter 0 0).waitRec).map fun x =>
    (x.cause, x.info, x.rpc))) = some (some .trapped, [(0x0e, 9, BitVec.ofNat 64 (bootPc + 12))]) := by decide +kernel

/-- A privileged instruction in a tenant's group takes the privileged-instruction trap, cause 0x03 (R129, R362). -/
theorem test_privilege : ((goes (exec (.eret noF) wS)).map fun t => ((t.quarter 0 0).ring ++ (t.quarter 0 0).waitRec).map (·.cause)) = some [0x03] := by decide +kernel

/-- SYSRD of CYCLE (R133). -/
theorem test_sysrd : sout (.sysrd { wide (.s 0) .unused .unused .unused with imm := 0x17 }) { opS 0 0 0 0 with cycle := 80 } = some 80 := by decide +kernel

end Sys2Proof.Tests
end

