-- ==== Sys2Proof/Tests/WitnessControl.lean ====
section
/-! SUPPORT. Witnesses: concrete states and operands that meet the hypotheses of the statements on control and traps. -/

namespace Sys2Proof.Tests

open Sys2Proof Sys2Proof.Machine Sys2Proof.Claims

-- One theorem at a time, so that the package compiles as one text in little memory.
set_option Elab.async false

/-- A header at the PC plus 8, and the base words before it. -/
def landS : State := at_ two (leBytes 8 0 ++ leBytes 4 0x11000000)
theorem none_of {α : Type} {p : State × Option α} (h : p.2.isNone = true) : p = (p.1, none) := by
  obtain ⟨a, b⟩ := p
  cases b with
  | none => rfl
  | some x => simp at h

/-- BR to the header. -/
def brJ : Jump := branchJump (ctxOf landS) ⟨false, 0⟩ 2

theorem witness_ControlTransfersLand : ∃ (i : Instr) (j : Jump) (s : State) (c : Ctx) (s1 : State), s.ctx = some c ∧ jumpOf c i = some j ∧
    (∀ l ∈ c.set, c.guard j.guard l ≠ .u) ∧ c.atEnd = true ∧ j.ok = true ∧
    s.checkTargets c (s.origin c.r c.g) (maskOf (j.tgts.map (·.1))) j.tgts [] = (s1, none) :=
  ⟨.br ⟨false, 0⟩ 2, brJ, landS, ctxOf landS, _, ctx_of _ (by decide +kernel), by
      have e : (2 : BitVec 18).toInt = 2 := by decide
      simp only [jumpOf, brJ, e],
    by decide +kernel, by decide +kernel, by decide +kernel, none_of (by decide +kernel)⟩

/-- A group whose allotment has room for two windows. -/
def roomy : Group := { two with full := 64, allot := 64 }
/-- It stands before a header. -/
def callS : State := at_ roomy (leBytes 8 0 ++ leBytes 4 0x11000000)
/-- CALL of frame 1: the window slides by 8. -/
def callJ : Jump := callJump (ctxOf callS) 0 .zero none ⟨false, 0⟩ 1 (offsetBy (ctxOf callS) 2)

theorem witness_ControlTransfersLand_call : ∃ (i : Instr) (j : Jump) (s : State) (c : Ctx) (s1 : State), s.ctx = some c ∧ jumpOf c i = some j ∧
    (∀ l ∈ c.set, c.guard j.guard l ≠ .u) ∧ c.atEnd = true ∧ j.ok = true ∧
    s.checkTargets c (s.origin c.r c.g) (maskOf (j.tgts.map (·.1))) j.tgts [] = (s1, none) :=
  ⟨.call ⟨false, 0⟩ 1 2, callJ, callS, ctxOf callS, _, ctx_of _ (by decide +kernel), by
      have e : (2 : BitVec 16).toInt = 2 := by decide
      have d : (1 : BitVec 2).toNat = 1 := by decide
      simp only [jumpOf, callJ, e, d],
    by decide +kernel, by decide +kernel, by decide +kernel, none_of (by decide +kernel)⟩

/-- A group one call deep, its frame of 8 and its link to the header. -/
def called : Group :=
  groupOf [{ laneOf (wordsA.take 6 ++ [(bootPc + 8) / 4 * 4 + 1, 0]) with depth := 1, wb := 8 }] []
/-- The state. -/
def retS : State := at_ called (leBytes 8 0 ++ leBytes 4 0x11000000)
/-- RET. -/
def retJ : Jump := retJump (ctxOf retS) ⟨false, 0⟩

theorem witness_ControlTransfersLand_ret : ∃ (i : Instr) (j : Jump) (s : State) (c : Ctx) (s1 : State), s.ctx = some c ∧ jumpOf c i = some j ∧
    (∀ l ∈ c.set, c.guard j.guard l ≠ .u) ∧ c.atEnd = true ∧ j.ok = true ∧
    s.checkTargets c (s.origin c.r c.g) (maskOf (j.tgts.map (·.1))) j.tgts [] = (s1, none) :=
  ⟨.ret ⟨false, 0⟩, retJ, retS, ctxOf retS, _, ctx_of _ (by decide +kernel), rfl, by decide +kernel, by decide +kernel, by decide +kernel,
    none_of (by decide +kernel)⟩

/-- Two instructions are still to come in the clause. -/
def midS : State := at_ (groupOf [{ laneOf wordsA with left := some 2 }] []) []

theorem witness_TransfersTrap_end : ∃ (i : Instr) (j : Jump) (s : State) (c : Ctx), s.ctx = some c ∧ jumpOf c i = some j ∧ c.atEnd = false :=
  ⟨.ret ⟨false, 0⟩, retJump (ctxOf midS) ⟨false, 0⟩, midS, ctxOf midS, ctx_of _ (by decide +kernel), rfl, by decide +kernel⟩

theorem witness_TransfersTrap_exit : ∃ (i : Instr) (s : State) (c : Ctx), s.ctx = some c ∧
    ((∃ g, i = .exit g ∨ i = .exitExtended g) ∨ (∃ f, i = .trap f ∨ i = .eret f)) ∧ c.atEnd = false :=
  ⟨.exit ⟨false, 0⟩, midS, ctxOf midS, ctx_of _ (by decide +kernel), .inl ⟨_, .inl rfl⟩, by decide +kernel⟩

theorem witness_TransfersTrap_eret : ∃ (i : Instr) (s : State) (c : Ctx), s.ctx = some c ∧
    ((∃ g, i = .exit g ∨ i = .exitExtended g) ∨ (∃ f, i = .trap f ∨ i = .eret f)) ∧ c.atEnd = false :=
  ⟨.eret noF, midS, ctxOf midS, ctx_of _ (by decide +kernel), .inr ⟨_, .inr rfl⟩, by decide +kernel⟩

/-- One thread before a word that is no header. -/
def noLandS : State := at_ (groupOf [laneOf wordsA] []) (leBytes 8 0 ++ leBytes 4 0x11000008)
/-- BR to that word. -/
def badJ : Jump := branchJump (ctxOf noLandS) ⟨false, 0⟩ 2

theorem witness_TransfersTrap_target : ∃ (i : Instr) (j : Jump) (s : State) (c : Ctx) (l : Nat) (a : DWord) (s1 : State), s.ctx = some c ∧
    jumpOf c i = some j ∧ (∀ m ∈ c.set, c.guard j.guard m ≠ .u) ∧ c.atEnd = true ∧ j.ok = true ∧ j.tgts = [(l, a)] ∧
    s.checkTarget (s.origin c.r c.g) a = (s1, .bad) :=
  ⟨.br ⟨false, 0⟩ 2, badJ, noLandS, ctxOf noLandS, 0, BitVec.ofNat 64 (bootPc + 8), _, ctx_of _ (by decide +kernel), by
      have e : (2 : BitVec 18).toInt = 2 := by decide
      simp only [jumpOf, badJ, e],
    by decide +kernel, by decide +kernel, by decide +kernel, by decide +kernel, pair_of (by decide +kernel)⟩

theorem witness_IdleYieldAndWait_alone : ∃ (s : State) (c : Ctx) (f : Form), s.ctx = some c ∧ c.on f.guard ≠ [] ∧
    (c.sys = true ∨ s.readyPending c.r.core c.r.qtr = []) :=
  ⟨wS, ctxOf wS, wide .unused .unused .unused .unused, ctx_of _ (by decide +kernel), by decide +kernel, by decide +kernel⟩

theorem witness_IdleYieldAndWait_system : ∃ (s : State) (c : Ctx) (f : Form), s.ctx = some c ∧ c.on f.guard ≠ [] ∧
    (c.sys = true ∨ s.readyPending c.r.core c.r.qtr = []) :=
  ⟨sysS, ctxOf sysS, noF, ctx_of _ (by decide +kernel), by decide +kernel, by decide +kernel⟩

/-- Another ready group of the quarter, outside the active set. -/
def shared : State := wS.setGroup ⟨0, 0, 5⟩ two

theorem witness_IdleYieldAndWait_hand : ∃ (s : State) (c : Ctx) (f : Form) (n : Nat), s.ctx = some c ∧ PlacesRise s ∧ c.on f.guard ≠ [] ∧
    c.sys = false ∧ s.readyPending c.r.core c.r.qtr ≠ [] ∧ (s.quarter c.r.core c.r.qtr).active.findIdx? (· == some c.r.slot) = some n :=
  ⟨shared, ctxOf shared, noF, 0, ctx_of _ (by decide +kernel), by unfold PlacesRise; decide +kernel, by decide +kernel⟩

/-- A form whose IMM names flag 2. -/
def flagF : Form := { wide .unused .unused .unused .unused with imm := 4 }
/-- A group with two operations on flag 2. -/
def busyS : State := at_ { two with flags := lput 0 two.flags 2 2 } []

theorem witness_IdleYieldAndWait_clear : ∃ (f : Form) (s : State) (c : Ctx), s.ctx = some c ∧ c.on f.guard ≠ [] ∧
    c.g.clear (BitVec.ofNat 12 f.imm.toNat) = true :=
  ⟨flagF, wS, ctxOf wS, ctx_of _ (by decide +kernel), by decide +kernel, by decide +kernel⟩

theorem witness_IdleYieldAndWait_wait : ∃ (f : Form) (s : State) (c : Ctx), s.ctx = some c ∧ c.on f.guard ≠ [] ∧
    c.g.clear (BitVec.ofNat 12 f.imm.toNat) = false ∧ c.waitsFull false = false :=
  ⟨flagF, busyS, ctxOf busyS, ctx_of _ (by decide +kernel), by decide +kernel⟩

/-- p1 holds in the first of two threads. -/
def partS : State := at_ (groupOf [{ laneOf wordsA with preds := [.t, .f, .f, .f, .f, .f, .f] }, laneOf wordsB] []) []

theorem witness_ExitEndsThreads_some : ∃ (i : Instr) (g : Guard) (s : State) (c : Ctx), (i = .exit g ∨ i = .exitExtended g) ∧ s.ctx = some c ∧ c.g.lpass = false ∧
    (∀ l ∈ c.set, c.guard g l ≠ .u) ∧ c.atEnd = true ∧ c.on g ≠ [] ∧ (∀ l ∈ c.on g, (c.g.thread l).lv = false) ∧
    (∃ l ∈ c.g.liveLanes, l ∉ c.on g) :=
  ⟨.exit ⟨false, 1⟩, ⟨false, 1⟩, partS, ctxOf partS, .inl rfl, ctx_of _ (by decide +kernel), by decide +kernel⟩

theorem witness_ExitEndsThreads_draining : ∃ (i : Instr) (g : Guard) (s : State) (c : Ctx), (i = .exit g ∨ i = .exitExtended g) ∧ s.ctx = some c ∧ c.g.lpass = false ∧
    (∀ l ∈ c.set, c.guard g l ≠ .u) ∧ c.atEnd = true ∧ c.on g ≠ [] ∧ (∀ l ∈ c.on g, (c.g.thread l).lv = false) ∧
    (∀ l ∈ c.g.liveLanes, l ∈ c.on g) ∧ (∃ n, c.g.flags.getD n 0 ≠ 0) :=
  ⟨.exit ⟨false, 0⟩, ⟨false, 0⟩, busyS, ctxOf busyS, .inl rfl, ctx_of _ (by decide +kernel), by decide +kernel, by decide +kernel,
    by decide +kernel, by decide +kernel, by decide +kernel, by decide +kernel, 2, by decide +kernel⟩

theorem witness_ExitEndsThreads_retired : ∃ (i : Instr) (g : Guard) (s : State) (c : Ctx), (i = .exit g ∨ i = .exitExtended g) ∧ s.ctx = some c ∧ c.g.lpass = false ∧
    (∀ l ∈ c.set, c.guard g l ≠ .u) ∧ c.atEnd = true ∧ c.on g ≠ [] ∧ (∀ l ∈ c.on g, (c.g.thread l).lv = false) ∧
    (∀ l ∈ c.g.liveLanes, l ∈ c.on g) ∧ c.g.flags.all (· == 0) = true :=
  ⟨.exitExtended ⟨false, 0⟩, ⟨false, 0⟩, wS, ctxOf wS, .inr rfl, ctx_of _ (by decide +kernel), by decide +kernel⟩

theorem witness_SoftwareTrap : ∃ (f : Form) (s : State) (c : Ctx), Issuing s c f.guard ∧ c.atEnd = true :=
  ⟨flagF, wS, ctxOf wS, issuing_of _ _ (by decide +kernel), by decide +kernel⟩

theorem witness_TrapEntry_tenant : ∃ (s : State) (r : GRef) (g : Group) (n : Nat), r.slot < 63 ∧ r.qtr < 4 ∧ s.group? r = some g ∧
    (s.quarter r.core r.qtr).active.findIdx? (· == some r.slot) = some n ∧ (s.quarter r.core r.qtr).sysTurn = none :=
  ⟨wS, ⟨0, 0, 0⟩, two, 0, by decide +kernel⟩

theorem witness_TrapEntry_system : ∃ (s : State) (r : GRef), r.slot = 63 ∧ (s.core r.core).halted = false :=
  ⟨sysS, ⟨0, 0, 63⟩, rfl, by decide +kernel⟩

/-- A group that has less than it asks for, in a quarter with room. -/
def shortS : State := at_ { two with full := 48 } []
/-- One that has its full allotment. -/
def fullS : State := at_ { roomy with acqf := true } []
/-- One that asks for more than the quarter's words. -/
def hugeS : State := at_ { two with full := 4096 } []

theorem witness_AcquireAndRelease_full : ∃ (f : Form) (s : State) (c : Ctx), s.ctx = some c ∧ c.on f.guard ≠ [] ∧ c.g.acqf = true ∧ c.sys = false ∧
    (∀ l ∈ c.g.liveLanes, c.g.relShort l = 0) :=
  ⟨noF, fullS, ctxOf fullS, ctx_of _ (by decide +kernel), by decide +kernel⟩

theorem witness_AcquireAndRelease_fits : ∃ (f : Form) (s : State) (c : Ctx), s.ctx = some c ∧ c.on f.guard ≠ [] ∧ c.g.acqf = false ∧
    s.acqFits c = true :=
  ⟨noF, shortS, ctxOf shortS, ctx_of _ (by decide +kernel), by decide +kernel⟩

theorem witness_AcquireAndRelease_waits : ∃ (f : Form) (s : State) (c : Ctx), s.ctx = some c ∧ c.on f.guard ≠ [] ∧ c.g.acqf = false ∧
    s.acqFits c = false :=
  ⟨noF, hugeS, ctxOf hugeS, ctx_of _ (by decide +kernel), by decide +kernel⟩

end Sys2Proof.Tests
end

