-- ==== Sys2Proof/Tests/WitnessEngines.lean ====
section
/-! SUPPORT. Witnesses: concrete states and operands that meet the hypotheses of the statements on copies, barriers, ordering and the matrix
engine. -/

namespace Sys2Proof.Tests

open Sys2Proof Sys2Proof.Machine Sys2Proof.Claims

-- One theorem at a time, so that the package compiles as one text in little memory.
set_option Elab.async false

/-- The first SPD address. -/
def spd : Nat := 2 * 2 ^ 60

/-! ### Copies -/

/-- A copy's source: R and M, 4 KiB of the scratchpad. -/
def srcCap : Cap := capOf (spd + 0x3000) 0x1000 9 0 0 true
/-- Its destination: W and M. -/
def dstCap : Cap := capOf (spd + 0x5000) 0x1000 10 0 0 true
/-- The descriptor of a plain copy of 100 bytes. -/
def copyDesc : List Byte :=
  leBytes 16 srcCap.bits.toNat ++ leBytes 16 dstCap.bits.toNat ++ leBytes 8 0 ++ leBytes 8 0 ++ leBytes 8 100 ++ leBytes 8 0
/-- Two threads whose s10 names the descriptor; s1 is 40. -/
def copyG : Group := { two with scal := [0, 40, 2, 3, 0, 0, 0, 0, 0, 0, BitVec.ofNat 64 (spd + 0x2000)] ++ List.replicate 37 0 }
/-- The state. -/
def copyS : State := (at_ copyG []).modCore 0 fun k => { k with spad := cwrite (cwrite k.spad 0x2000 copyDesc) 0x3000 ((List.range 100).map fun i => BitVec.ofNat 8 (i + 1)),
                                                                stags := [0x200, 0x201] }
/-- CPY of channel 7. -/
def cpyF : Form := { wide .unused (.s 10) .zero .unused with imm := 7 }

theorem witness_CopyStarts : ∃ (s : State) (c : Ctx) (f : Form), Issuing s c f.guard ∧ flagFree c f = true ∧ isS f.a = true ∧ uniform f f.b = true ∧
    wholeAddr c f / 2 ^ 22 = 2 ^ 39 ∧ wholeAddr c f % 64 = 0 ∧ c.r.core < 256 ∧
    (let k := (s.core c.r.core).chan (f.imm.toNat % 8)
     (k.st ≠ .run ∧ k.st ≠ .held) ∧
     s.copyCheck (s.origin c.r c.g) (describedBy s c f) (describedBy.copySlot s c (describedBy s c f)) (argsOf s c.g) = none) :=
  ⟨copyS, ctxOf copyS, cpyF, issuing_of _ _ (by decide +kernel), by decide +kernel⟩

/-- The channel as it starts. -/
def channelA : Channel := startedChannel copyS (ctxOf copyS) cpyF
/-- It runs, with nothing outstanding. -/
def runCopyS : State := copyS.modChan 0 7 fun _ => channelA
/-- It has moved all. -/
def doneCopyS : State := copyS.modChan 0 7 fun _ => { channelA with st := .done, pos := 100, wp := [(0, 100)] }

theorem witness_CopyControls_read : ∃ (s : State) (c : Ctx) (f : Form) (k : Nat) (d : Fin 48), Issuing s c f.guard ∧ c.owner f s = some k ∧
    f.d = .s d ∧ freeScal c d.val = true :=
  ⟨runCopyS, ctxOf runCopyS, { wide (.s 4) .unused .unused .unused with imm := 7 }, 0, 4, issuing_of _ _ (by decide +kernel), by decide +kernel, rfl,
    by decide +kernel⟩

/-- CPWT p3, s1 of channel 7: 40 bytes. -/
def cpwtF : Form := { wide (.v 3) (.s 1) .unused .unused with imm := 7 }

theorem witness_CopyControls_met : ∃ (s : State) (c : Ctx) (f : Form) (k d : Nat), Issuing s c f.guard ∧ c.owner f s = some k ∧
    predName f.d = some d ∧ uniform f f.a = true ∧ flagFree c f = true ∧ c.waitsFull false = false ∧ c.g.frozen = false ∧
    c.g.read c.tk f.lit 64 0 f.a ≤ ((s.core k).chan (f.imm.toNat % 8)).wpFor c.r.core :=
  ⟨doneCopyS, ctxOf doneCopyS, cpwtF, 0, 3, issuing_of _ _ (by decide +kernel), by decide +kernel⟩

theorem witness_CopyControls_waits : ∃ (s : State) (c : Ctx) (f : Form) (k d : Nat), Issuing s c f.guard ∧ c.owner f s = some k ∧
    predName f.d = some d ∧ uniform f f.a = true ∧ flagFree c f = true ∧ c.waitsFull false = false ∧ c.g.frozen = false ∧
    ((s.core k).chan (f.imm.toNat % 8)).wpFor c.r.core < c.g.read c.tk f.lit 64 0 f.a ∧ ((s.core k).chan (f.imm.toNat % 8)).st = .run :=
  ⟨runCopyS, ctxOf runCopyS, cpwtF, 0, 3, issuing_of _ _ (by decide +kernel), by decide +kernel⟩

theorem witness_CopyControls_fails : ∃ (s : State) (c : Ctx) (f : Form) (k d : Nat), Issuing s c f.guard ∧ c.owner f s = some k ∧
    predName f.d = some d ∧ uniform f f.a = true ∧ flagFree c f = true ∧ c.waitsFull false = false ∧ c.g.frozen = false ∧
    ((s.core k).chan (f.imm.toNat % 8)).wpFor c.r.core < c.g.read c.tk f.lit 64 0 f.a ∧ ((s.core k).chan (f.imm.toNat % 8)).st ≠ .run ∧
    ((s.core k).chan (f.imm.toNat % 8)).st ≠ .held :=
  ⟨copyS, ctxOf copyS, cpwtF, 0, 3, issuing_of _ _ (by decide +kernel), by decide +kernel⟩

theorem witness_CopyControls_cancel : ∃ (s : State) (c : Ctx) (f : Form) (k : Nat) (d : Fin 48), Issuing s c f.guard ∧ c.owner f s = some k ∧
    f.d = .s d ∧ flagFree c f = true ∧ ((s.core c.r.core).chan (f.imm.toNat % 8)).st = .run :=
  ⟨runCopyS, ctxOf runCopyS, { wide (.s 4) .unused .unused .unused with imm := 7 }, 0, 4, issuing_of _ _ (by decide +kernel), by decide +kernel, rfl,
    by decide +kernel, by decide +kernel⟩

theorem witness_SectorsMove : ∃ (s : State) (core n rt p a len : Nat), let c := (s.core core).chan n
    let o := s.engineOrigin c.ref c.ten c.team
    MemoriesWf s ∧ core < 256 ∧ n < 8 ∧ (s.core core).chans.length = 8 ∧ c.st = .run ∧ (s.core core).halted = false ∧ c.conv = 0 ∧ c.ben = false ∧
    c.recv = [(rt, core)] ∧ mgetD c.wp rt 0 = c.pos ∧ c.buf = [] ∧ c.drop = [] ∧ c.cancel = false ∧ s.stopped c.ten = false ∧
    (s.core core).saving.getLsbD 0 = false ∧ o.r.core = core ∧ c.sector 8 c.pos none = [(p, a, len)] ∧ pathOf c.dst.base = 2 ∧ pathOf a = 2 ∧
    s.path o .load (c.srcAt (c.pos / c.rowLen) (c.pos % c.rowLen)) 1 = some (.spad core (c.srcAt (c.pos / c.rowLen) (c.pos % c.rowLen) % 2 ^ 22) false) ∧
    pathOf (c.srcAt (c.pos / c.rowLen) (c.pos % c.rowLen)) = 2 ∧ 0 < len ∧
    c.srcAt (c.pos / c.rowLen) (c.pos % c.rowLen) % 2 ^ 22 + len ≤ 2 ^ 22 ∧ a % 2 ^ 22 + len ≤ 2 ^ 22 ∧
    (∀ i, i < len → c.inSource o (2, spadKey core (a % 2 ^ 22 + i)) = false) ∧ s.owning = [] ∧ (s.core core).armed = [] :=
  ⟨runCopyS, 0, 7, 0, 0, spd + 0x5000, 100, ⟨by decide +kernel, by decide +kernel⟩, by decide +kernel⟩

/-! ### Barriers and ordering -/

/-- An armed object at 0x100 of the scratchpad: EXPA 2, PENA 1, phase 0; s1 names it, s2 the phase 0, s3 a count. -/
def barG : Group := { two with scal := [0, BitVec.ofNat 64 (spd + 0x100), 0, 4095] ++ List.replicate 44 0 }
/-- The state. -/
def barS : State := (at_ barG []).modCore 0 fun k => { k with spad := cwrite k.spad 0x100 (leBytes 8 (2 + 1 * 2 ^ 12)), armed := [0x10] }
/-- What issues in it. -/
def barC : Ctx := ctxOf barS

/-- The hypotheses of BarrierInstructionsReachTheUnit can be met by an instruction. -/
def ReachesUnit (i : Instr) : Prop := ∃ (f : Form) (ok : Bool) (op : BarOp) (pend : Option Pend) (s : State) (c : Ctx) (core off : Nat),
  barrierOf c off core i = some (f, ok, op, pend) ∧ Issuing s c f.guard ∧ ok = true ∧ objectAt s c f = some (core, off)

theorem reaches (i : Instr) (x : Form × Bool × BarOp × Option Pend) (h1 : barrierOf barC 0x100 0 i = some x)
    (h2 : (barS.ctx.isSome && surely barC x.1.guard) = true) (h3 : x.2.1 = true) (h4 : objectAt barS barC x.1 = some (0, 0x100)) : ReachesUnit i :=
  ⟨x.1, x.2.1, x.2.2.1, x.2.2.2, barS, barC, 0, 0x100, h1, issuing_of _ _ h2, h3, h4⟩

/-- BINIT at s1 with the count 4,095. -/
def binitI : Instr := .binit (wide .unused (.s 1) .zero (.s 3))
theorem witness_BarrierInstructionsReachTheUnit_init : ReachesUnit binitI :=
  reaches _ ((barrierOf barC 0x100 0 binitI).getD (noF, false, .arrive 0, none)) (by decide +kernel) (by decide +kernel) (by decide +kernel) (by decide +kernel)
/-- BARV. -/
def barvI : Instr := .barv (wide .unused (.s 1) .zero .unused)
theorem witness_BarrierInstructionsReachTheUnit_arrive : ReachesUnit barvI :=
  reaches _ ((barrierOf barC 0x100 0 barvI).getD (noF, false, .arrive 0, none)) (by decide +kernel) (by decide +kernel) (by decide +kernel) (by decide +kernel)
/-- BEXP. -/
def bexpI : Instr := .bexp (wide .unused (.s 1) .zero (.s 3))
theorem witness_BarrierInstructionsReachTheUnit_expect : ReachesUnit bexpI :=
  reaches _ ((barrierOf barC 0x100 0 bexpI).getD (noF, false, .arrive 0, none)) (by decide +kernel) (by decide +kernel) (by decide +kernel) (by decide +kernel)
/-- BWAIT into p7. -/
def bwaitI : Instr := .bwait (wide (.v 7) (.s 1) .zero (.s 2))
theorem witness_BarrierInstructionsReachTheUnit_wait : ReachesUnit bwaitI :=
  reaches _ ((barrierOf barC 0x100 0 bwaitI).getD (noF, false, .arrive 0, none)) (by decide +kernel) (by decide +kernel) (by decide +kernel) (by decide +kernel)
/-- BTRY with a code into s9. -/
def btryI : Instr := .btry { wide (.s 9) (.s 1) .zero (.s 2) with imm := 1 }
theorem witness_BarrierInstructionsReachTheUnit_try : ReachesUnit btryI :=
  reaches _ ((barrierOf barC 0x100 0 btryI).getD (noF, false, .arrive 0, none)) (by decide +kernel) (by decide +kernel) (by decide +kernel) (by decide +kernel)

/-- The unit with one operation in its list. -/
def unitS (op : BarOp) : State := barS.modCore 0 fun k => { k with barq := [op] }

theorem witness_BarrierUnitActs_init : ∃ (s : State) (core : Nat) (op : BarOp) (r : List BarOp) (n : Nat), MemoriesWf s ∧ (s.core core).barq = op :: r ∧
    (s.core core).halted = false ∧ op = .init (opOffset op) n ∧ n < 4096 ∧ s.hasWaiter core (opOffset op) = false :=
  ⟨unitS (.init 0x100 4095), 0, .init 0x100 4095, [], 4095, ⟨by decide +kernel, by decide +kernel⟩, by decide +kernel, by decide +kernel, rfl,
    by decide +kernel, by decide +kernel⟩

theorem witness_BarrierUnitActs_arrive : ∃ (s : State) (core : Nat) (op : BarOp) (r : List BarOp), MemoriesWf s ∧ (s.core core).barq = op :: r ∧
    (s.core core).halted = false ∧ op = .arrive (opOffset op) ∧ (s.core core).armed.contains (opOffset op / 16) = true ∧
    (objOf s core (opOffset op)).brk = false ∧ (objAfter (objOf s core (opOffset op)) op).brk = false :=
  ⟨unitS (.arrive 0x100), 0, .arrive 0x100, [], ⟨by decide +kernel, by decide +kernel⟩, by decide +kernel, by decide +kernel, rfl,
    by decide +kernel⟩

theorem witness_BarrierUnitActs_breaks : ∃ (s : State) (core : Nat) (op : BarOp) (r : List BarOp), MemoriesWf s ∧ (s.core core).barq = op :: r ∧
    (s.core core).halted = false ∧ (∃ n, op = .expect (opOffset op) n) ∧ (s.core core).armed.contains (opOffset op / 16) = true ∧
    (objOf s core (opOffset op)).brk = false ∧ (objAfter (objOf s core (opOffset op)) op).brk = true :=
  ⟨unitS (.expect 0x100 (2 ^ 32)), 0, .expect 0x100 (2 ^ 32), [], ⟨by decide +kernel, by decide +kernel⟩, by decide +kernel, by decide +kernel, ⟨2 ^ 32, rfl⟩,
    by decide +kernel⟩

theorem witness_BarrierUnitActs_unarmed : ∃ (s : State) (core : Nat) (op : BarOp) (r : List BarOp), MemoriesWf s ∧ (s.core core).barq = op :: r ∧
    (s.core core).halted = false ∧ op = .arrive (opOffset op) ∧ (s.core core).armed.contains (opOffset op / 16) = false :=
  ⟨unitS (.arrive 0x200), 0, .arrive 0x200, [], ⟨by decide +kernel, by decide +kernel⟩, by decide +kernel, by decide +kernel, rfl, by decide +kernel⟩

theorem witness_BarrierUnitActs_test : ∃ (s : State) (core : Nat) (op : BarOp) (r : List BarOp) (q st : Bool) (g : GRef) (id : Nat) (x : Group), MemoriesWf s ∧
    (s.core core).barq = op :: r ∧ (s.core core).halted = false ∧ op = .test (opOffset op) q st g id ∧ s.group? g = some x :=
  ⟨unitS (.test 0x100 true true ⟨0, 0, 0⟩ 0), 0, .test 0x100 true true ⟨0, 0, 0⟩ 0, [], true, true, ⟨0, 0, 0⟩, 0, barG,
    ⟨by decide +kernel, by decide +kernel⟩, by decide +kernel, by decide +kernel, rfl, by decide +kernel⟩

theorem witness_BarrierUnitActs_wait : ∃ (s : State) (core : Nat) (op : BarOp) (r : List BarOp) (q : Bool) (g : GRef) (id : Nat) (x : Group), MemoriesWf s ∧
    (s.core core).barq = op :: r ∧ (s.core core).halted = false ∧ op = .wait (opOffset op) q g id ∧ s.group? g = some x :=
  ⟨unitS (.wait 0x100 false ⟨0, 0, 0⟩ 0), 0, .wait 0x100 false ⟨0, 0, 0⟩ 0, [], false, ⟨0, 0, 0⟩, 0, barG,
    ⟨by decide +kernel, by decide +kernel⟩, by decide +kernel, by decide +kernel, rfl, by decide +kernel⟩

/-- BARV zero. -/
def teamF : Form := wide (.v 2) .zero .unused .unused

/-- The team in its place. -/
def soleTeam : Team := bootTeam
/-- A team of two groups. -/
def pairS : State := wS.modCore 0 fun k => { k with teams := mset k.teams 0 { bootTeam with ngrp := 2 } }

theorem witness_TeamBarrier_last : ∃ (s : State) (c : Ctx) (f : Form) (tm : Team), Issuing s c f.guard ∧ f.a = .zero ∧ s.team c.r c.g = some tm ∧
    c.sys = false ∧ ((List.range tm.ngrp).all fun n => tm.arrived.contains n || n == c.g.gidx || tm.gone.contains n) = true ∧ tm.gone.length < tm.ngrp :=
  ⟨wS, ctxOf wS, teamF, soleTeam, issuing_of _ _ (by decide +kernel), rfl, by decide +kernel⟩

theorem witness_TeamBarrier_first : ∃ (s : State) (c : Ctx) (f : Form) (tm : Team), Issuing s c f.guard ∧ f.a = .zero ∧ s.team c.r c.g = some tm ∧
    c.sys = false ∧ ((List.range tm.ngrp).all fun n => tm.arrived.contains n || n == c.g.gidx || tm.gone.contains n) = false :=
  ⟨pairS, ctxOf pairS, teamF, { bootTeam with ngrp := 2 }, issuing_of _ _ (by decide +kernel), rfl, by decide +kernel⟩

/-- The group has arrived in the present generation. -/
def arrivedS : State := at_ { two with bgen := some 0 } []

theorem witness_TeamBarrier_wait : ∃ (s : State) (c : Ctx) (f : Form) (tm : Team) (n k : Nat), Issuing s c f.guard ∧ f.a = .zero ∧ s.team c.r c.g = some tm ∧
    c.sys = false ∧ predName f.d = some n ∧ flagFree c f = true ∧ c.waitsFull true = false ∧ c.g.bgen = some k ∧ ¬k < tm.gen :=
  ⟨arrivedS, ctxOf arrivedS, teamF, soleTeam, 2, 0, issuing_of _ _ (by decide +kernel), rfl, by decide +kernel⟩

theorem witness_OrderingInstructions_phase : ∃ (s : State) (c : Ctx) (f : Form), Issuing s c f.guard ∧ flagFree c f = true ∧ c.waitsFull false = false ∧
    (f.scope.toNat < 4 ∨ (s.core c.r.core).pub = []) :=
  ⟨wS, ctxOf wS, { noF with scope := 6 }, issuing_of _ _ (by decide +kernel), by decide +kernel⟩

/-- TOKWT p1 of token 40 against 2. -/
def tokF : Form := wide (.v 1) (.s 1) (.s 2) .unused

theorem witness_OrderingInstructions_token : ∃ (s : State) (c : Ctx) (f : Form) (n : Nat), Issuing s c f.guard ∧ predName f.d = some n ∧ flagFree c f = true ∧
    c.waitsFull true = false ∧ uniform f f.a = true ∧ f.a ≠ .zero ∧ uniform f f.b = true ∧ c.g.read c.tk f.lit 64 0 f.a < 4096 :=
  ⟨wS, ctxOf wS, tokF, 1, issuing_of _ _ (by decide +kernel), by decide +kernel⟩

/-! ### The matrix engine -/

/-- A tile word: rows and columns 0 to 3, at row 5 and column 9 of the store. -/
def tileWord : Nat := 3 * 2 ^ 49 + 3 * 2 ^ 40 + 5 * 2 ^ 16 + 9
/-- A group whose s1 is the tile word. -/
def tileG : Group := { two with scal := [0, BitVec.ofNat 64 tileWord] ++ List.replicate 46 0 }
/-- The state. -/
def tileS : State := at_ tileG []
/-- MZERO of the tile. -/
def mzeroF : Form := wide .unused (.s 1) .unused .unused

theorem witness_MatrixInstructionsQueue_zero : ∃ (i : Instr) (fn : Nat) (f : Form) (s : State) (c : Ctx), matrixOf i = some (fn, f) ∧ Issuing s c f.guard ∧
    flagFree c f = true ∧ uniform f f.a = true ∧ f.a ≠ .zero ∧ (fn ≠ 5 → isS f.a = true ∧ uniform f f.b = true) ∧
    (fn ≠ 5 → wholeAddr c f / 2 ^ 22 = 2 ^ 39 ∧ wholeAddr c f % 128 = 0) ∧
    s.matCheck (s.origin c.r c.g) (matrixOp s c fn f) (matrixHigh s c fn f) (argsOf s c.g) = none ∧
    (∀ k ∈ (if fn = 2 then [c.r.core, c.r.core + 1, c.r.core + 16, c.r.core + 17] else [c.r.core]),
      (s.core k).mat.length + (s.core k).matIn.length < 8) :=
  ⟨.mzero mzeroF, 5, mzeroF, tileS, ctxOf tileS, rfl, issuing_of _ _ (by decide +kernel), by decide +kernel⟩

/-- The block of an MLDA of that tile from the scratchpad. -/
def mldaBlock : List Byte := leBytes 8 (4 * 2 ^ 60) ++ leBytes 8 tileWord ++ leBytes 16 (capOf (spd + 0x3000) 0x20000 1 0 3 true).bits.toNat
/-- The state, with s1 the block's address. -/
def mldaS : State := (at_ { two with scal := [0, BitVec.ofNat 64 (spd + 0x6000)] ++ List.replicate 46 0 } []).modCore 0 fun k =>
  { k with spad := cwrite k.spad 0x6000 mldaBlock, stags := [0x600, 0x601, 0x602] }
/-- MLDA. -/
def mldaF : Form := wide .unused (.s 1) .zero .unused

theorem witness_MatrixInstructionsQueue_load : ∃ (i : Instr) (fn : Nat) (f : Form) (s : State) (c : Ctx), matrixOf i = some (fn, f) ∧ Issuing s c f.guard ∧
    flagFree c f = true ∧ uniform f f.a = true ∧ f.a ≠ .zero ∧ (fn ≠ 5 → isS f.a = true ∧ uniform f f.b = true) ∧
    (fn ≠ 5 → wholeAddr c f / 2 ^ 22 = 2 ^ 39 ∧ wholeAddr c f % 128 = 0) ∧
    s.matCheck (s.origin c.r c.g) (matrixOp s c fn f) (matrixHigh s c fn f) (argsOf s c.g) = none ∧
    (∀ k ∈ (if fn = 2 then [c.r.core, c.r.core + 1, c.r.core + 16, c.r.core + 17] else [c.r.core]),
      (s.core k).mat.length + (s.core k).matIn.length < 8) :=
  ⟨.mlda mldaF, 6, mldaF, mldaS, ctxOf mldaS, rfl, issuing_of _ _ (by decide +kernel), by decide +kernel⟩

/-- MZERO in the queue. -/
def zeroOp : MatOp := matrixOp tileS (ctxOf tileS) 5 mzeroF
/-- Its operation in the group. -/
def zeroP : Pend := opOf (ctxOf tileS) mzeroF (.matrix [0]) [] []
/-- The head of the queue, as far as given. -/
def engineS (run : Bool) (unit : Nat) : State :=
  (tileS.modGroup ⟨0, 0, 0⟩ fun g => { counted zeroP g with st := .ready }).modCore 0 fun k => { k with mat := [{ zeroOp with run := run, unit := unit }] }

theorem witness_MatrixEngineActs_start : ∃ (s : State) (core : Nat) (m : MatOp) (r : List MatOp), (s.core core).mat = m :: r ∧ s.stopped m.ten = false ∧
    (s.core core).halted = false ∧ m.run = false :=
  ⟨engineS false 0, 0, { zeroOp with run := false, unit := 0 }, [], by decide +kernel⟩

theorem witness_MatrixEngineActs_unit : ∃ (s : State) (core : Nat) (m : MatOp) (r : List MatOp), (s.core core).mat = m :: r ∧ s.stopped m.ten = false ∧
    (s.core core).halted = false ∧ m.run = true ∧ m.fn = 5 ∧ m.unit < m.rows ∧ m.why ≠ some .record :=
  ⟨engineS true 3, 0, { zeroOp with run := true, unit := 3 }, [], by decide +kernel⟩

theorem witness_MatrixEngineActs_complete : ∃ (s : State) (core : Nat) (m : MatOp) (r : List MatOp) (g : Group) (p : Pend), (s.core core).mat = m :: r ∧
    s.stopped m.ten = false ∧ (s.core core).halted = false ∧ m.run = true ∧ m.unit ≥ m.rows ∧ (m.fn = 5 ∨ m.fn = 4 ∨ m.fn = 6) ∧ s.group? m.ref = some g ∧
    g.pend.find? (fun x => x.id == m.pend) = some p ∧ p.kind = .matrix [core] ∧ p.done = false ∧ p.dests = [] ∧ p.ivs = [] ∧ p.capTag = none ∧
    p.dirty = [] ∧ g.st = .ready :=
  ⟨engineS true 4, 0, { zeroOp with run := true, unit := 4 }, [], { counted zeroP tileG with st := .ready }, zeroP, by decide +kernel⟩

theorem witness_MatrixEngineActs_quarter : ∃ (s : State) (core : Nat) (m : MatOp) (r : List MatOp) (q : MatOp) (k : List MatOp), (s.core core).mat = m :: r ∧
    s.stopped m.ten = false ∧ (s.core core).halted = false ∧ (s.core core).matIn = q :: k :=
  ⟨(engineS true 0).modCore 0 fun k => { k with matIn := [zeroOp] }, 0, { zeroOp with run := true, unit := 0 }, [], zeroOp, [], by decide +kernel⟩

end Sys2Proof.Tests
end

