-- ==== Sys2Proof/Tests/WitnessEvents.lean ====
section
/-! SUPPORT. Witnesses: concrete states that meet the hypotheses of the statements on turns, spilled groups, grids, withdrawal and freezes. -/

namespace Sys2Proof.Tests

open Sys2Proof Sys2Proof.Machine Sys2Proof.Claims

-- One theorem at a time, so that the package compiles as one text in little memory.
set_option Elab.async false

/-! ### Turns, records and spilled groups -/

/-- Another ready group of the quarter, and a turn that its owner has had for 56 rotations. -/
def turnS : State := (wS.setGroup ⟨0, 0, 5⟩ { two with readyAt := 3 }).modQuarter 0 0 fun q => { q with owned := lput 0 q.owned 0 56 }

theorem witness_TurnEvents_quantum : ∃ (s : State) (r : GRef) (g : Group) (n k : Nat), s.group? r = some g ∧
    (s.quarter r.core r.qtr).active.findIdx? (· == some r.slot) = some n ∧ 56 ≤ (s.quarter r.core r.qtr).owned.getD n 0 ∧
    earliest (s.readyPending r.core r.qtr) = some k :=
  ⟨turnS, ⟨0, 0, 0⟩, two, 0, 5, by decide +kernel⟩

/-- A record of the group in slot 0. -/
def recA : Record := ⟨0x0e, 0, 1, 0, BitVec.ofNat 64 bootPc, BitVec.ofNat 64 (bootPc + 12), 1, 0, 0, whoOf 1 ⟨0, 0, 0⟩, 0⟩
/-- It stands in the ring. -/
def ringS : State := wS.modQuarter 0 0 fun q => { q with ring := [recA], tail := 1, svec := 0x10040, fqb := 0x10200, sroot := BitVec.ofNat 64 bootRoot }
/-- It waits for its place. -/
def waitS : State := wS.modQuarter 0 0 fun q => { q with waitRec := [recA], seq := 9, tail := 127, fqb := 0x10200, sroot := BitVec.ofNat 64 bootRoot }

theorem witness_TurnEvents_service : ∃ (s : State) (core qtr : Nat) (x : Record) (rest : List Record), qtr < 4 ∧ (s.quarter core qtr).ring = x :: rest ∧
    (s.quarter core qtr).busy = false ∧ (s.core core).halted = false :=
  ⟨ringS, 0, 0, recA, [], by decide +kernel⟩

theorem witness_TurnEvents_record : ∃ (s s1 : State) (core qtr : Nat) (x : Record), let q := s.quarter core qtr
    q.ring.length < Config.ringRecords ∧ (s.core core).halted = false ∧ q.waitRec.find? s.recordFree = some x ∧
    (s.modQuarter core qtr (ringTakes x)).supWrites core qtr (q.fqb.toNat % 2 ^ 57 + 64 * q.tail)
      ({ x with seq := q.seq } : Record).pieces = .ok s1 := by
  have h : ((waitS.modQuarter 0 0 (ringTakes recA)).supWrites 0 0 ((waitS.quarter 0 0).fqb.toNat % 2 ^ 57 + 64 * (waitS.quarter 0 0).tail)
      ({ recA with seq := (waitS.quarter 0 0).seq } : Record).pieces).toOption.isSome = true := by decide +kernel
  obtain ⟨s1, e⟩ := Option.isSome_iff_exists.1 h
  exact ⟨waitS, s1, 0, 0, recA, by decide +kernel, by decide +kernel, by decide +kernel, ok_of e⟩

/-- A group of 8 words that waits for 16, younger than one that has the rest of the quarter. -/
def youngG : Group := { groupOf [{ laneOf [] with stack := [(0, 77)] }] [0, 5] with st := .acqWait, pro := 8, allot := 8, full := 16, age := 7 }
/-- The other. -/
def oldG : Group := { groupOf [laneOf []] [] with st := .acqWait, pro := 2008, allot := 2008, full := 2016, age := 1, gidx := 4 }
/-- Their grid, one role of 8 groups, with its SPILL area at 0x11000. -/
def spillGrid : Grid :=
  { gridOf_ [] with lrec := [0, BitVec.ofNat 64 bootPc, BitVec.ofNat 64 (2 ^ 20 + 2 ^ 24 + 2 ^ 32 + 2 ^ 48), BitVec.ofNat 64 (8 + 16 * 2 ^ 12 + 8 * 2 ^ 26), 0, 0, 0, 0, 0, 0, 0, 0,
      0x11000, BitVec.ofNat 64 (0x8000 + 7 * 2 ^ 40)] ++ List.replicate 18 0 }
/-- The state. -/
def spillS : State := withGrid ((at_ youngG []).setGroup ⟨0, 0, 5⟩ oldG) spillGrid

theorem witness_SpillAndReplay_spill : ∃ (s s1 : State) (core qtr : Nat) (r : GRef) (g : Group) (x : Grid) (tm : Team), s.breakable core qtr = some (r, g) ∧
    s.gridOf g = some x ∧ s.team r g = some tm ∧ (s.core core).pub = [] ∧ r.core = core ∧ r.qtr = qtr ∧ r.slot < 63 ∧
    s.engineWrite (s.engineOrigin r g.ten g.team) (x.spillAt tm g.gidx) (s.spillImage r { g with st := .spilled }) = (s1, none) :=
  ⟨spillS, _, 0, 0, ⟨0, 0, 0⟩, youngG, spillGrid, bootTeam, by decide +kernel, by decide +kernel, by decide +kernel, by decide +kernel, by decide +kernel,
    by decide +kernel, by decide +kernel, pair_of (by decide +kernel)⟩

/-- The spilled group. -/
def spilledG : Group := { youngG with st := .spilled }
/-- After the spill, when the other group has ended. -/
def spilledS : State := { spillS with groups := [] }.modCore 0 fun k => { k with spilled := [(0, spilledG)] }
theorem bytes_of {x : State × EGot} (h : (match x.2 with | .bytes _ => true | _ => false) = true) : ∃ bs, x = (x.1, .bytes bs) := by
  obtain ⟨s, t⟩ := x
  cases t with
  | bytes bs => exact ⟨bs, rfl⟩
  | fault a b => simp at h
  | wait w => simp at h
  | path a => simp at h

theorem witness_SpillAndReplay_refill : ∃ (s s1 : State) (core qtr k : Nat) (g : Group) (x : Grid) (tm : Team) (bs : List Byte), s.refillable core qtr = some (k, g) ∧
    s.gridOf g = some x ∧ s.team ⟨core, qtr, k % 64⟩ g = some tm ∧
    s.engineRead (s.engineOrigin ⟨core, qtr, k % 64⟩ g.ten g.team) (x.spillAt tm g.gidx) (spillBytes g.regWords g.full) = (s1, .bytes bs) := by
  obtain ⟨bs, h⟩ := bytes_of (x := spilledS.engineRead (spilledS.engineOrigin ⟨0, 0, 0⟩ spilledG.ten spilledG.team) (spillGrid.spillAt bootTeam spilledG.gidx)
    (spillBytes spilledG.regWords spilledG.full)) (by decide +kernel)
  exact ⟨spilledS, _, 0, 0, 0, spilledG, spillGrid, bootTeam, bs, by decide +kernel, by decide +kernel, by decide +kernel, h⟩

/-- A store of 7 in the side log. -/
def entryL (a : Nat) : LogEntry := ⟨4, 0, BitVec.ofNat 64 a, 7, 0, 0, 0, false, false, false, false, ⟨0, 0, 0⟩, 0, 1, 1, BitVec.ofNat 64 bootPc, 0, 1, false, false, 0⟩
/-- The state with it. -/
def logS (a : Nat) : State := wS.modCore 0 fun k => { k with log := [entryL a], logNext := 5 }

theorem witness_SpillAndReplay_peer : ∃ (s : State) (core : Nat) (e : LogEntry) (rest : List LogEntry), (s.core core).log = e :: rest ∧ e.told = false ∧
    e.refused = false ∧ (s.core core).logWait = none ∧ s.stopped e.ten = false ∧ (s.core core).halted = false ∧ pathOf e.addr.toNat = 7 :=
  ⟨logS (7 * 2 ^ 60 + 2 ^ 52 + 0x100), 0, entryL (7 * 2 ^ 60 + 2 ^ 52 + 0x100), [], by decide +kernel⟩

theorem witness_SpillAndReplay_replay : ∃ (s : State) (core : Nat) (e : LogEntry) (rest : List LogEntry) (s1 : State) (k : Nat),
    s.translate (s.logOrigin e).who .store (e.addr.toNat % 2 ^ 57) = (s1, .ok (.phys k)) ∧ (s.core core).log = e :: rest ∧
    e.told = false ∧ e.refused = false ∧ (s.core core).logWait = none ∧ s.stopped e.ten = false ∧ (s.core core).halted = false ∧ pathOf e.addr.toNat ≠ 7 ∧
    e.kind ≠ 2 ∧ (s1.core core).log = e :: rest ∧ (s1.core core).pub = [] ∧ s1.owning = [] :=
  ⟨logS 0x10400, 0, entryL 0x10400, [], _, 0x140400, pair_of (by decide +kernel), by decide +kernel⟩

theorem witness_SpillAndReplay_fault : ∃ (s : State) (core : Nat) (e : LogEntry) (rest : List LogEntry) (s1 : State) (n : Nat), (s.core core).log = e :: rest ∧
    e.told = false ∧ e.refused = false ∧ (s.core core).logWait = none ∧ s.stopped e.ten = false ∧ (s.core core).halted = false ∧ pathOf e.addr.toNat ≠ 7 ∧
    s.translate (s.logOrigin e).who (if e.kind = 2 then .atomic else .store) (e.addr.toNat % 2 ^ 57) = (s1, .fault n) ∧ (s1.core core).log = e :: rest ∧ e.ref.qtr < 4 :=
  ⟨logS 0x20400, 0, entryL 0x20400, [], _, 1, by decide +kernel, by decide +kernel, by decide +kernel, by decide +kernel,
    by decide +kernel, by decide +kernel, by decide +kernel, pair_of (by decide +kernel), by decide +kernel, by decide +kernel⟩

/-! ### Grids -/

/-- A grid that is queued, of a priority. -/
def queued (h prio : Nat) : Grid := { gridOf_ [] with handle := h, st := .queued, prio := prio }
/-- Two of them. -/
def queueS : State := wS.modPart 0 fun p => { p with grids := [queued 1 2, queued 2 5] }

theorem witness_GridEvents_start : ∃ (s : State) (part : Nat) (p : Part) (x : Grid), s.part? part = some p ∧ x ∈ p.startable ∧ p.grid? x.handle = some x ∧
    (∀ y ∈ p.startable, y = x ∨ (x.before_ y = true ∧ y.before_ x = false)) :=
  ⟨queueS, 0, { bootPart with grids := [queued 1 2, queued 2 5] }, queued 2 5, by decide +kernel⟩

/-- A cluster in a condition. -/
def clusterOf (st : ClusterState) : Cluster := ⟨3, 0, 0, 0, 0, st, 1⟩
/-- A running grid of one team of one group a cluster, whose clusters are as given; its map lies at 0x10400. -/
def runGrid (coop : Bool) (cs : List Cluster) : Grid :=
  { gridOf_ [] with handle := 2, prio := 1, base := 0x10400, clusters := cs,
                    lrec := [BitVec.ofNat 64 (if coop then 2 ^ 39 else 0), BitVec.ofNat 64 bootPc, BitVec.ofNat 64 (2 ^ 20 + 2 ^ 24 + 2 ^ 32 + 2 ^ 48), BitVec.ofNat 64 (32 + 32 * 2 ^ 12 + 2 ^ 26)] ++
                      List.replicate 28 0 }
/-- A state with the core free and that grid. -/
def gridS (x : Grid) : State :=
  let s := wS.modPart 0 fun p => { p with grids := [x] }
  ({ s with groups := [] } : State).modCore 0 fun k => { k with teams := [] }
/-- A grid that is over, which signals token 9. -/
def overG : Grid := { runGrid false [clusterOf .retired] with lrec := lput 0 (runGrid false []).lrec 9 (BitVec.ofNat 64 (2 ^ 15 + 9)) }

theorem witness_GridEvents_retire : ∃ (s : State) (part h : Nat) (p : Part) (x : Grid) (st : GridState), s.part? part = some p ∧ p.grid? h = some x ∧
    x.outcome = some st ∧ s.storesOut part h x.ten x.cscope = false :=
  ⟨gridS overG, 0, 2, { bootPart with grids := [overG] }, overG, .done, by decide +kernel⟩

/-- The grid whose cluster waits. -/
def waitG : Grid := runGrid false [clusterOf .waiting]
/-- Its map entry names the rectangle at (0, 0). -/
def admitS : State := gridS waitG
/-- Its map entry is no rectangle of the partition. -/
def badMapS : State := { admitS with mem := cwrite admitS.mem 0x14040c (leBytes 4 0x11) }

theorem witness_GridEvents_admit : ∃ (s s1 : State) (part h n : Nat) (p : Part) (x : Grid) (c d : Cluster), s.part? part = some p ∧ p.grid? h = some x ∧
    x.clusters.find? (fun d => d.idx == n) = some c ∧ c.st = .waiting ∧ s.nextAdmitted part p h n = true ∧ s.reread p x c = (s1, .cluster d) ∧
    s1.parts = s.parts ∧ s1.clusterMeets part x d = true ∧ d.dev = p.didx :=
  ⟨admitS, _, 0, 2, 3, { bootPart with grids := [waitG] }, waitG, clusterOf .waiting, clusterOf .waiting, by decide +kernel, by decide +kernel, by decide +kernel,
    by decide +kernel, by decide +kernel, pair_of (by decide +kernel), by decide +kernel⟩

theorem witness_GridEvents_badEntry : ∃ (s s1 : State) (part h n : Nat) (p : Part) (x : Grid) (c : Cluster), s.part? part = some p ∧ p.grid? h = some x ∧
    x.clusters.find? (fun d => d.idx == n) = some c ∧ c.st = .waiting ∧ s.nextAdmitted part p h n = true ∧ s.reread p x c = (s1, .bad) :=
  ⟨badMapS, _, 0, 2, 3, { bootPart with grids := [waitG] }, waitG, clusterOf .waiting, by decide +kernel, by decide +kernel, by decide +kernel,
    by decide +kernel, by decide +kernel, pair_of (by decide +kernel)⟩

/-- The map entry has come to name core 1, which is not in service. -/
def movedS : State :=
  let s := admitS.modPart 0 fun p => { p with cores := [0, 1] }
  ({ s with mem := cwrite s.mem 0x14040c (leBytes 4 1) } : State).modCore 1 fun k => { k with inService := false, part := some 0 }

theorem witness_GridEvents_later : ∃ (s s1 : State) (part h n : Nat) (p : Part) (x : Grid) (c d : Cluster), s.part? part = some p ∧ p.grid? h = some x ∧
    x.clusters.find? (fun d => d.idx == n) = some c ∧ c.st = .waiting ∧ s.nextAdmitted part p h n = true ∧ s.reread p x c = (s1, .cluster d) ∧
    s1.clusterMeets part x d = false :=
  ⟨movedS, _, 0, 2, 3, { bootPart with grids := [waitG], cores := [0, 1] }, waitG, clusterOf .waiting, { clusterOf .waiting with x0 := 1 }, by decide +kernel, by decide +kernel,
    by decide +kernel, by decide +kernel, by decide +kernel, pair_of (by decide +kernel), by decide +kernel⟩

/-- A cooperative grid whose one cluster waits. -/
def coopG : Grid := runGrid true [clusterOf .waiting]

theorem witness_GridEvents_cooperative : ∃ (s s1 s2 : State) (part h : Nat) (p : Part) (x : Grid) (cs : List Cluster), s.part? part = some p ∧ p.grid? h = some x ∧
    x.coop = true ∧ s.gridOpen x = true ∧ x.clusters.all (fun c => c.st == .waiting) = true ∧ ((s.offered p).head?.map fun y => y.1.handle) = some h ∧
    s.rereadAll p x x.clusters = (s1, some (some cs)) ∧ s1.admitAll part x cs = some s2 ∧ s1.parts = s.parts := by
  have h : ((gridS coopG).rereadAll { bootPart with grids := [coopG] } coopG coopG.clusters).2 = some (some [clusterOf .waiting]) := by decide +kernel
  have a : (((gridS coopG).rereadAll { bootPart with grids := [coopG] } coopG coopG.clusters).1.admitAll 0 coopG [clusterOf .waiting]).isSome = true := by decide +kernel
  obtain ⟨s2, e⟩ := Option.isSome_iff_exists.1 a
  exact ⟨gridS coopG, _, s2, 0, 2, { bootPart with grids := [coopG] }, coopG, [clusterOf .waiting], by decide +kernel, by decide +kernel, by decide +kernel,
    by decide +kernel, by decide +kernel, by decide +kernel, pair_of h, e, by decide +kernel⟩

/-- The same with the core out of service. -/
def coopBusyS : State := (gridS coopG).modCore 0 fun k => { k with inService := false }

theorem witness_GridEvents_cooperativeWaits : ∃ (s s1 : State) (part h : Nat) (p : Part) (x : Grid) (cs : List Cluster), s.part? part = some p ∧ p.grid? h = some x ∧
    x.coop = true ∧ s.gridOpen x = true ∧ x.clusters.all (fun c => c.st == .waiting) = true ∧ ((s.offered p).head?.map fun y => y.1.handle) = some h ∧
    s.rereadAll p x x.clusters = (s1, some (some cs)) ∧ s1.admitAll part x cs = none := by
  have a : ((coopBusyS.rereadAll { bootPart with grids := [coopG] } coopG coopG.clusters).1.admitAll 0 coopG [clusterOf .waiting]).isNone = true := by decide +kernel
  exact ⟨coopBusyS, _, 0, 2, { bootPart with grids := [coopG] }, coopG, [clusterOf .waiting], by decide +kernel, by decide +kernel, by decide +kernel,
    by decide +kernel, by decide +kernel, by decide +kernel, pair_of (by decide +kernel), Option.isNone_iff_eq_none.1 a⟩

/-- Its map entry is bad. -/
def coopBadS : State := { gridS coopG with mem := cwrite (gridS coopG).mem 0x14040c (leBytes 4 0x11) }

theorem witness_GridEvents_cooperativeBad : ∃ (s s1 : State) (part h : Nat) (p : Part) (x : Grid), s.part? part = some p ∧ p.grid? h = some x ∧
    x.coop = true ∧ s.gridOpen x = true ∧ x.clusters.all (fun c => c.st == .waiting) = true ∧ ((s.offered p).head?.map fun y => y.1.handle) = some h ∧
    s.rereadAll p x x.clusters = (s1, some none) :=
  ⟨coopBadS, _, 0, 2, { bootPart with grids := [coopG] }, coopG, by decide +kernel, by decide +kernel, by decide +kernel, by decide +kernel, by decide +kernel,
    by decide +kernel, pair_of (by decide +kernel)⟩

end Sys2Proof.Tests
end

