-- ==== Sys2Proof/Tests/WitnessFreezes.lean ====
section
/-! SUPPORT. Witnesses: concrete states that meet the hypotheses of the statements on withdrawal, resumption and freezes. -/

namespace Sys2Proof.Tests

open Sys2Proof Sys2Proof.Machine Sys2Proof.Claims

-- One theorem at a time, so that the package compiles as one text in little memory.
set_option Elab.async false

theorem some_getD {α : Type} {o : Option α} (d : α) (h : o.isSome = true) : o = some (o.getD d) := by
  cases o with
  | none => simp at h
  | some x => rfl

/-! ### Withdrawal -/

/-- The running grid of the group in slot 0, of one admitted cluster, whose LOCK area is at 0x12000. -/
def lockG (st : GridState) (cs : ClusterState) : Grid :=
  { gridOf_ [] with st := st, clusters := [⟨0, 0, 0, 0, 0, cs, 1⟩],
                    lrec := [0, BitVec.ofNat 64 bootPc, BitVec.ofNat 64 (2 ^ 20 + 2 ^ 24 + 2 ^ 32 + 2 ^ 48), BitVec.ofNat 64 (32 + 32 * 2 ^ 12 + 2 ^ 26), 0, 0, 0, 0, 0, 0,
                      0, 0, 0, 0, 0x12000, BitVec.ofNat 64 (0x8000 + 7 * 2 ^ 40)] ++ List.replicate 16 0 }
/-- The group runs in that grid; the page after its first is present, too. -/
def runS : State := { withGrid wS (lockG .running .admitted) with mem := cwrite wS.mem 0x130010 (bootLeaf 0x150000) }

theorem witness_WithdrawAndResume_withdraw : ∃ (s : State) (part : Nat) (cores : List Nat) (p : Part) (x : Grid) (c : Cluster) (k : Nat × Nat × Team)
    (g : GRef × Group), PlacesRise s ∧ s.part? part = some p ∧ x ∈ p.grids ∧ c ∈ s.toPark part x cores ∧ k ∈ s.clusterTeams part x.handle c.idx ∧
    g ∈ s.teamResidents k.1 k.2.1 :=
  ⟨runS, 0, [0], { bootPart with grids := [lockG .running .admitted] }, lockG .running .admitted, ⟨0, 0, 0, 0, 0, .admitted, 1⟩, (0, 0, bootTeam), (⟨0, 0, 0⟩, two),
    by unfold PlacesRise; decide +kernel, by decide +kernel⟩

/-- A grid whose clusters have no core on this device, so that its image has no core part. -/
def flatG : Grid := { lockG .running .admitted with lrec := lput 0 (lockG .running .admitted).lrec 2 (BitVec.ofNat 64 (2 ^ 32 + 2 ^ 48)) }
/-- A cluster all of whose teams have left the device; the pages of LOCK are present. -/
def leftS : State :=
  let s : State := { withGrid wS flatG with mem := cwrite (cwrite wS.mem 0x130010 (bootLeaf 0x150000)) 0x130018 (bootLeaf 0x160000), groups := [] }
  s.modCore 0 fun k => { k with teams := [] }
/-- It, ready to be parked. -/
def readyX : State × Grid := (([0].foldl (fun s n => s.haltCluster 0 1 n) leftS).parkReady 0 1 [0]).getD (leftS, flatG)

theorem witness_WithdrawAndResume_park : ∃ (s s1 s2 : State) (part h : Nat) (maps : List Nat) (y : Grid),
    (maps.foldl (fun s n => s.haltCluster part h n) s).parkReady part h maps = some (s1, y) ∧ s1.parkImage part y maps = (s2, true) ∧ s2.parts = s1.parts ∧
    s2.cores.map (fun k => (k.1, k.2.teams)) = s1.cores.map (fun k => (k.1, k.2.teams)) ∧ maps ≠ [] :=
  ⟨leftS, readyX.1, _, 0, 1, [0], readyX.2, some_getD (leftS, flatG) (by decide +kernel), pair_of (by decide +kernel), by decide +kernel⟩

/-- An image in LOCK: one section of no length, of the map index 0. -/
def parkedS : State :=
  let s : State := withGrid wS (lockG .parked .parked)
  let m := cwrite s.mem 0x142000 (leBytes 8 (2 ^ 56 + 4 * 2 ^ 32 + 2 ^ 16 + 1) ++ leBytes 8 0x1000)
  let m := cwrite (cwrite m 0x142010 (leBytes 8 (2 * 2 ^ 32 + 1))) 0x142300 (leBytes 8 0x1000)
  let s : State := { s with mem := m, groups := [] }
  s.modCore 0 fun k => { k with teams := [] }
/-- What is read there. -/
def parkedX : State × Thawing := parkedS.readImage (parkedS.engineOrigin ⟨0, 0, 64⟩ 1 16) 0 0x12000 (some 0)

theorem parked_of {x : State × Thawing} {i : Image} (h : (match x.2 with | .image j => decide (j = i) | _ => false) = true) : x = (x.1, .image i) := by
  obtain ⟨s, t⟩ := x
  cases t with
  | image j => simpa using h
  | none => simp at h
  | bad => simp at h
  | miss e => simp at h

/-- Its image. -/
def theImage : Image := match parkedX.2 with
  | .image i => i
  | _ => ⟨[], [], [], [], []⟩

theorem witness_WithdrawAndResume_resume : ∃ (s s1 : State) (part h : Nat) (p : Part) (x : Grid) (i : Image) (c : Cluster), s.part? part = some p ∧
    p.grid? h = some x ∧ x.st = .parked ∧ x.coop = false ∧ x.clusters.filter (fun c => c.st == .parked) = [c] ∧ s.admits x.ten = true ∧
    s.clusterMeets part x c = true ∧ s.readImage (s.engineOrigin ⟨0, 0, 64⟩ x.ten 16) part x.lock.base (some c.idx) = (s1, .image i) ∧
    s1.parts = s.parts ∧ s1.sectionShort part p i c.x0 c.y0 = none ∧ i.handle = h ∧ i.map = c.idx :=
  ⟨parkedS, parkedX.1, 0, 1, { bootPart with grids := [lockG .parked .parked] }, lockG .parked .parked, theImage, ⟨0, 0, 0, 0, 0, .parked, 1⟩, by decide +kernel,
    by decide +kernel, by decide +kernel, by decide +kernel, by decide +kernel, by decide +kernel, by decide +kernel,
    (parked_of (x := parkedX) (by decide +kernel)), by decide +kernel⟩

theorem witness_WithdrawAndResume_resumed : ∃ (s u : State) (part h : Nat) (p : Part) (x : Grid), s.part? part = some p ∧ p.grid? h = some x ∧
    s.resumed part x = some u :=
  ⟨parkedS, _, 0, 1, { bootPart with grids := [lockG .parked .parked] }, lockG .parked .parked, by decide +kernel, by decide +kernel,
    some_getD parkedS (by decide +kernel)⟩

/-! ### Freezes -/

/-- The tenant's FREEZE has still to reach core 0. -/
def freezing (reach : List Nat) : Tenant := { bootTenant with freezing := true, freezeAt := 0, reach := reach, halted := 1 }
/-- The state with it, in which the group in slot 1 runs diverged and the system group's FREEZE waits. -/
def frzS (reach : List Nat) : State :=
  let s := { wS with tenants := mset wS.tenants 1 (freezing reach) }
  let s := s.setGroup ⟨0, 0, 1⟩ (groupOf [laneOf [], { laneOf [] with pc := 0x10100 }] [])
  s.setGroup ⟨0, 0, 63⟩ { sysGroup with pend := [{ Pend.new 0 0 0 0 (.freeze 1) [] [] with id := 4 }] }

theorem witness_FreezeEvents_reach : ∃ (s : State) (ten core : Nat) (tn : Tenant) (r q v : GRef) (g d y : Group), s.tenant? ten = some tn ∧ PlacesRise s ∧ tn.freezing = true ∧
    tn.reach.contains core = true ∧ s.group? r = some g ∧ r.core = core ∧ r.qtr < 4 ∧ r.slot < 63 ∧ g.ten = ten ∧ g.frozen = false ∧ g.runsOn = false ∧
    s.group? q = some d ∧ q.core = core ∧ q.qtr < 4 ∧ q.slot < 63 ∧ d.ten = ten ∧ d.frozen = false ∧ d.runsOn = true ∧
    s.group? v = some y ∧ v.qtr < 4 ∧ v.slot < 64 ∧ v.slot = 63 :=
  ⟨frzS [0], 1, 0, freezing [0], ⟨0, 0, 0⟩, ⟨0, 0, 1⟩, ⟨0, 0, 63⟩, two, groupOf [laneOf [], { laneOf [] with pc := 0x10100 }] [],
    { sysGroup with pend := [{ Pend.new 0 0 0 0 (.freeze 1) [] [] with id := 4 }] }, by decide +kernel, by unfold PlacesRise; decide +kernel, by decide +kernel⟩

theorem witness_FreezeEvents_timeout : ∃ (s : State) (ten core : Nat) (tn : Tenant) (r : GRef) (g : Group), s.tenant? ten = some tn ∧ PlacesRise s ∧
    tn.freezing = true ∧ tn.reach.contains core = false ∧ tn.freezeAt ≤ s.cycle ∧ s.group? r = some g ∧ r.core = core ∧ r.qtr < 4 ∧ r.slot < 63 ∧ g.ten = ten ∧
    g.frozen = false ∧ g.runsOn = true :=
  ⟨frzS [], 1, 0, freezing [], ⟨0, 0, 1⟩, groupOf [laneOf [], { laneOf [] with pc := 0x10100 }] [], by decide +kernel, by unfold PlacesRise; decide +kernel,
    by decide +kernel⟩

/-- All groups of the tenant have halted. -/
def allHalted : State :=
  let s := (frzS []).delGroup ⟨0, 0, 1⟩
  s.setGroup ⟨0, 0, 0⟩ { two with frozen := true }

theorem witness_FreezeEvents_complete : ∃ (s : State) (ten : Nat) (tn : Tenant) (r : GRef) (g : Group) (p : Pend), s.tenant? ten = some tn ∧ tn.freezing = true ∧
    tn.reach = [] ∧ (stilled s ten).settled ten = true ∧ (stilled s ten).group? r = some g ∧ p ∈ g.pend ∧ p.kind = .freeze ten :=
  ⟨allHalted, 1, freezing [], ⟨0, 0, 63⟩, { sysGroup with pend := [{ Pend.new 0 0 0 0 (.freeze 1) [] [] with id := 4 }] },
    { Pend.new 0 0 0 0 (.freeze 1) [] [] with id := 4 }, by decide +kernel⟩

end Sys2Proof.Tests
end

