-- ==== Sys2Proof/Tests/WitnessHost.lean ====
section
/-! SUPPORT. Witnesses: concrete states that meet the hypotheses of the statements on the partition manager, the host and resets. -/

namespace Sys2Proof.Tests

open Sys2Proof Sys2Proof.Machine Sys2Proof.Claims

-- One theorem at a time, so that the package compiles as one text in little memory.
set_option Elab.async false

/-! ### The partition manager -/

/-- A frozen tenant. -/
def frozenT : Tenant := { bootTenant with frozen := true }
/-- The state with it. -/
def frozenS : State := { wS with tenants := mset wS.tenants 1 frozenT }

theorem witness_ManagerEvents_route : ∃ (s : State) (old new : Nat) (p : Part) (ten : Nat) (tn : Tenant), old < 256 ∧ new < 256 ∧ s.fabric.routes.length = 256 ∧
    s.tenant? ten = some tn ∧ tn.frozen = true ∧ s.part? tn.part = some p ∧ p.didx = old :=
  ⟨frozenS, 0, 9, bootPart, 1, frozenT, by decide +kernel⟩

/-- A migration that has reached a step. -/
def stepS (n : Nat) : State := { wS with fabric := { wS.fabric with steps := [(1, n)] } }

theorem witness_ManagerEvents_freeze : ∃ (s : State) (ten : Nat) (tn : Tenant), mgetD s.fabric.steps ten 0 ≤ 1 ∧ s.tenant? ten = some tn ∧ tn.frozen = false ∧ tn.freezing = false :=
  ⟨stepS 1, 1, bootTenant, by decide +kernel⟩

/-- The same of the frozen tenant. -/
def stillStepS (n : Nat) : State := { frozenS with fabric := { frozenS.fabric with steps := [(1, n)] } }

theorem witness_ManagerEvents_writeBack : ∃ (s : State) (ten : Nat) (tn : Tenant), s.tenant? ten = some tn ∧ tn.frozen = true ∧ mgetD s.fabric.steps ten 0 = 3 :=
  ⟨stillStepS 3, 1, frozenT, by decide +kernel, rfl, by decide +kernel⟩

theorem witness_ManagerEvents_release : ∃ (s s1 : State) (ten n : Nat) (tn : Tenant), s.tenant? ten = some tn ∧ tn.frozen = true ∧ mgetD s.fabric.steps ten 0 = 7 ∧
    s.haltTen ten = (s1, n) :=
  ⟨stillStepS 7, _, 1, _, frozenT, by decide +kernel, rfl, by decide +kernel, rfl⟩

theorem witness_ManagerEvents_early : ∃ (s : State) (ten : Nat) (tn : Tenant), s.tenant? ten = some tn ∧ tn.frozen = false ∧ tn.freezing = true :=
  ⟨{ wS with tenants := mset wS.tenants 1 { bootTenant with freezing := true } }, 1, { bootTenant with freezing := true }, by decide +kernel, rfl, rfl⟩

theorem witness_ManagerEvents_step : ∃ (s : State) (ten act : Nat) (tn : Tenant), s.tenant? ten = some tn ∧ tn.frozen = true ∧ (act = 3 ∨ act = 5 ∨ act = 6) ∧
    act = mgetD s.fabric.steps ten 0 + 1 := ⟨stillStepS 4, 1, 5, frozenT, by decide +kernel, rfl, by decide +kernel, by decide +kernel⟩

theorem witness_ManagerEvents_switched : ∃ (s : State) (ten act : Nat), act = 1 ∧ mgetD s.fabric.steps ten 0 ≤ 1 ∨ act = 7 ∧ mgetD s.fabric.steps ten 0 = 6 :=
  ⟨stepS 6, 1, 7, by decide +kernel⟩

/-- A grid with its cluster on core 0. -/
def onCore : Grid := { gridOf_ [] with clusters := [⟨0, 0, 0, 0, 0, .admitted, 1⟩], lrec := [0, 0, BitVec.ofNat 64 (2 ^ 20 + 2 ^ 24)] ++ List.replicate 29 0 }
/-- A notice that core 0 has halted. -/
def noteS (gs : List Grid) (spares : Nat) : State :=
  let s := wS.modPart 0 fun p => { p with grids := gs }
  let s : State := { s with notices := [⟨0, 0, 0, 0, 0⟩], host := { s.host with spares := spares } }
  s.modCore 0 fun k => { k with halted := true }

theorem witness_ManagerEvents_notice : ∃ (s : State) (core : Nat) (n : Notice) (k : Nat), s.notices = [n] ∧ n.core = core ∧ s.gridsOn core = [] ∧ s.nextSpare core = some k :=
  ⟨noteS [] 16, 0, ⟨0, 0, 0, 0, 0⟩, 0, by decide +kernel⟩

theorem witness_ManagerEvents_noSpare : ∃ (s : State) (core : Nat) (n : Notice), s.notices = [n] ∧ n.core = core ∧ s.gridsOn core = [] ∧ s.nextSpare core = none :=
  ⟨noteS [] 0, 0, ⟨0, 0, 0, 0, 0⟩, by decide +kernel⟩

theorem witness_ManagerEvents_grids : ∃ (s : State) (core : Nat) (n : Notice) (g : Nat × Nat), s.notices = [n] ∧ n.core = core ∧ g ∈ s.gridsOn core :=
  ⟨noteS [onCore] 16, 0, ⟨0, 0, 0, 0, 0⟩, (0, 1), by decide +kernel⟩

/-- No spare is left. -/
def poorS : State := { wS with host := { wS.host with spares := 0 } }

theorem witness_ManagerEvents_repairAlone : ∃ (s : State) (core : Nat), (s.core core).halted = false ∧ s.nextSpare core = none ∧ (s.core core).part = none :=
  ⟨poorS, 3, by decide +kernel⟩

theorem witness_ManagerEvents_repairPart : ∃ (s : State) (core n : Nat) (p : Part), (s.core core).halted = false ∧ s.nextSpare core = none ∧ (s.core core).part = some n ∧
    s.part? n = some p ∧ p.cores.contains core = true :=
  ⟨poorS, 0, 0, bootPart, by decide +kernel⟩

theorem witness_ManagerEvents_repairIdle : ∃ (s : State) (core spare : Nat), (s.core core).halted = false ∧ s.nextSpare core = some spare ∧ (s.core core).teams = [] :=
  ⟨wS, 3, 0, by decide +kernel⟩

theorem witness_ManagerEvents_repairFreezes : ∃ (s : State) (core spare k : Nat) (tm : Team) (tn : Tenant), (s.core core).halted = false ∧ s.nextSpare core = some spare ∧
    (s.core core).teams = [(k, tm)] ∧ s.tenant? tm.ten = some tn ∧ tn.frozen = false ∧ tn.freezing = false :=
  ⟨wS, 0, 0, 0, bootTeam, bootTenant, by decide +kernel⟩

theorem witness_ManagerEvents_repairMoves : ∃ (s s1 : State) (core spare k : Nat) (tm : Team) (tn : Tenant) (v : DWord), (s.core core).halted = false ∧
    s.nextSpare core = some spare ∧ (s.core core).teams = [(k, tm)] ∧ s.tenant? tm.ten = some tn ∧ tn.frozen = true ∧ (s.moveToSpare core spare).thawIp tm.ten = (s1, v) :=
  ⟨frozenS, _, 0, 0, 0, bootTeam, frozenT, _, by decide +kernel, by decide +kernel, by decide +kernel, by decide +kernel, by decide +kernel, rfl⟩

theorem witness_ManagerEvents_partition : ∃ (s : State) (pid : Nat) (cores : List Nat), s.parts ≠ [] ∧ ∀ p ∈ s.parts, p.1 ≠ pid → ∀ c ∈ cores, c ∉ p.2.cores :=
  ⟨wS, 4, [1, 2], by decide +kernel, by decide +kernel⟩

/-! ### The host -/

theorem okPair_of {σ ε α : Type} {x : σ × Except ε α} {a : α} (h : x.2.toOption = some a) : x = (x.1, .ok a) := by rw [← ok_of h]

theorem errorPair_of {σ ε α : Type} {x : σ × Except ε α} {e : ε} (h : wrongOf x.2 = some e) : x = (x.1, .error e) := by rw [← error_of h]

/-- The host tenant's tables map the page at 0x10000. -/
def hostS : State := { wS with host := { wS.host with root := BitVec.toNat (BitVec.ofNat 64 bootRoot), step := 5, ready := true } }

/-- The endpoint serves requests, none waits, and no AtomicOp is at an engine. -/
def HostServes (s : State) : Prop := s.host.linkUp = true ∧ 0 < s.host.step ∧ s.host.waiting = [] ∧ s.hostAtomOut = false

/-- Reads in the lower and the upper half of the window. -/
theorem witness_HostAccesses_read : ∀ k < 2, ∃ (s s1 : State) (off len : Nat) (ls : List HostPart), HostServes s ∧ len ≤ 4096 ∧ off = k * aperture + 0x10400 ∧
    s.hostPlaces 1 (rangePieces off len) = (s1, .ok ls) ∧ ls ≠ [] :=
  fun k hk => ⟨hostS, _, k * aperture + 0x10400, 8, [⟨.phys 0x140400, 0x10400, 8⟩], by unfold HostServes; decide +kernel, by decide +kernel, rfl,
    okPair_of (by match k, hk with | 0, _ => decide +kernel | 1, _ => decide +kernel), by decide +kernel⟩

theorem witness_HostAccesses_piece : ∃ (s : State) (off len : Nat) (l : Leaf), HostServes s ∧ off < 2 * aperture ∧ len ≤ 16 ∧ rangePieces off len = [(off, len)] ∧
    s.host.tcache = [] ∧ walk s.mem s.host.root (off % aperture) = .ok l ∧ leafFault l.e (if off < aperture then .load else .dap) true = none ∧
    s.locked hostTen (off % aperture / 65536) = false := by
  obtain ⟨l, h⟩ := Option.isSome_iff_exists.1
    (show ((walk hostS.mem hostS.host.root 0x10400).toOption.filter fun l => leafFault l.e .dap true == none).isSome = true by decide +kernel)
  obtain ⟨h1, h2⟩ := Option.filter_eq_some_iff.1 h
  exact ⟨hostS, aperture + 0x10400, 8, l, by unfold HostServes; decide +kernel, by decide +kernel, by decide +kernel, by decide +kernel, by decide +kernel,
    ok_of (by rw [show (aperture + 0x10400) % aperture = 0x10400 from by decide +kernel]; exact h1),
    by rw [if_neg (by decide +kernel)]; exact eq_of_beq h2, by decide +kernel⟩

theorem witness_HostAccesses_fault : ∃ (s s1 : State) (off len a n : Nat), HostServes s ∧ len ≤ 4096 ∧
    s.hostPlaces 1 (rangePieces off len) = (s1, .error (a, none, n)) ∧ off ≤ a ∧ s1.host.queue.length < 256 :=
  ⟨hostS, _, 0x20400, 8, 0x20400, 1, by unfold HostServes; decide +kernel, by decide +kernel, errorPair_of (by decide +kernel), by decide +kernel, by decide +kernel⟩

theorem witness_HostAccesses_write : ∃ (s s1 : State) (off : Nat) (data : List Byte) (ls : List HostPart), HostServes s ∧ data.length ≤ 512 ∧
    s.hostPlaces 2 (rangePieces off data.length) = (s1, .ok ls) ∧ ls ≠ [] :=
  ⟨hostS, _, 0x10400, [1, 2, 3, 4], [⟨.phys 0x140400, 0x10400, 4⟩], by unfold HostServes; decide +kernel, by decide +kernel, okPair_of (by decide +kernel), by decide +kernel⟩

/-- A write in the upper half, and one past the window. -/
theorem witness_HostAccesses_denied : ∀ k ∈ [1, 2], ∃ (s : State) (off : Nat) (data : List Byte), HostServes s ∧ off = k * aperture ∧ aperture ≤ off ∧ 0 < data.length ∧
    data.length ≤ 512 ∧ s.host.queue.length < 256 :=
  fun k hk => ⟨hostS, k * aperture, [1], by unfold HostServes; decide +kernel, rfl, by revert k; decide +kernel, by decide +kernel⟩

theorem witness_HostAccesses_atomic : ∃ (s s1 : State) (off size k va n : Nat) (r : List HostPart), HostServes s ∧
    s.hostPlaces 3 (rangePieces off size) = (s1, .ok (⟨.phys k, va, n⟩ :: r)) :=
  ⟨hostS, _, 0x10400, 4, 0x140400, 0x10400, 4, [], by unfold HostServes; decide +kernel, okPair_of (by decide +kernel)⟩

/-! ### The control page -/

/-- The words of a record that R111 accepts, with its map behind it. -/
def goodRec : List Nat :=
  [2 ^ 56 + 6 * 2 ^ 40, bootPc, 2 ^ 20 + 2 ^ 24 + 2 ^ 32 + 2 ^ 48, 32 + 32 * 2 ^ 12 + 2 ^ 26, 0, 0x200, 0, 0, 0, 0, 0, 0, 0x11000, 2 ^ 24 + 7 * 2 ^ 40, 0x12000, 2 ^ 24 + 7 * 2 ^ 40]
/-- What doorbell 2 has been given. -/
def bellOf (base len : Nat) (cut : Bool) : Doorbell := { Doorbell.reset with caplo := BitVec.ofNat 64 base, caphi := BitVec.ofNat 64 (len + 2 ^ 40), busy := true, cut := cut }
/-- A partition whose root capability names the first 2^28 bytes. -/
def rootPart : Part := { bootPart with root := capOfWords 0 (BitVec.ofNat 64 (2 ^ 28 + 7 * 2 ^ 40)) true }
/-- The state in which doorbell 2 is busy. -/
def bellS (b : Doorbell) : State :=
  { hostS with mem := cwrite hostS.mem 0x140200 ((goodRec.map (leBytes 8)).flatten), parts := [(0, rootPart)],
               host := { hostS.host with bells := lset hostS.host.bells 2 b, fwv := 3, report := [], sig := [] } }

/-- The lengths of the endpoint's registers. -/
def Sized (s : State) : Prop := s.host.bells.length = 8 ∧ s.host.nonce.length = 32

theorem witness_ControlPage_free : ∃ (s : State) (n : Nat) (data : List Byte), Sized s ∧ n < 8 ∧ (s.host.bells.getD n Doorbell.reset).busy = false ∧ data.length = 32 :=
  ⟨hostS, 7, List.replicate 32 9, by unfold Sized; decide +kernel, by decide +kernel⟩

theorem witness_ControlPage_cut : ∃ (s : State) (n : Nat), Sized s ∧ (s.host.bells.getD n Doorbell.reset).busy = true ∧ (s.host.bells.getD n Doorbell.reset).cut = true :=
  ⟨bellS (bellOf 0x10200 0x400 true), 2, by unfold Sized; decide +kernel, by decide +kernel, by decide +kernel⟩

/-- A busy doorbell's capability, tagged as R109 says. -/
def bellCap (s : State) (n : Nat) (p : Part) : Cap :=
  let b := s.host.bells.getD n Doorbell.reset
  { capOfWords b.caplo b.caphi false with tag := hostTag p.root (capOfWords b.caplo b.caphi false) }

/-- A submission that the window's partition answers. -/
def Submitted (s : State) (n pid : Nat) (p : Part) (rest : NMap Part) : Prop := Sized s ∧ (s.host.bells.getD n Doorbell.reset).busy = true ∧
  (s.host.bells.getD n Doorbell.reset).cut = false ∧ s.parts = (pid, p) :: rest

theorem witness_ControlPage_badCap : ∃ (s : State) (n pid : Nat) (p : Part) (rest : NMap Part), Submitted s n pid p rest ∧ (bellCap s n p).check 1 1 0x100 0 ≠ 0 :=
  ⟨bellS (bellOf (2 ^ 28) 0x400 false), 2, 0, rootPart, [], by unfold Submitted Sized; decide +kernel, by decide +kernel⟩

theorem witness_ControlPage_badBase : ∃ (s : State) (n pid : Nat) (p : Part) (rest : NMap Part), Submitted s n pid p rest ∧ (bellCap s n p).check 1 1 0x100 0 = 0 ∧
    baseOk (bellCap s n p) = false :=
  ⟨bellS (bellOf 0x10210 0x400 false), 2, 0, rootPart, [], by unfold Submitted Sized; decide +kernel, by decide +kernel, by decide +kernel⟩

/-- What reading a launch gave. -/
def readingOf : LGot → Option Reading
  | .ok x => some x
  | _ => none

theorem reading_of {y : State × LGot} {x : Reading} (h : readingOf y.2 = some x) : y = (y.1, .ok x) := by
  obtain ⟨s, g⟩ := y
  cases g with
  | ok z => simp [readingOf] at h; rw [h]
  | fault a b => simp [readingOf] at h
  | wait w => simp [readingOf] at h

/-- The submitted record is good. -/
def goodS : State := bellS (bellOf 0x10200 0x400 false)
/-- What is read of it. -/
def goodX : State × LGot := goodS.readLaunch (.window 1) (bellCap goodS 2 rootPart) fun c _ => hostTag rootPart.root c

theorem triple_eta {α β γ : Type} (p : α × β × γ) : p = (p.1, p.2.1, p.2.2) := rfl

theorem witness_ControlPage_accepted : ∃ (s s1 s2 : State) (n pid code handle : Nat) (p : Part) (rest : NMap Part) (x : Reading), Submitted s n pid p rest ∧
    (bellCap s n p).check 1 1 0x100 0 = 0 ∧ baseOk (bellCap s n p) = true ∧
    s.readLaunch (.window p.winTen) (bellCap s n p) (fun c _ => hostTag p.root c) = (s1, .ok x) ∧ s1.accept pid p.winTen x none = (s2, code, handle) ∧ s2.host = s.host ∧
    code = 0 := by
  have a : ((readingOf goodX.2).map fun x => decide ((goodX.1.accept 0 1 x none).1.host = goodS.host ∧ (goodX.1.accept 0 1 x none).2.1 = 0)) = some true := by
    decide +kernel
  obtain ⟨x, e, d⟩ := Option.map_eq_some_iff.1 a
  exact ⟨goodS, goodX.1, (goodX.1.accept 0 1 x none).1, 2, 0, (goodX.1.accept 0 1 x none).2.1, (goodX.1.accept 0 1 x none).2.2, rootPart, [], x, by unfold Submitted Sized; decide +kernel, by decide +kernel, by decide +kernel, reading_of e, triple_eta (goodX.1.accept 0 1 x none),
    (of_decide_eq_true d).1, (of_decide_eq_true d).2⟩

theorem faultOf {y : State × LGot} {k a : Nat} (h : (match y.2 with | .fault c b => decide (c = k ∧ b = a) | _ => false) = true) : y = (y.1, .fault k a) := by
  obtain ⟨s, g⟩ := y
  cases g with
  | ok z => simp at h
  | fault c b => simp only [decide_eq_true_eq] at h; rw [h.1, h.2]
  | wait w => simp at h

/-- The record lies where no page is. -/
def farRecS : State := bellS (bellOf 0x20200 0x400 false)

theorem witness_ControlPage_noRead : ∃ (s s1 : State) (n pid k a : Nat) (p : Part) (rest : NMap Part), Submitted s n pid p rest ∧
    (bellCap s n p).check 1 1 0x100 0 = 0 ∧ baseOk (bellCap s n p) = true ∧
    s.readLaunch (.window p.winTen) (bellCap s n p) (fun c _ => hostTag p.root c) = (s1, .fault k a) ∧ s1.host = s.host :=
  ⟨farRecS, _, 2, 0, 1, 0x20200, rootPart, [], by unfold Submitted Sized; decide +kernel, by decide +kernel, by decide +kernel, faultOf (by decide +kernel), by decide +kernel⟩

/-- A host fault is queued, and the signing service is busy or not. -/
def hostQueueS (busy : Bool) : State := { hostS with host := { hostS.host with queue := [⟨1, 1, 8, 0, 0x20400, 0⟩], attBusy := busy } }

theorem witness_ControlPage_service : ∃ (s : State) (r : HostRecord) (rs : List HostRecord), Sized s ∧ s.host.queue = r :: rs ∧ s.host.helog ≤ s.host.errlog.length ∧
    s.host.attBusy = false ∧ 0 < s.host.sigsLeft :=
  ⟨hostQueueS false, ⟨1, 1, 8, 0, 0x20400, 0⟩, [], by unfold Sized; decide +kernel, by decide +kernel⟩

theorem witness_ControlPage_signing : ∃ s : State, Sized s ∧ s.host.attBusy = true := ⟨hostQueueS true, by unfold Sized; decide +kernel, by decide +kernel⟩

/-! ### Host process addresses -/

/-- Translation requests sent for the process 3's page 0x55000, and page requests. -/
def atsS (out : List HostOut) (prs : List (Nat × Nat × Bool)) : State := { hostS with groups := [], host := { hostS.host with out := out, prs := prs } }

theorem witness_HostTranslations_completion : ∃ (s : State) (pasid : Nat) (va : BitVec 64), s.host.out = [.ats pasid (BitVec.ofNat 64 (va.toNat / 4096 % 2 ^ 43 * 4096))] ∧
    s.host.ats.length < 4096 ∧ s.tenantGroups = [] ∧ ∀ k ∈ s.cores, k.2.log = [] :=
  ⟨atsS [.ats 3 0x55000] [], 3, 0x55123, by decide +kernel⟩

theorem witness_HostTranslations_response : ∃ (s : State) (pasid : Nat) (va : BitVec 64) (w : Bool), s.tenantGroups = [] ∧ (∀ k ∈ s.cores, k.2.log = []) ∧
    (pasid, va.toNat / 4096 % 2 ^ 43, w) ∈ s.host.prs :=
  ⟨atsS [] [(3, 0x55, true)], 3, 0x55123, true, by decide +kernel⟩

theorem witness_HostTranslations_invalidate : ∃ s : State, (∀ k ∈ s.cores, k.2.pub = []) ∧ s.clasp.reqs = [] := ⟨hostS, by decide +kernel, by decide +kernel⟩

/-! ### Resets -/

theorem witness_Resets_compute : ∃ (s : State) (i : Instr), (i = .computeReset ∨ i = .crst ∧ s.host.crsten = true) ∧ s.resetting = false ∧ s.groups ≠ [] :=
  ⟨{ hostS with host := { hostS.host with crsten := true } }, .crst, by decide +kernel⟩

theorem witness_Resets_cut : ∃ (s : State) (n : Nat), (s.host.bells.getD n Doorbell.reset).busy = true ∧ s.resetting = false := ⟨goodS, 2, by decide +kernel, by decide +kernel⟩

theorem witness_Resets_complete : ∃ s : State, s.resetting = true := ⟨{ hostS with resetting := true }, rfl⟩

theorem witness_Resets_full : ∃ s : State, MemoriesWf s ∧ s.groups ≠ [] := ⟨hostS, by unfold MemoriesWf; decide +kernel, by decide +kernel⟩

theorem witness_Resets_steps : State.reset.host.step = 0 ∧ ({ hostS with host := { hostS.host with step := 1 } } : State).host.step = 1 ∧
    ({ hostS with host := { hostS.host with step := 4 } } : State).host.step = 4 := ⟨rfl, rfl, rfl⟩

end Sys2Proof.Tests
end

