-- ==== Sys2Proof/Tests/WitnessMemory.lean ====
section
/-! SUPPORT. Witnesses: concrete states and operands that meet the hypotheses of the statements on memory and atomics. -/

namespace Sys2Proof.Tests

open Sys2Proof Sys2Proof.Machine Sys2Proof.Claims

-- One theorem at a time, so that the package compiles as one text in little memory.
set_option Elab.async false

/-- Two threads with the offsets 0 and 16 in v0; s1 a GEN address, s2 an SPD address, s3 the constant path, c2 a tagged capability. -/
def memG : Group :=
  { groupOf [laneOf (0 :: wordsA), laneOf (16 :: wordsB)]
      [0, 0x10100, 2 * 2 ^ 60 + 0x100, 2 ^ 60 + 0x10100, 0x20000, 0x10000 + 7 * 2 ^ 40, 0, 0, 2 * 2 ^ 60 + 0x200, 0x40 + 7 * 2 ^ 40, 2 * 2 ^ 60 + 0x400, 0x400 + 7 * 2 ^ 40] with
    ctag := 4 + 16 + 32 }
/-- The state. -/
def memS : State := at_ memG []
/-- What issues in it. -/
def memC : Ctx := ctxOf memS

/-! ### Loads -/

/-- LD.b32 v4 from s1 + v0. -/
def ldF : Form := bare (.v 4) (.s 1) (.v 0)
/-- As a load. -/
def ldO : LoadOp := ⟨ldF, true, .load, [⟨0, 0x10100, 4, 0, 0x10100⟩, ⟨1, 0x10110, 4, 0, 0x10110⟩], false⟩

theorem load_of {x : Option LoadOp} (h : x.isSome = true) : x = some (x.getD ldO) := by
  cases x with
  | none => simp at h
  | some y => rfl

/-- The hypotheses of LoadsStart can be met. -/
def Loads : Prop :=
    ∃ (i : Instr) (o : LoadOp) (s : State) (c : Ctx) (s1 : State) (bss : List (List Byte × Bool)), loadOf c i = some o ∧
      Issuing s c o.form.guard ∧ o.ok = true ∧ flagFree c o.form = true ∧
      (∀ q ∈ o.reqs, q.addr.toNat % q.size = 0 ∧ (s.path (s.origin c.r c.g) o.acc q.addr.toNat q.size).isSome = true) ∧
      bss.length = o.reqs.length ∧ (∀ x ∈ bss, x.1.length = accessBytes o.form) ∧
      (o.asks s c).loadAll ((o.asks s c).origin c.r c.g) (counted (o.op c [] none) c.g) o.acc o.form o.reqs =
        (s1, (o.reqs.zip bss).map fun x => (x.1, .ok (.bytes x.2.1 x.2.2)))

theorem loads (i : Instr) (o : LoadOp) (s : State) (bss : List (List Byte × Bool)) (h1 : loadOf (ctxOf s) i = some o)
    (h : (s.ctx.isSome && surely (ctxOf s) o.form.guard) = true ∧ (o.ok && flagFree (ctxOf s) o.form) = true ∧
      (∀ q ∈ o.reqs, q.addr.toNat % q.size = 0 ∧ (s.path (s.origin (ctxOf s).r (ctxOf s).g) o.acc q.addr.toNat q.size).isSome = true) ∧
      bss.length = o.reqs.length ∧ ∀ x ∈ bss, x.1.length = accessBytes o.form)
    (h7 : ((o.asks s (ctxOf s)).loadAll ((o.asks s (ctxOf s)).origin (ctxOf s).r (ctxOf s).g) (counted (o.op (ctxOf s) [] none) (ctxOf s).g) o.acc o.form o.reqs).2.map
      (fun x => (x.1, x.2.toOption)) = ((o.reqs.zip bss).map fun x => (x.1, Loaded.bytes x.2.1 x.2.2)).map fun y => (y.1, some y.2)) :
    Loads := by
  obtain ⟨h2, h3, h4, h5, h6⟩ := h
  simp only [Bool.and_eq_true] at h3
  refine ⟨i, o, s, ctxOf s, ((o.asks s (ctxOf s)).loadAll ((o.asks s (ctxOf s)).origin (ctxOf s).r (ctxOf s).g)
    (counted (o.op (ctxOf s) [] none) (ctxOf s).g) o.acc o.form o.reqs).1, bss, h1, issuing_of _ _ h2, h3.1, h3.2, h4, h5, h6, ?_⟩
  have h := oks_of _ h7
  rw [List.map_map] at h
  exact pair_of h

theorem witness_LoadsStart_lanes : Loads := loads (.ld ldF) _ memS [(leBytes 4 0, false), (leBytes 4 0, false)] rfl
  (by decide +kernel) (by decide +kernel)

theorem witness_LoadsStart_constant : Loads := loads (.ldc (bare (.s 12) (.s 3) .zero)) _ memS [(leBytes 4 0, false)] rfl
  (by decide +kernel) (by decide +kernel)

theorem witness_LoadsStart_capability : Loads := loads (.ldk (wide (.s 12) (.s 2) .zero .unused)) _ memS [(leBytes 16 0, false)] rfl
  (by decide +kernel) (by decide +kernel)

/-! ### Reads and translations -/

/-- The origin of the group's accesses. -/
def memO : Origin := memS.origin ⟨0, 0, 0⟩ memG

theorem witness_ReadsAndTranslation_scratchpad : ∃ (s : State) (o : Origin) (acc : Access) (a n k off : Nat) (d : Bool),
    s.path o acc a n = some (.spad k off d) ∧ s.owning = [] :=
  ⟨memS, memO, .load, 2 * 2 ^ 60 + 0x100, 4, 0, 0x100, false, by decide +kernel, by decide +kernel⟩

theorem witness_ReadsAndTranslation_general : ∃ (s : State) (o : Origin) (a n va : Nat) (l : Loc) (s1 : State),
    s.path o .load a n = some (.gen va) ∧ s.overlapsLog o.r.core o.ten a n = false ∧ s.translate o.who .load va = (s1, .ok l) :=
  ⟨memS, memO, 0x10100, 4, 0x10100, .phys 0x140100, _, by decide +kernel, by decide +kernel, pair_of (by decide +kernel)⟩

theorem witness_ReadsAndTranslation_walkFails : ∃ (s : State) (w : Who) (va e : Nat), (w.sup = true ∨ inHostRegion va = false) ∧
    s.lookup w va = .error e :=
  ⟨memS, memO.who, 0x20000, 1, by decide +kernel, error_of (by decide +kernel)⟩

/-- The leaf of the code page. -/
def codeLeaf : Leaf := ⟨bootFrame + 3 + 0x1f0 + 2 ^ 54 + 2 ^ 55, false, 0x130008⟩

/-- The code page without permission to load. -/
def noReadS : State := { memS with mem := cwrite memS.mem 0x130008 (leBytes 8 (codeLeaf.e - 16)) }

theorem witness_ReadsAndTranslation_refused : ∃ (s : State) (w : Who) (acc : Access) (va : Nat) (l : Leaf) (e : Nat),
    (w.sup = true ∨ inHostRegion va = false) ∧ s.lookup w va = .ok l ∧ leafFault l.e acc false = some e ∧ e ≠ 3 :=
  ⟨noReadS, memO.who, .load, 0x10100, ⟨codeLeaf.e - 16, false, 0x130008⟩, 4, by decide +kernel, ok_of (by decide +kernel), by decide +kernel,
    by decide +kernel⟩

theorem witness_ReadsAndTranslation_maps : ∃ (s : State) (w : Who) (acc : Access) (va : Nat) (l : Leaf), (w.sup = true ∨ inHostRegion va = false) ∧
    s.lookup w va = .ok l ∧ leafFault l.e acc false = none ∧ (s.locked (s.moverOf w) (slice va 56 16) = false ∨ bit l.e 55 = true) ∧
    bit l.e 57 = false ∧ bit l.e 54 = true ∧ l.big = false ∧ slice l.e 59 58 = 0 ∧ slice l.e 63 60 = 0 :=
  ⟨memS, memO.who, .store, 0x1ffff, codeLeaf, by decide +kernel, ok_of (by decide +kernel), by decide +kernel⟩

/-! ### Stores -/

/-- What a store instruction does in a state. -/
def storeIn (s : State) (i : Instr) : Form × Bool × List Put := (storeOf (ctxOf s) i).getD (ldF, false, [])

theorem store_of {s : State} {i : Instr} (h : (storeOf (ctxOf s) i).isSome = true) : storeOf (ctxOf s) i = some (storeIn s i) := by
  unfold storeIn
  cases hs : storeOf (ctxOf s) i with
  | none => simp [hs] at h
  | some y => rfl

/-- The hypotheses of the first part of StoresReachTheirPlaces can be met. -/
def Near : Prop :=
    ∃ (i : Instr) (f : Form) (ok : Bool) (xs : List Put) (s : State) (c : Ctx), storeOf c i = some (f, ok, xs) ∧ MemoriesWf s ∧
      Issuing s c f.guard ∧ ok = true ∧ storesFit s c xs = true ∧ s.owning = [] ∧ (∀ x ∈ xs, (spadAt s c x).isSome = true) ∧
      (∀ k, (s.core k).armed = [])

theorem near (s : State) (i : Instr) (h : (storeOf (ctxOf s) i).isSome = true)
    (h0 : Memory.wf s.mem = true ∧ (∀ c ∈ s.cores, Memory.wf c.2.spad = true) ∧ (s.ctx.isSome && surely (ctxOf s) (storeIn s i).1.guard) = true ∧
      (storeIn s i).2.1 = true ∧ storesFit s (ctxOf s) (storeIn s i).2.2 = true ∧ s.owning = [] ∧
      (∀ x ∈ (storeIn s i).2.2, (spadAt s (ctxOf s) x).isSome = true) ∧ ∀ x ∈ s.cores, x.2.armed = []) :
    Near :=
  let ⟨w1, w2, h2, h3, h4, h5, h6, h7⟩ := h0
  ⟨i, _, _, _, s, ctxOf s, store_of h, ⟨w1, w2⟩, issuing_of _ _ h2, h3, h4, h5, h6, core_all (P := fun k => k.armed = []) s h7 rfl⟩

theorem witness_StoresReachTheirPlaces_spad : Near := near memS (.st (bare (.v 2) (.s 2) (.v 0)))
  (by decide +kernel) (by decide +kernel)

theorem witness_StoresReachTheirPlaces_capability : Near := near memS (.stk (wide (.s 4) (.s 2) .zero .unused))
  (by decide +kernel) (by decide +kernel)

/-- The store through GEN. -/
def farI : Instr := .st (bare (.v 2) (.s 1) (.v 0))

theorem witness_StoresReachTheirPlaces_general : ∃ (i : Instr) (f : Form) (ok : Bool) (xs : List Put) (s s1 : State) (c : Ctx) (ls : List Loc),
    storeOf c i = some (f, ok, xs) ∧ Issuing s c f.guard ∧ ok = true ∧ storesFit s c xs = true ∧
    (∀ x ∈ xs, x.addr / 2 ^ 60 = 0 ∨ x.addr / 2 ^ 60 = 7) ∧ ls.length = xs.length ∧
    s.places (s.origin c.r c.g) .store xs = (s1, (xs.zip ls).map fun x => (x.1, .ok x.2)) ∧
    ((s.core c.r.core).pub.map (·.bytes.length)).sum + (xs.map (·.bs.length)).sum ≤ 65536 :=
  ⟨farI, (storeIn memS farI).1, (storeIn memS farI).2.1, (storeIn memS farI).2.2, memS, _, memC, [.phys 0x140100, .phys 0x140110],
    store_of (by decide +kernel), issuing_of _ _ (by decide +kernel), by decide +kernel, by decide +kernel, by decide +kernel, by decide +kernel,
    pair_of (oks_of _ (by decide +kernel)), by decide +kernel⟩

/-! ### Atomics and pools -/

/-- ATOM.add v6 from s1 + v0, with v2 added. -/
def atomF : Form := wide (.v 6) (.s 1) (.v 0) (.v 2)
/-- Its requests. -/
def atomQ : List Req := atomReqs memC atomF (isS atomF.d && isUni atomF.b && isUni atomF.c)
  (fun l => memC.g.read memC.tk atomF.lit (8 * wordBytes atomF) l atomF.c) (fun l => memC.g.read memC.tk none (8 * wordBytes atomF) l atomF.d)
/-- The state that counts it. -/
def atomS0 : State := (memS.releases 0).setGroup memC.r (counted
  (opOf memC atomF (.atom none .add (atomF.imm.getLsbD 0) atomF.scope (wordBytes atomF == 8) atomQ atomF) (loadRegs memC atomF)
    ((loadRegs memC atomF).map fun _ => 0)) memC.g)
/-- Where its words lie. -/
def atomW : List WordAt := [.mem 0x140100, .mem 0x140110]

theorem witness_AtomicsReachTheirEngines_atom : ∃ (i : Instr) (op : AtomOp) (f : Form) (s s1 : State) (c : Ctx) (ws : List WordAt), Issuing s c f.guard ∧
    (s.core c.r.core).pub = [] ∧ (∀ w ∈ ws, ∀ d va, w ≠ .peer d va) ∧ isS f.a = true ∧ threadSource c.g f.lit 32 f.b = true ∧
    atomOf i = some (op, f) ∧ isDst (8 * wordBytes f) f.d = true ∧ threadSource c.g f.lit (8 * wordBytes f) f.c = true ∧ flagFree c f = true ∧
    (let reqs := atomReqs c f (isS f.d && isUni f.b && isUni f.c) (fun l => c.g.read c.tk f.lit (8 * wordBytes f) l f.c)
        (fun l => c.g.read c.tk none (8 * wordBytes f) l f.d)
     let p := opOf c f (.atom none op (f.imm.getLsbD 0) f.scope (wordBytes f == 8) reqs f) (loadRegs c f) ((loadRegs c f).map fun _ => 0)
     let s0 := (s.releases c.r.core).setGroup c.r (counted p c.g)
     atomsFit s c f reqs = true ∧ (∀ q ∈ reqs, s.atEngine c.r c.g.nextId q.lane = false) ∧ ws.length = reqs.length ∧
     s0.atomPlaces (s0.origin c.r c.g) (wordBytes f) reqs = (s1, (reqs.zip ws).map fun x => (x.1, .ok x.2))) :=
  ⟨.atomAdd atomF, .add, atomF, memS, (atomS0.atomPlaces (atomS0.origin memC.r memC.g) (wordBytes atomF) atomQ).1, memC, atomW,
    issuing_of _ _ (by decide +kernel), by decide +kernel, by simp [atomW], by decide +kernel, by decide +kernel, rfl, by decide +kernel,
    by decide +kernel, by decide +kernel, by decide +kernel, by decide +kernel, by decide +kernel, pair_of (oks_of _ (by decide +kernel))⟩

/-- RED.max of a scratchpad word, once for the group. -/
def redF : Form := { wide (.s 0) (.s 2) .zero .unused with imm := 1 }
/-- Its request. -/
def redQ : List Req := atomReqs memC redF (isS redF.d && isUni redF.b) (fun l => memC.g.read memC.tk redF.lit (8 * wordBytes redF) l redF.d) (fun _ => 0)

theorem witness_AtomicsReachTheirEngines_red : ∃ (i : Instr) (op : AtomOp) (f : Form) (s s1 : State) (c : Ctx) (ws : List WordAt), Issuing s c f.guard ∧
    (s.core c.r.core).pub = [] ∧ (∀ w ∈ ws, ∀ d va, w ≠ .peer d va) ∧ isS f.a = true ∧ threadSource c.g f.lit 32 f.b = true ∧
    redOf i = some (op, f) ∧ threadSource c.g f.lit (8 * wordBytes f) f.d = true ∧
    (let reqs := atomReqs c f (isS f.d && isUni f.b) (fun l => c.g.read c.tk f.lit (8 * wordBytes f) l f.d) (fun _ => 0)
     atomsFit s c f reqs = true ∧ ws.length = reqs.length ∧
     (s.releases c.r.core).atomPlaces (s.origin c.r c.g) (wordBytes f) reqs = (s1, (reqs.zip ws).map fun x => (x.1, .ok x.2))) :=
  ⟨.redMax redF, .max, redF, memS, ((memS.releases 0).atomPlaces (memS.origin memC.r memC.g) (wordBytes redF) redQ).1, memC, [.spad 0 0x100],
    issuing_of _ _ (by decide +kernel), by decide +kernel, by simp, by decide +kernel, by decide +kernel, rfl, by decide +kernel,
    by decide +kernel, by decide +kernel, pair_of (oks_of _ (by decide +kernel))⟩

/-- An ATOM's request at the engine of its word. -/
def reqA : ClaspReq := ⟨0, ⟨0, 0, 0⟩, some 0, 1, .add, false, false, ⟨0, 0x10100, 4, 7, 0⟩, none, 0x140100, false, 0⟩
/-- The operation that waits for it. -/
def pendA : Pend := opOf memC atomF (.atom none .add false 0 false [reqA.req] atomF) [.word 0 6] [0]
/-- A state with a request at engine 3 and the operation that waits for it. -/
def asksS (q : ClaspReq) (p : Pend) : State := { memS.setGroup ⟨0, 0, 0⟩ (counted p memG) with clasp := ⟨[(3, [q])], [], [], []⟩ }
/-- The state. -/
def servS : State := asksS reqA pendA

theorem witness_EnginesServeRequests_none : ∃ (s : State) (e : Nat), MemoriesWf s ∧ mgetD s.clasp.reqs e [] = [] :=
  ⟨servS, 2, ⟨by decide +kernel, by decide +kernel⟩, by decide +kernel⟩

/-- The hypotheses on a word's request. -/
def Serves (s : State) (e : Nat) (q : ClaspReq) (g : Group) (p : Nat) (x : Pend) : Prop := MemoriesWf s ∧
  nextRequest (mgetD s.clasp.reqs e []) (mgetD s.clasp.rr e 0) = some q ∧ q.pool = false ∧ q.ref.slot < 64 ∧
  (q.core = none → ∀ k, ∀ y ∈ (s.core k).pub, y.serial < (s.core k).released → y.meetsAt (.phys q.loc) (if q.wide then 8 else 4) = false) ∧
  (∀ k, q.core = some k → s.owning = [] ∧ (s.core k).armed = []) ∧ s.group? q.ref = some g ∧ q.pend = some p ∧
  x ∈ g.pend ∧ x.id = p ∧ x.ivs = [] ∧ ∃ w op u sc wd left f, x.kind = .atom w op u sc wd left f ∧ wd = q.wide

theorem noPub_of {s : State} (h : ∀ x ∈ s.cores, x.2.pub = []) (k : Nat) : (s.core k).pub = [] :=
  core_all (P := fun k => k.pub = []) s h rfl k

theorem witness_EnginesServeRequests_memory : ∃ s e q g p x, Serves s e q g p x ∧ q.core = none :=
  ⟨servS, 3, reqA, counted pendA memG, 0, pendA, ⟨⟨by decide +kernel, by decide +kernel⟩, by decide +kernel, rfl, by decide +kernel,
    fun _ k y hy => by rw [noPub_of (by decide +kernel) k] at hy; simp at hy, fun k h => by simp [reqA] at h, by decide +kernel, rfl,
    by decide +kernel, by decide +kernel, by decide +kernel, ⟨none, .add, false, 0, false, [reqA.req], atomF, rfl, rfl⟩⟩, rfl⟩

/-- The same of a scratchpad word. -/
def reqW : ClaspReq := { reqA with core := some 0, loc := 0x100, req := ⟨0, BitVec.ofNat 64 (2 * 2 ^ 60 + 0x100), 4, 7, 0⟩ }
/-- The operation. -/
def pendW : Pend := opOf memC atomF (.atom none .add false 0 false [reqW.req] atomF) [.word 0 6] [0]

theorem witness_EnginesServeRequests_scratchpad : ∃ s e q g p x, Serves s e q g p x ∧ q.core ≠ none :=
  ⟨asksS reqW pendW, 3, reqW, counted pendW memG, 0, pendW, ⟨⟨by decide +kernel, by decide +kernel⟩, by decide +kernel, rfl, by decide +kernel,
    fun h => by simp [reqW] at h, fun k h => by obtain rfl : 0 = k := by simpa [reqW] using h
                                                decide +kernel, by decide +kernel, rfl,
    by decide +kernel, by decide +kernel, by decide +kernel, ⟨none, .add, false, 0, false, [reqW.req], atomF, rfl, rfl⟩⟩, by simp [reqW]⟩

/-- POOL.A c6, c5, p3. -/
def poolF : Form := wide (.s 12) (.s 10) .unused (.v 3)
/-- POOL.F c5, c4, p3. -/
def freeF : Form := wide .unused (.s 10) (.s 8) (.v 3)
/-- Its operation. -/
def pendP (free : Bool) : Pend := poolOp memC (if free then freeF else poolF) free 3
/-- Its request. -/
def reqP : ClaspReq := poolReq memS memC (2 * 2 ^ 60 + 0x400) 0 (some 0) 0x400
/-- A pool of four blocks of 64 bytes in the scratchpad, of which some lowest ones are allocated. -/
def poolBytes (used : Nat) : List Byte :=
  leBytes 16 (capOf (2 * 2 ^ 60 + 0x200) 0x1000 7 0 0 true).bits.toNat ++ leBytes 4 6 ++ leBytes 2 4 ++ leBytes 2 0 ++ leBytes 4 used ++
    List.replicate 36 0 ++ leBytes 64 (2 ^ used - 1)
/-- The state with the pool and the request. -/
def poolS (free : Bool) : State :=
  (asksS reqP (pendP free)).modCore 0 fun k => { k with spad := cwrite k.spad 0x400 (poolBytes (b2n free)), stags := [0x40] }

/-- The hypotheses on a pool's request. -/
def ServesPool (s : State) (e : Nat) (q : ClaspReq) (id : Nat) (g : Group) (p : Pend) (w : Option HoldWhy) (free : Bool) (cp blk : Cap) (hd mp : List Byte) :
    Prop :=
  nextRequest (mgetD s.clasp.reqs e []) (mgetD s.clasp.rr e 0) = some q ∧ q.pool = true ∧ q.pend = some id ∧ s.group? q.ref = some g ∧
  g.pend.find? (fun x => x.id == id) = some p ∧ p.kind = .pool w free cp blk ∧
  (let o := s.origin q.ref g
   let s0 := taken s e q
   let rd (i : Nat) : Byte := (hd ++ mp).getD i 0
   let tag := s0.poolTag o cp.base
   s0.poolRead o cp.base 64 = some hd ∧ (poolWhole rd tag cp.len = true → s0.poolRead o ((cp.base + 64) % 2 ^ 64) (poolMap rd) = some mp) ∧
   (if free then poolTakes rd tag cp.len blk else poolGives rd tag cp.len).isSome = true)

/-- The pool's capability, and the block's. -/
def poolC (n : Nat) : Cap := memC.g.cap memC.tk n

theorem witness_EnginesServeRequests_alloc : ∃ s e q id g p w free cp blk hd mp, ServesPool s e q id g p w free cp blk hd mp ∧ free = false :=
  ⟨poolS false, 3, reqP, 0, counted (pendP false) memG, pendP false, none, false, poolC 5, Cap.null, (poolBytes 0).take 64, (poolBytes 0).drop 64,
    ⟨by decide +kernel, rfl, by decide +kernel, by decide +kernel, by decide +kernel, rfl, by decide +kernel, fun _ => by decide +kernel, by decide +kernel⟩, rfl⟩

theorem witness_EnginesServeRequests_free : ∃ s e q id g p w free cp blk hd mp, ServesPool s e q id g p w free cp blk hd mp ∧ free = true :=
  ⟨poolS true, 3, reqP, 0, counted (pendP true) memG, pendP true, none, true, poolC 5, poolC 4, (poolBytes 1).take 64, (poolBytes 1).drop 64,
    ⟨by decide +kernel, rfl, by decide +kernel, by decide +kernel, by decide +kernel, rfl, by decide +kernel, fun _ => by decide +kernel, by decide +kernel⟩, rfl⟩

theorem witness_EnginesServeRequests_poolByte : ∃ (s : State) (o : Origin) (a k off : Nat) (d : Bool), MemoriesWf s ∧
    s.path o .atomic a 1 = some (.spad k off d) ∧ (∀ p ∈ s.owning, p.owns = []) ∧ (s.core k).armed = [] :=
  ⟨poolS false, memO, 2 * 2 ^ 60 + 0x441, 0, 0x441, false, ⟨by decide +kernel, by decide +kernel⟩, by decide +kernel⟩

theorem witness_EnginesServeRequests_poolMemory : ∃ (s : State) (o : Origin) (a va k : Nat) (s1 : State), MemoriesWf s ∧
    s.path o .atomic a 1 = some (.gen va) ∧ s.translate o.who .store va = (s1, .ok (.phys k)) ∧
    (∀ j, ∀ x ∈ (s1.core j).pub, x.serial < (s1.core j).released → x.meetsAt (.phys k) 1 = false) ∧
    (s.translate o.who .atomic va).2 = .ok (.phys k) :=
  ⟨memS, memO, 0x10441, 0x10441, 0x140441, (memS.translate memO.who .store 0x10441).1, ⟨by decide +kernel, by decide +kernel⟩, by decide +kernel,
    pair_of (by decide +kernel), fun j x h => by rw [noPub_of (by decide +kernel) j] at h; simp at h, by decide +kernel⟩

/-- The hypotheses on POOL's issue. -/
def Pools (i : Instr) (f : Form) (free : Bool) (s : State) (c : Ctx) (n : Nat) : Prop :=
  (i = .poolA f ∧ free = false ∨ i = .poolF f ∧ free = true) ∧ Issuing s c f.guard ∧ flagFree c f = true ∧
    isS2 f.a = true ∧ (free = false → isS2 f.d = true) ∧ (free = true → isS2 f.b = true) ∧ predName f.c = some n ∧
    (let cp := c.g.cap c.tk (f.a.num / 2)
     cp.check 7 1 64 0 = 0 ∧ cp.base % 64 = 0 ∧ s.atEngine c.r c.g.nextId 64 = false)

theorem witness_PoolsReachTheirEngine_alloc : ∃ (i : Instr) (f : Form) (free : Bool) (s : State) (c : Ctx) (n k off : Nat) (d : Bool), Pools i f free s c n ∧
    (let cp := c.g.cap c.tk (f.a.num / 2)
     (cp.base / 2 ^ 60 = 2 ∨ cp.base / 2 ^ 60 = 4) ∧ s.path (s.origin c.r c.g) .atomic cp.base 1 = some (.spad k off d)) :=
  ⟨.poolA poolF, poolF, false, memS, memC, 3, 0, 0x400, false, ⟨.inl ⟨rfl, rfl⟩, issuing_of _ _ (by decide +kernel), by decide +kernel⟩, by decide +kernel⟩

theorem witness_PoolsReachTheirEngine_free : ∃ (i : Instr) (f : Form) (free : Bool) (s : State) (c : Ctx) (n k off : Nat) (d : Bool), Pools i f free s c n ∧
    (let cp := c.g.cap c.tk (f.a.num / 2)
     (cp.base / 2 ^ 60 = 2 ∨ cp.base / 2 ^ 60 = 4) ∧ s.path (s.origin c.r c.g) .atomic cp.base 1 = some (.spad k off d)) :=
  ⟨.poolF freeF, freeF, true, memS, memC, 3, 0, 0x400, false, ⟨.inr ⟨rfl, rfl⟩, issuing_of _ _ (by decide +kernel), by decide +kernel⟩, by decide +kernel⟩

/-- The pool lies in memory. -/
def genS : State := at_ { memG with scal := lput 0 memG.scal 10 0x10400 } []
/-- What issues in it. -/
def genC : Ctx := ctxOf genS
/-- The pool's capability. -/
def genP : Cap := genC.g.cap genC.tk 5
/-- The state after its lines have been translated. -/
def probed : State × Except Miss Unit :=
  (withOp genS genC (poolOp genC poolF false 3)).poolProbe (genS.origin genC.r genC.g) genC.g.nextId (poolLines genP)

theorem witness_PoolsReachTheirEngine_general : ∃ (i : Instr) (f : Form) (free : Bool) (s s1 s2 : State) (c : Ctx) (n k va : Nat), Pools i f free s c n ∧
    (let cp := c.g.cap c.tk (f.a.num / 2)
     let o := s.origin c.r c.g
     cp.base / 2 ^ 60 = 0 ∧ s.path o .atomic cp.base 1 = some (.gen va) ∧
     (withOp s c (poolOp c f free n)).poolProbe o c.g.nextId (poolLines cp) = (s1, .ok ()) ∧ s1.atomPlace o cp.base 1 = (s2, .ok (.mem k)) ∧
     ∀ j, (s2.core j).pub = []) :=
  ⟨.poolA poolF, poolF, false, genS, probed.1, (probed.1.atomPlace (genS.origin genC.r genC.g) genP.base 1).1, genC, 3, 0x140400, 0x10400,
    ⟨.inl ⟨rfl, rfl⟩, issuing_of _ _ (by decide +kernel), by decide +kernel⟩, by decide +kernel, by decide +kernel, pair_of (ok_of (by decide +kernel)), pair_of (ok_of (by decide +kernel)),
    noPub_of (by decide +kernel)⟩

/-! ### Completions and faults -/

/-- A load whose data are at hand. -/
def pendL : Pend := opOf memC ldF (.load none .load [] ldF false) [.word 0 4] [9]
/-- The group. -/
def loadG : Group := counted pendL memG
/-- The state. -/
def loadS : State := memS.setGroup ⟨0, 0, 0⟩ loadG

theorem witness_OperationsAndStoresComplete_operation : ∃ (s : State) (r : GRef) (id : Nat) (g : Group) (p : Pend), id < 2 ^ 32 ∧ s.group? r = some g ∧
    g.pend.find? (fun x => x.id == id) = some p ∧ p.done = false ∧ (s.core r.core).halted = false ∧
    (p.kind = .ready ∨ (∃ acc reqs f k, p.kind = .load none acc reqs f k) ∨ p.kind = .fence ∧ s.fenceMet r g p = true) ∧ p.ivs = [] ∧
    p.clash = [] ∧ p.dirty = [] ∧ g.st ≠ .draining ∧ (∀ m w, g.st ≠ .waiting m w) :=
  ⟨loadS, ⟨0, 0, 0⟩, 0, loadG, pendL, by decide +kernel, by decide +kernel, by decide +kernel, by decide +kernel, by decide +kernel,
    .inr (.inl ⟨.load, [], ldF, false, rfl⟩), by decide +kernel, by decide +kernel, by decide +kernel, by decide +kernel,
    fun m w h => by
      have e : loadG.st = .ready := by decide +kernel
      rw [e] at h
      cases h⟩

/-- A buffered store. -/
def entryP : PubEntry := ⟨.phys 0x140100, leBytes 4 5, ⟨0, 0, 0⟩, 1, false, 0⟩
/-- The state. -/
def pubS : State := memS.modCore 0 fun k => { k with pub := [entryP] }

theorem witness_OperationsAndStoresComplete_store : ∃ (s : State) (core : Nat) (x : PubEntry) (k : Nat), MemoriesWf s ∧ (s.core core).halted = false ∧ (s.core core).pub = [x] ∧
    x.loc = .phys k ∧ s.owning = [] ∧ ∀ j, j ≠ core → (s.core j).pub = [] :=
  ⟨pubS, 0, entryP, 0x140100, ⟨by decide +kernel, by decide +kernel⟩, by decide +kernel, by decide +kernel, by decide +kernel, by decide +kernel, fun j h => by
    have e : pubS.core j = memS.core j := congrArg (Option.getD · Core.reset) (mget_mset_other _ h _)
    rw [e]
    exact noPub_of (by decide +kernel) j⟩

/-- Lane 1 is misaligned. -/
def skewS : State := at_ { memG with threads := lput gone memG.threads 1 (laneOf (2 :: wordsB)) } []

/-- The failure of a request. -/
def badReq (s : State) (c : Ctx) (o : LoadOp) (x : Req) : Option Nat := if x.addr.toNat % x.size ≠ 0 then some 0x09
  else if (s.path (s.origin c.r c.g) o.acc x.addr.toNat x.size).isNone then some 0x0a else none

/-- The hypotheses on a load with a bad address. -/
def BadLoad : Prop := ∃ (i : Instr) (o : LoadOp) (s : State) (c : Ctx) (q : Req) (cause : Nat), loadOf c i = some o ∧ Issuing s c o.form.guard ∧
  o.ok = true ∧ flagFree c o.form = true ∧ o.reqs.find? (fun x => (badReq s c o x).isSome) = some q ∧ badReq s c o q = some cause

theorem bad_load (i : Instr) (o : LoadOp) (s : State) (q : Req) (cause : Nat) (h1 : loadOf (ctxOf s) i = some o)
    (h2 : (s.ctx.isSome && surely (ctxOf s) o.form.guard) = true) (h3 : (o.ok && flagFree (ctxOf s) o.form) = true)
    (h4 : o.reqs.find? (fun x => (badReq s (ctxOf s) o x).isSome) = some q) (h5 : badReq s (ctxOf s) o q = some cause) : BadLoad := by
  simp only [Bool.and_eq_true] at h3
  exact ⟨i, o, s, ctxOf s, q, cause, h1, issuing_of _ _ h2, h3.1, h3.2, h4, h5⟩

theorem witness_LoadsFault_misaligned : BadLoad := bad_load (.ld ldF) _ skewS ⟨1, 0x10102, 4, 0, 0x10102⟩ 9 rfl (by decide +kernel) (by decide +kernel)
  (by decide +kernel) (by decide +kernel)

/-- LD from s6, which holds an address of no path (9 in its path bits). -/
def wildS : State := at_ { memG with scal := lput 0 memG.scal 6 (BitVec.ofNat 64 (9 * 2 ^ 60)) } []
/-- The form. -/
def wildF : Form := bare (.v 4) (.s 6) (.v 0)

theorem witness_LoadsFault_noPath : BadLoad := bad_load (.ld wildF) _ wildS ⟨0, BitVec.ofNat 64 (9 * 2 ^ 60), 4, 0, BitVec.ofNat 64 (9 * 2 ^ 60)⟩ 10 rfl
  (by decide +kernel) (by decide +kernel) (by decide +kernel) (by decide +kernel)

theorem witness_LoadsFault_once : BadLoad := bad_load (.ldk (wide (.s 12) (.s 6) .zero .unused)) _ wildS ⟨64, BitVec.ofNat 64 (9 * 2 ^ 60), 16, 0, 0⟩ 10 rfl
  (by decide +kernel) (by decide +kernel) (by decide +kernel) (by decide +kernel)

theorem witness_LoadsFault_constant : ∃ (i : Instr) (f : Form) (s : State) (c : Ctx), (i = .ldc f ∨ i = .ldcExtended f) ∧ Issuing s c f.guard ∧
    isS f.a = true ∧ uniformSource f.lit f.b = true ∧ isData (accessBytes f) f.d = true ∧ flagFree c f = true ∧ 2 ^ 61 ≤ addrOf c f 0 :=
  ⟨.ldc (bare (.s 12) (.s 2) .zero), _, memS, memC, .inl rfl, issuing_of _ _ (by decide +kernel), by decide +kernel⟩

/-- One thread, and s6 an address of a page that is not present. -/
def holeG : Group := { groupOf [laneOf (0 :: wordsA)] [0, 0, 0, 0, 0, 0, 0x20100, 2 ^ 60 + 0x20100, 6 * 2 ^ 60 + 0x20100] with ctag := 0 }
/-- The state. -/
def holeS : State := at_ holeG []

theorem lookup_setGroup (s : State) (r : GRef) (g : Group) (w : Who) (va : Nat) : (s.setGroup r g).lookup w va = s.lookup w va := rfl

theorem translate_none {s : State} {w : Who} {acc : Access} {va e : Nat} (h1 : (w.sup || !inHostRegion va) = true) (h2 : s.lookup w va = .error e) :
    s.translate w acc va = (s, .fault e) := by
  unfold State.translate
  simp [h1, h2]

/-- The hypotheses on a load whose page faults. -/
def FaultyLoad (tg : Nat → Target) : Prop :=
  ∃ (i : Instr) (o : LoadOp) (s : State) (c : Ctx) (q : Req) (sub va : Nat) (acc : Access), loadOf c i = some o ∧ Issuing s c o.form.guard ∧ c.sys = false ∧
    c.r.qtr < 4 ∧ o.ok = true ∧ flagFree c o.form = true ∧ o.reqs = [q] ∧ q.addr.toNat % q.size = 0 ∧
    (∀ g, (s.setGroup c.r g).translate (s.origin c.r c.g).who acc va = (s.setGroup c.r g, .fault sub)) ∧
    s.path (s.origin c.r c.g) o.acc q.addr.toNat q.size = some (tg va) ∧ (tg va = .gen va → acc = o.acc) ∧
    s.overlapsLog c.r.core (s.origin c.r c.g).ten q.addr.toNat q.size = false ∧
    s.overlapsLog c.r.core (s.origin c.r c.g).ten va q.size = false

theorem hole (acc : Access) (g : Group) : (holeS.setGroup (ctxOf holeS).r g).translate (holeS.origin (ctxOf holeS).r (ctxOf holeS).g).who acc 0x20100 =
    (holeS.setGroup (ctxOf holeS).r g, .fault 1) := by
  refine translate_none (by decide +kernel) ?_
  rw [lookup_setGroup]
  exact error_of (by decide +kernel)

theorem witness_LoadsFault_page : FaultyLoad .gen :=
  ⟨.ld wildF, _, holeS, ctxOf holeS, ⟨0, 0x20100, 4, 0, 0x20100⟩, 1, 0x20100, .load, rfl, issuing_of _ _ (by decide +kernel), by decide +kernel,
    by decide +kernel, by decide +kernel, by decide +kernel, by decide +kernel, by decide +kernel, hole _, by decide +kernel, fun _ => rfl,
    by decide +kernel, by decide +kernel⟩

theorem witness_LoadsFault_conPage : FaultyLoad .con :=
  ⟨.ldc (bare (.s 12) (.s 7) .zero), _, holeS, ctxOf holeS, ⟨64, BitVec.ofNat 64 (2 ^ 60 + 0x20100), 4, 0, 0⟩, 1, 0x20100, .con, rfl,
    issuing_of _ _ (by decide +kernel), by decide +kernel, by decide +kernel, by decide +kernel, by decide +kernel, by decide +kernel, by decide +kernel,
    hole _, by decide +kernel, fun h => by simp at h, by decide +kernel, by decide +kernel⟩

theorem witness_LoadsFault_dapPage : FaultyLoad .dap :=
  ⟨.ld (bare (.v 4) (.s 8) (.v 0)), _, holeS, ctxOf holeS, ⟨0, BitVec.ofNat 64 (6 * 2 ^ 60 + 0x20100), 4, 0, BitVec.ofNat 64 (6 * 2 ^ 60 + 0x20100)⟩, 1, 0x20100,
    .dap, rfl, issuing_of _ _ (by decide +kernel), by decide +kernel, by decide +kernel, by decide +kernel, by decide +kernel, by decide +kernel,
    by decide +kernel, hole _, by decide +kernel, fun h => by simp at h, by decide +kernel, by decide +kernel⟩

end Sys2Proof.Tests
end

