-- ==== Sys2Proof/Tests/WitnessPages.lean ====
section
/-! SUPPORT. Witnesses: concrete states that meet the hypotheses of the statements on page moves, pulls and the fabric. -/

namespace Sys2Proof.Tests

open Sys2Proof Sys2Proof.Machine Sys2Proof.Claims

-- One theorem at a time, so that the package compiles as one text in little memory.
set_option Elab.async false

/-! ### Pages -/

/-- A leaf for the page at 0x20000: every access allowed, neither pinned nor dirty, with further bits. -/
def leafE (frame rest : Nat) : Nat := frame + 0x1f3 + rest
/-- The state with it, with moves in progress. -/
def pageS (e : Nat) (ms : List Move) : State := { wS with mem := cwrite wS.mem 0x130010 (leBytes 8 e), moves := ms }
/-- A leaf at its place. -/
def leafAt (e : Nat) : Leaf := ⟨e, false, 0x130010⟩
/-- A near page, a capacity page, a compressed page, a page of device 5. -/
def nearE : Nat := leafE 0x150000 0
/-- A page of the capacity tier. -/
def capE : Nat := leafE 0x160000 (2 ^ 58)
/-- A compressed page. -/
def cmpE : Nat := leafE 0x160000 (2 ^ 58 + 2 ^ 57)
/-- A page that device 5 owns. -/
def farE : Nat := leafE (5 * 2 ^ 44) (2 ^ 56 + 2 ^ 59)

theorem witness_PageMoves_request : ∃ (s : State) (ten : Nat) (va : BitVec 64) (m : PageMove) (l : Leaf), leafOf s ten (va.toNat / 65536 % 2 ^ 41) = some l ∧
    s.locked ten (va.toNat / 65536 % 2 ^ 41) = false ∧ moveStarts l.e l.big (!s.written.contains (frameNumber l.e)) m = true :=
  ⟨pageS nearE [], 1, 0x20000, .evict, leafAt nearE, by decide +kernel⟩

theorem witness_PageMoves_engine : ∃ (s : State) (ten : Nat) (va : BitVec 64) (l : Leaf), leafOf s ten (va.toNat / 65536 % 2 ^ 41) = some l ∧
    s.locked ten (va.toNat / 65536 % 2 ^ 41) = false ∧ moveStarts l.e l.big (!s.written.contains (frameNumber l.e)) .compress = true :=
  ⟨pageS capE [], 1, 0x20000, leafAt capE, by decide +kernel⟩

theorem witness_PageMoves_queued : ∃ (s : State) (ten : Nat) (va : BitVec 64) (m k : PageMove) (l : Leaf) (x : Move), leafOf s ten (va.toNat / 65536 % 2 ^ 41) = some l ∧
    s.moves = [x] ∧ x.ten = ten ∧ x.page = va.toNat / 65536 % 2 ^ 41 ∧ x.pull = false ∧ moveMeets (x.queued.getLast?.getD x.kind) m = some k :=
  ⟨pageS capE [⟨1, 2, .compress, false, []⟩], 1, 0x20000, .promote, .decompressPromote, leafAt capE, ⟨1, 2, .compress, false, []⟩, by decide +kernel⟩

/-- The hypotheses of a completed move. -/
def Completes (s : State) (ten : Nat) (va : BitVec 64) (x : Move) (l : Leaf) : Prop := leafOf s ten (va.toNat / 65536 % 2 ^ 41) = some l ∧ s.moves = [x] ∧ x.ten = ten ∧
  x.page = va.toNat / 65536 % 2 ^ 41 ∧ x.pull = false ∧ MemoriesWf s ∧ moveStarts l.e l.big (!s.written.contains (frameNumber l.e)) x.kind = true ∧
  (s.host.ready = true ∨ x.kind = .compress) ∧ s.frameBusy (frameKey (frameNumber l.e)) = false ∧ s.host.waiting = [] ∧ s.fabric.inbox = [] ∧ (∀ k ∈ s.cores, k.2.pub = []) ∧
  (x.kind = .promote ∨ x.kind = .decompressPromote → (s.nearFrame ten (va.toNat / 65536 % 2 ^ 41)).isSome = true) ∧
  (x.kind = .evict → (s.capacityFrame ten (va.toNat / 65536 % 2 ^ 41)).isSome = true)

/-- In service. -/
def readyS (s : State) : State := { s with host := { s.host with ready := true } }

theorem witness_PageMoves_compressed : ∃ (s : State) (x : Move) (l : Leaf), Completes s 1 0x20000 x l ∧ x.kind = .compress :=
  ⟨pageS capE [⟨1, 2, .compress, false, [.decompressPromote]⟩], ⟨1, 2, .compress, false, [.decompressPromote]⟩, leafAt capE, by unfold Completes MemoriesWf; decide +kernel, rfl⟩

theorem witness_PageMoves_promoted : ∃ (s : State) (x : Move) (l : Leaf), Completes s 1 0x20000 x l ∧ x.kind = .promote :=
  ⟨readyS (pageS capE [⟨1, 2, .promote, false, []⟩]), ⟨1, 2, .promote, false, []⟩, leafAt capE, by unfold Completes MemoriesWf; decide +kernel, rfl⟩

theorem witness_PageMoves_decompressed : ∃ (s : State) (x : Move) (l : Leaf), Completes s 1 0x20000 x l ∧ x.kind = .decompressPromote :=
  ⟨readyS (pageS cmpE [⟨1, 2, .decompressPromote, false, []⟩]), ⟨1, 2, .decompressPromote, false, []⟩, leafAt cmpE, by unfold Completes MemoriesWf; decide +kernel, rfl⟩

theorem witness_PageMoves_evicted : ∃ (s : State) (x : Move) (l : Leaf), Completes s 1 0x20000 x l ∧ x.kind = .evict ∧
    (s.reserve.any (fun y => y.1 == 1 && y.2.1 == 2) = false ∨ s.written.contains (frameNumber l.e) = true) :=
  ⟨readyS (pageS nearE [⟨1, 2, .evict, false, []⟩]), ⟨1, 2, .evict, false, []⟩, leafAt nearE, by unfold Completes MemoriesWf; decide +kernel, rfl, by decide +kernel⟩

/-- The partition has no frames. -/
def bareS (m : PageMove) : State :=
  { pageS (if m = .evict then nearE else capE) [⟨1, 2, m, false, []⟩] with parts := [(0, { bootPart with near := [], far := [] })] }

theorem witness_PageMoves_noFrame : ∀ m ∈ [PageMove.promote, .evict], ∃ (s : State) (ten : Nat) (va : BitVec 64) (x : Move) (l : Leaf),
    leafOf s ten (va.toNat / 65536 % 2 ^ 41) = some l ∧ s.moves = [x] ∧ x.ten = ten ∧ x.page = va.toNat / 65536 % 2 ^ 41 ∧ x.pull = false ∧ x.kind = m ∧
    moveStarts l.e l.big (!s.written.contains (frameNumber l.e)) x.kind = true ∧ s.frameBusy (frameKey (frameNumber l.e)) = false ∧
    ((x.kind = .promote ∨ x.kind = .decompressPromote) ∧ s.nearFrame ten (va.toNat / 65536 % 2 ^ 41) = none ∨
      x.kind = .evict ∧ s.capacityFrame ten (va.toNat / 65536 % 2 ^ 41) = none) :=
  fun m hm => ⟨bareS m, 1, 0x20000, ⟨1, 2, m, false, []⟩, leafAt (if m = .evict then nearE else capE), by revert m; decide +kernel, by revert m; decide +kernel,
    rfl, rfl, rfl, rfl, by revert m; decide +kernel, by revert m; decide +kernel, by revert m; decide +kernel⟩

/-- A pull of the page. -/
def pullOf (refused : Bool) : Pull := ⟨1, 2, refused, 0, false⟩
/-- The state with it. -/
def pullS (refused : Bool) : State :=
  let s := pageS farE [⟨1, 2, .promote, true, []⟩]
  { s with fabric := { s.fabric with pulls := [pullOf refused] } }

theorem walk_of {x : Except Nat Leaf} {l : Leaf} (h : x.toOption = some l) : x = .ok l := ok_of h

theorem witness_PagePulls_start : ∃ (s : State) (ten : Nat) (va : BitVec 64) (tn : Tenant) (l : Leaf), s.tenant? ten = some tn ∧
    walk s.mem tn.root (va.toNat / 65536 % 2 ^ 41 * 65536) = .ok l ∧ bit l.e 56 = true ∧
    s.fabric.pulls.find? (fun p => p.ten == ten && p.page == va.toNat / 65536 % 2 ^ 41) = none ∧ s.locked ten (va.toNat / 65536 % 2 ^ 41) = false :=
  ⟨pageS farE [], 1, 0x20000, bootTenant, leafAt farE, by decide +kernel, walk_of (by decide +kernel), by decide +kernel⟩

theorem witness_PagePulls_answer : ∃ (s : State) (ten : Nat) (va : BitVec 64) (tn : Tenant) (l : Leaf) (p : Pull), s.tenant? ten = some tn ∧
    walk s.mem tn.root (va.toNat / 65536 % 2 ^ 41 * 65536) = .ok l ∧ bit l.e 56 = true ∧ s.fabric.pulls = [p] ∧ p.ten = ten ∧ p.page = va.toNat / 65536 % 2 ^ 41 ∧
    p.refused = false ∧ MemoriesWf s ∧ s.host.waiting = [] ∧ s.fabric.inbox = [] ∧ (s.nearFrame ten (va.toNat / 65536 % 2 ^ 41)).isSome = true ∧
    Memory.wf (s.peer (peerKey ten (slice l.e 51 44))) = true :=
  ⟨pullS false, 1, 0x20000, bootTenant, leafAt farE, pullOf false, by decide +kernel, walk_of (by decide +kernel), by decide +kernel, by decide +kernel, by decide +kernel,
    by decide +kernel, by decide +kernel, by unfold MemoriesWf; decide +kernel, by decide +kernel⟩

theorem witness_PagePulls_noFrame : ∃ (s : State) (ten : Nat) (va : BitVec 64) (tn : Tenant) (l : Leaf) (p : Pull), s.tenant? ten = some tn ∧
    walk s.mem tn.root (va.toNat / 65536 % 2 ^ 41 * 65536) = .ok l ∧ bit l.e 56 = true ∧ s.fabric.pulls = [p] ∧ p.ten = ten ∧ p.page = va.toNat / 65536 % 2 ^ 41 ∧
    p.refused = false ∧ s.nearFrame ten (va.toNat / 65536 % 2 ^ 41) = none :=
  ⟨{ pullS false with parts := [] }, 1, 0x20000, bootTenant, leafAt farE, pullOf false, by decide +kernel, walk_of (by decide +kernel), by decide +kernel⟩

theorem witness_PagePulls_service : ∃ (s : State) (ten : Nat) (va : BitVec 64) (tn : Tenant) (l : Leaf) (k : Nat), s.tenant? ten = some tn ∧
    walk s.mem tn.root (va.toNat / 65536 % 2 ^ 41 * 65536) = .ok l ∧ l.loc (va.toNat / 65536 % 2 ^ 41 * 65536) = .phys k ∧ s.frameBusy (k / 65536 * 65536) = false ∧
    MemoriesWf s ∧ ∀ k ∈ s.cores, k.2.pub = [] :=
  ⟨pageS nearE [], 1, 0x20000, bootTenant, leafAt nearE, 0x150000, by decide +kernel, walk_of (by decide +kernel), by decide +kernel, by decide +kernel,
    by unfold MemoriesWf; decide +kernel, by decide +kernel⟩

theorem witness_PagePulls_refusal : ∃ (s : State) (ten : Nat) (va : BitVec 64) (tn : Tenant) (n : Nat), s.tenant? ten = some tn ∧
    walk s.mem tn.root (va.toNat / 65536 % 2 ^ 41 * 65536) = .error n :=
  ⟨wS, 1, 0x20000, bootTenant, 1, by decide +kernel, error_of (by decide +kernel)⟩

theorem witness_PagePulls_timeout : ∃ (s : State) (ten : Nat) (va : BitVec 64) (p : Pull), s.stopped ten = false ∧ s.fabric.pulls = [p] ∧ p.ten = ten ∧
    p.page = va.toNat / 65536 % 2 ^ 41 ∧ p.refused = true ∧ p.failed = false ∧ p.since + s.remoteCycles ≤ s.cycle ∧ (∀ k ∈ s.cores, k.2.log = []) ∧
    ∀ x ∈ s.tenantGroups, x.2.ten ≠ ten :=
  ⟨{ pullS true with cycle := 125000, groups := [] }, 1, 0x20000, pullOf true, by decide +kernel⟩

/-! ### The fabric -/

/-- A peer's access to the boot page, or to one that is not present. -/
def peerIn (kind : Access) (va : Nat) : PeerIn := ⟨7, 1, kind, BitVec.ofNat 64 va, 4, 9, .add, false, 0⟩

theorem witness_InboundAccesses_read : ∃ (s s1 : State) (q : PeerIn) (l : Loc), s.fabric.left.contains q.ten = false ∧
    s.peerTranslate q.ten q.kind (q.va.toNat % 2 ^ 57) = (s1, .ok l) ∧ q.kind = .load :=
  ⟨wS, _, peerIn .load 0x10400, .phys 0x140400, by decide +kernel, pair_of (by decide +kernel), by decide +kernel⟩

theorem witness_InboundAccesses_store : ∃ (s s1 : State) (q : PeerIn) (k : Nat), s.fabric.left.contains q.ten = false ∧
    s.peerTranslate q.ten q.kind (q.va.toNat % 2 ^ 57) = (s1, .ok (.phys k)) ∧ q.kind = .store :=
  ⟨wS, _, peerIn .store 0x10400, 0x140400, by decide +kernel, pair_of (by decide +kernel), by decide +kernel⟩

theorem witness_InboundAccesses_atomic : ∃ (s s1 : State) (q : PeerIn) (k : Nat), s.fabric.left.contains q.ten = false ∧
    s.peerTranslate q.ten q.kind (q.va.toNat % 2 ^ 57) = (s1, .ok (.phys k)) ∧ q.kind = .atomic :=
  ⟨wS, _, peerIn .atomic 0x10400, 0x140400, by decide +kernel, pair_of (by decide +kernel), by decide +kernel⟩

theorem witness_InboundAccesses_fault : ∃ (s s1 : State) (q : PeerIn) (n : Nat), s.fabric.left.contains q.ten = false ∧
    s.peerTranslate q.ten q.kind (q.va.toNat % 2 ^ 57) = (s1, .fault n) :=
  ⟨wS, _, peerIn .load 0x20400, 1, by decide +kernel, pair_of (by decide +kernel)⟩

theorem witness_InboundAccesses_left : ∃ (s : State) (q : PeerIn), s.fabric.left.contains q.ten = true :=
  ⟨{ wS with fabric := { wS.fabric with left := [1] } }, peerIn .load 0x10400, by decide +kernel⟩

theorem witness_InboundAccesses_forwarded : ∃ (s : State) (q : PeerIn) (l : Leaf) (k : Nat), walk s.mem (s.launchWho q.ten).root (q.va.toNat % 2 ^ 57) = .ok l ∧
    l.loc (q.va.toNat % 2 ^ 57) = .phys k ∧ bit l.e 54 = true :=
  ⟨wS, peerIn .atomic 0x10400, ⟨bootFrame + 0x1f3 + 2 ^ 54 + 2 ^ 55, false, 0x130008⟩, 0x140400, walk_of (by decide +kernel), by decide +kernel, by decide +kernel⟩

theorem witness_InboundAccesses_sent : ∃ (s : State) (q : PeerIn) (n : Nat), walk s.mem (s.launchWho q.ten).root (q.va.toNat % 2 ^ 57) = .error n :=
  ⟨wS, peerIn .atomic 0x20400, 1, error_of (by decide +kernel)⟩

/-- A load of a peer's word, with the reason that it waits for. -/
def peerPend (why : Option HoldWhy) : Pend :=
  { Pend.new 0 (BitVec.ofNat 64 bootPc) 2 1 (.load why .load [⟨0, BitVec.ofNat 64 (7 * 2 ^ 60 + 5 * 2 ^ 52 + 0x100), 4, 0, 0⟩] noF false) [.word 0 3] [] with id := 4 }
/-- Its group. -/
def peerG (why : Option HoldWhy) : Group := { two with pend := [peerPend why], st := if why.isSome then .held 4 else .ready }
/-- The state with it. -/
def peerS (why : Option HoldWhy) : State := { at_ (peerG why) [] with cycle := 125000 }

theorem witness_RemoteAnswers_refused : ∃ (s : State) (r : GRef) (id : Nat) (g : Group) (p : Pend) (a : Nat × Nat), id < sentBase ∧ s.group? r = some g ∧
    g.pend.find? (fun x => x.id == id) = some p ∧ p.done = false ∧ p.peerAt = some a ∧ p.why = none ∧ s.stopped g.ten = false :=
  ⟨peerS none, ⟨0, 0, 0⟩, 4, peerG none, peerPend none, (5, 0x100), by decide +kernel⟩

theorem witness_RemoteAnswers_timeout : ∃ (s : State) (r : GRef) (id : Nat) (g : Group) (p : Pend) (a : Nat × Nat), id < sentBase ∧ s.group? r = some g ∧
    g.pend.find? (fun x => x.id == id) = some p ∧ p.done = false ∧ p.peerAt = some a ∧ p.why = some .peer ∧ g.frozen = false ∧ g.st = .held id ∧
    p.since + s.remoteCycles ≤ s.cycle :=
  ⟨peerS (some .peer), ⟨0, 0, 0⟩, 4, peerG (some .peer), peerPend (some .peer), (5, 0x100), by decide +kernel⟩

/-- A store of 7 for a peer. -/
def sentE : LogEntry := ⟨4, 0, BitVec.ofNat 64 (7 * 2 ^ 60 + 5 * 2 ^ 52 + 0x100), 7, 0, 0, 0, false, false, false, false, ⟨0, 0, 0⟩, 0, 1, 1, BitVec.ofNat 64 bootPc, 0, 1, false, false, 0⟩
/-- It is on its way. -/
def sentS : State := { wS with fabric := { wS.fabric with sent := [(2, sentE)], sentNext := 3 } }

theorem witness_RemoteAnswers_store : ∃ (s : State) (r : GRef) (n : Nat) (e : LogEntry), s.sentEntry r n = some e ∧ s.logFits r.core 1 = true :=
  ⟨sentS, ⟨0, 0, 0⟩, 2, sentE, by decide +kernel, by decide +kernel⟩

theorem witness_RemoteAnswers_resolved : ∃ (s : State) (dev : Nat) (va : BitVec 64) (p : Pull) (tn : Tenant) (l : Leaf),
    (∀ x ∈ s.tenantGroups, ∀ p ∈ x.2.pend, p.names dev va.toNat = false) ∧ s.fabric.pulls = [p] ∧ p.page = va.toNat / 65536 % 2 ^ 41 ∧ s.tenant? p.ten = some tn ∧
    walk s.mem tn.root (p.page * 65536) = .ok l ∧ slice l.e 51 44 = dev :=
  ⟨pullS true, 5, 0x20000, pullOf true, bootTenant, leafAt farE, by decide +kernel, by decide +kernel, by decide +kernel, by decide +kernel, walk_of (by decide +kernel),
    by decide +kernel⟩

end Sys2Proof.Tests
end

