-- ==== Sys2Proof/Tests/WitnessRegisters.lean ====
section
/-! SUPPORT. Witnesses: concrete states and operands that meet the hypotheses of the statements on steps, registers and control. -/

namespace Sys2Proof.Tests

open Sys2Proof Sys2Proof.Machine Sys2Proof.Claims

-- One theorem at a time, so that the package compiles as one text in little memory.
set_option Elab.async false

/-! ### Encodings and steps -/

theorem witness_DecodeOfEncode : ∃ i : Instr, i.wf = true ∧ i.isEvent = false := ⟨.add (bare (.v 1) (.v 3) (.v 2)), by decide +kernel, rfl⟩

theorem witness_EncodeOfDecode : ∃ bs i n, decode bs = .ok (i, n) :=
  ⟨leBytes 4 0b00_0_000_000010_000011_000001_001000_00, .add (bare (.v 1) (.v 3) (.v 2)), 4, ok_of (by decide +kernel)⟩

/-- ADD v1, v3, v2, the last instruction of its clause. -/
def addS : State := coded two (.add (bare (.v 1) (.v 3) (.v 2)))

theorem reads_of (s : State) (o : Origin) (pc : DWord) (i : Instr) (b0 rest : List Byte) (n : Nat)
    (h0 : (s.fetchWord o pc).2 = .bytes b0)
    (h1 : ((s.fetchWord o pc).1.fetchWords o (pc + 4) (lenBytes (ofLe b0 % 4) / 4 - 1)).2 = .bytes rest)
    (h2 : decode (b0 ++ rest) = .ok (i, n)) : ∃ t, Reads s o pc i t :=
  ⟨_, b0, rest, _, _, n, pair_of h0, pair_of h1, h2, rfl⟩

theorem known_of {s : State} {r : GRef} {g : Group} {ls : List Nat} (h : (g.thread (ls.headD 0)).left.isSome = true) :
    clauseKnown s r g ls = g ∧ clauseState s r g ls = s := ⟨if_pos h, if_pos h⟩

theorem witness_StepRunsDecoded_clause : ∃ s r g l ls i t, s.agenda = [] ∧ OnTurn s r g ∧ g.issuingSet = l :: ls ∧
    (∃ n, ((clauseKnown s r g (l :: ls)).thread l).left = some (n + 1)) ∧
    Reads (clauseState s r g (l :: ls)) ((clauseState s r g (l :: ls)).origin r (clauseKnown s r g (l :: ls)))
      ((clauseKnown s r g (l :: ls)).thread l).pc i t := by
  obtain ⟨t, h⟩ := reads_of addS (addS.origin ⟨0, 0, 0⟩ two) (two.thread 0).pc (.add (bare (.v 1) (.v 3) (.v 2)))
    (leBytes 4 0b00_0_000_000010_000011_000001_001000_00) [] 4 (by decide +kernel) (by decide +kernel) (ok_of (by decide +kernel))
  have k : clauseKnown addS ⟨0, 0, 0⟩ two [0, 1] = two ∧ clauseState addS ⟨0, 0, 0⟩ two [0, 1] = addS := known_of (by decide +kernel)
  refine ⟨addS, ⟨0, 0, 0⟩, two, 0, [1], .add (bare (.v 1) (.v 3) (.v 2)), t, by decide +kernel, by unfold OnTurn; decide +kernel, by decide +kernel, ?_, ?_⟩
  · rw [k.1]; exact ⟨0, by decide +kernel⟩
  · rw [k.1, k.2]; exact h

/-- A group at a header that counts two instructions, waits for no flag and sets SETA 0 and SETB 1, with ADD v1, v3, v2 after it. -/
def atHeader : Group := groupOf [{ laneOf wordsA with left := some 0 }] []
/-- The header. -/
def headerWord : Nat := 0b0001_0001_0000_000000000000_00000000
/-- The state. -/
def headerS : State := at_ atHeader (leBytes 4 headerWord ++ encode (.add (bare (.v 1) (.v 3) (.v 2))))
/-- The state after the header's fetch. -/
def fetchedS : State := (headerS.fetchWord (headerS.origin ⟨0, 0, 0⟩ atHeader) (atHeader.thread 0).pc).1
/-- The group in its clause. -/
def inClause : Group := atHeader.enterClause fetchedS.ticket [0] headerWord
/-- The state in which the clause has been entered. -/
def enteredS : State := fetchedS.setGroup ⟨0, 0, 0⟩ inClause

theorem witness_StepRunsDecoded_header : ∃ s r g l ls i t s1 b, s.agenda = [] ∧ OnTurn s r g ∧ g.issuingSet = l :: ls ∧
    (let k := clauseKnown s r g (l :: ls)
     let s0 := clauseState s r g (l :: ls)
     ((k.thread l).left = some 0 ∨ (k.thread l).left = none) ∧ s0.fetchWord (s0.origin r k) (k.thread l).pc = (s1, .bytes b) ∧
     headerOpen k (ofLe b) = true ∧
     let h := k.enterClause s1.ticket (l :: ls) (ofLe b)
     Reads (s1.setGroup r h) ((s1.setGroup r h).origin r h) ((k.thread l).pc + 4) i t) := by
  obtain ⟨t, h⟩ := reads_of enteredS (enteredS.origin ⟨0, 0, 0⟩ inClause) ((atHeader.thread 0).pc + 4)
    (.add (bare (.v 1) (.v 3) (.v 2))) (leBytes 4 0b00_0_000_000010_000011_000001_001000_00) [] 4 (by decide +kernel) (by decide +kernel)
    (ok_of (by decide +kernel))
  have k : clauseKnown headerS ⟨0, 0, 0⟩ atHeader [0] = atHeader ∧ clauseState headerS ⟨0, 0, 0⟩ atHeader [0] = headerS :=
    known_of (by decide +kernel)
  have e : ofLe (leBytes 4 headerWord) = headerWord := by decide +kernel
  refine ⟨headerS, ⟨0, 0, 0⟩, atHeader, 0, [], .add (bare (.v 1) (.v 3) (.v 2)), t, fetchedS, leBytes 4 headerWord, by decide +kernel,
    by unfold OnTurn; decide +kernel, by decide +kernel, ?_⟩
  simp only [k.1, k.2, e]
  exact ⟨.inl (by decide +kernel), pair_of (by decide +kernel), by decide +kernel, h⟩

/-- A group restored from an image, whose clause position is unknown. -/
def restored : Group := groupOf [{ laneOf wordsA with left := none }] []
/-- The state. -/
def restoredS : State := coded restored (.add (bare (.v 1) (.v 3) (.v 2)))
/-- The state as the turn takes it up. -/
def takenS : State := clauseState restoredS ⟨0, 0, 0⟩ restored [0]
/-- The group. -/
def takenG : Group := clauseKnown restoredS ⟨0, 0, 0⟩ restored [0]

theorem witness_StepRunsDecoded_restored : ∃ s r g l ls i t s1 b, s.agenda = [] ∧ OnTurn s r g ∧ g.issuingSet = l :: ls ∧
    (let k := clauseKnown s r g (l :: ls)
     let s0 := clauseState s r g (l :: ls)
     (k.thread l).left = none ∧ (k.thread l).cpos < 16 ∧ s0.fetchWord (s0.origin r k) (k.thread l).pc = (s1, .bytes b) ∧
     ofLe b % 256 ≠ 0 ∧ Reads s1 (s1.origin r k) (k.thread l).pc i t) := by
  obtain ⟨t, h⟩ := reads_of (takenS.fetchWord (takenS.origin ⟨0, 0, 0⟩ takenG) (takenG.thread 0).pc).1
    ((takenS.fetchWord (takenS.origin ⟨0, 0, 0⟩ takenG) (takenG.thread 0).pc).1.origin ⟨0, 0, 0⟩ takenG) (takenG.thread 0).pc
    (.add (bare (.v 1) (.v 3) (.v 2))) (leBytes 4 0b00_0_000_000010_000011_000001_001000_00) [] 4 (by decide +kernel) (by decide +kernel)
    (ok_of (by decide +kernel))
  exact ⟨restoredS, ⟨0, 0, 0⟩, restored, 0, [], .add (bare (.v 1) (.v 3) (.v 2)), t, _, leBytes 4 0b00_0_000_000010_000011_000001_001000_00,
    by decide +kernel, by unfold OnTurn; decide +kernel, by decide +kernel, by show (takenG.thread 0).left = none; decide +kernel,
    by show (takenG.thread 0).cpos < 16; decide +kernel, pair_of (p := takenS.fetchWord (takenS.origin ⟨0, 0, 0⟩ takenG) (takenG.thread 0).pc) (by decide +kernel),
    by decide +kernel, h⟩

theorem witness_StepRunsDecoded_event : ∃ (s : State) (i : Instr) (rest : List Instr) (t : State), s.agenda = i :: rest ∧
    exec i { s with agenda := rest } = .next t ∧ t.issue = none :=
  ⟨{ State.reset with agenda := [.voltageReplan] }, .voltageReplan, [], State.reset, rfl, rfl, rfl⟩

theorem witness_StepsKeepBetween : ∃ s t, step s = .next t ∧ Between s := by
  obtain ⟨t, h⟩ := next_of (o := step addS) (by decide +kernel)
  exact ⟨addS, t, h, by decide +kernel, by decide +kernel, by decide +kernel⟩

theorem witness_StepsKeepCanonicalForms : ∃ s t, step s = .next t ∧ MemoriesWf s ∧ PlacesRise s := by
  obtain ⟨t, h⟩ := next_of (o := step addS) (by decide +kernel)
  exact ⟨addS, t, h, ⟨by decide +kernel, by decide +kernel⟩, by unfold PlacesRise; decide +kernel⟩

/-! ### Register results -/

theorem witness_IntegerResults_arith : ∃ i o s c, arithOp i = some o ∧ Issuing s c o.form.guard ∧ (o.effect c).ok = true :=
  ⟨.add (bare (.v 1) (.v 3) (.v 2)), _, wS, ctxOf wS, rfl, issuing_of _ _ (by decide +kernel), by decide +kernel⟩

theorem witness_IntegerResults_bits : ∃ i o s c, bitsOp i = some o ∧ Issuing s c o.form.guard ∧ (o.effect c).ok = true :=
  ⟨.bfi (wide (.s 5) (.s 1) (.s 2) (.s 3)), _, wS, ctxOf wS, rfl, issuing_of _ _ (by decide +kernel), by decide +kernel⟩

theorem witness_IntegerResults_moves : ∃ i o s c, moveOp i = some o ∧ Issuing s c o.form.guard ∧ (o.effect c).ok = true :=
  ⟨.lea { bare (.v 30) (.s 1) .lane with imm := 7 }, _, wS, ctxOf wS, rfl, issuing_of _ _ (by decide +kernel), by decide +kernel⟩

theorem witness_PredicateAndSelectResults_predicate : ∃ i o s c, (cmpOp i = some o ∨ fpredOp i = some o) ∧ Issuing s c o.form.guard ∧ (o.effect c).ok = true :=
  ⟨.cmp { bare (.v 7) (.v 1) (.v 2) with mod := 5 }, _, wS, ctxOf wS, .inl rfl, issuing_of _ _ (by decide +kernel), by decide +kernel⟩

theorem witness_PredicateAndSelectResults_float : ∃ i o s c, (cmpOp i = some o ∨ fpredOp i = some o) ∧ Issuing s c o.form.guard ∧ (o.effect c).ok = true :=
  ⟨.fcmp { bare (.v 0) (.v 1) (.v 2) with mod := 7 }, _, wS, ctxOf wS, .inr rfl, issuing_of _ _ (by decide +kernel), by decide +kernel⟩

/-- SEL whose guard holds in no thread writes B in each. -/
def noneF : Form := { bare (.v 9) (.v 1) (.v 2) with guard := ⟨true, 0⟩ }

theorem witness_PredicateAndSelectResults_select : ∃ (i : Instr) (e : Effect) (s : State) (c : Ctx), s.ctx = some c ∧ c.g.lpass = false ∧ selEffect c i = some e ∧
    (∀ l ∈ c.set, c.guard e.form.guard l ≠ .u) ∧ e.ok = true :=
  ⟨.sel noneF, _, wS, ctxOf wS, ctx_of _ (by decide +kernel), by decide +kernel, rfl, by decide +kernel, by decide +kernel⟩

theorem witness_CarryElementAndBlockResults_carry : ∃ i e s c, addcEffect c i = some e ∧ Issuing s c e.form.guard ∧ e.ok = true :=
  ⟨.addc (wide (.v 10) (.v 1) (.v 2) (.v 3)), _, wS, ctxOf wS, rfl, issuing_of _ _ (by decide +kernel), by decide +kernel⟩

/-- A group with a tagged capability of near memory in c2 (s4 and s5): base 0x20000, 0x10000 bytes, R, W and A. -/
def capped : Group := { two with scal := (([0, 40, 2, 3, 0x20000, 0x10000 + 7 * 2 ^ 40]).map (BitVec.ofNat 64)) ++ List.replicate 42 0, ctag := 4 }
/-- The state. -/
def capS : State := at_ capped []

theorem witness_CarryElementAndBlockResults_element : ∃ i e s c, idxEffect c i = some e ∧ Issuing s c e.form.guard ∧ e.ok = true :=
  ⟨.idx (wide (.v 10) (.s 4) (.v 2) (.v 4)), _, capS, ctxOf capS, rfl, issuing_of _ _ (by decide +kernel), by decide +kernel⟩

/-- Slot 0: format 2 with its default precision; slot 1: INT8. -/
def slotS : State := withGrid wS (gridOf_ [2, 0, 17, 0])

theorem eff_of {x : Option Effect} (h : x.isSome = true) : x = some (x.getD (noEffect (bare .zero .zero .zero))) := by
  cases x with
  | none => simp at h
  | some y => rfl

theorem op_of {x : Option RegOp} (h : x.isSome = true) : x = some (x.getD (op32 (bare .zero .zero .zero) [] fun _ => 0)) := by
  cases x with
  | none => simp at h
  | some y => rfl

/-- A form with W1, one vector destination and one vector source. -/
def oneF : Form := wide (.v 10) (.v 1) .unused .unused

theorem blockForm (i : Instr) (h : (blockEffect (ctxOf slotS) (slotS.slot (ctxOf slotS).g 0) i).isSome = true)
    (e : ((blockEffect (ctxOf slotS) (slotS.slot (ctxOf slotS).g 0) i).getD (noEffect (bare .zero .zero .zero))).form = oneF) :
    blockEffect (ctxOf slotS) (slotS.slot (ctxOf slotS).g
      ((blockEffect (ctxOf slotS) (slotS.slot (ctxOf slotS).g 0) i).getD (noEffect (bare .zero .zero .zero))).form.slot.toNat) i =
    some ((blockEffect (ctxOf slotS) (slotS.slot (ctxOf slotS).g 0) i).getD (noEffect (bare .zero .zero .zero))) := by
  rw [e]; exact eff_of h

theorem witness_CarryElementAndBlockResults_block : ∃ i e s c, blockEffect c (s.slot c.g e.form.slot.toNat) i = some e ∧ Issuing s c e.form.guard ∧ e.ok = true :=
  ⟨.cvtBlk oneF, _, slotS, ctxOf slotS, blockForm _ (by decide +kernel) (by decide +kernel), issuing_of _ _ (by decide +kernel), by decide +kernel⟩

theorem witness_CarryElementAndBlockResults_plane : ∃ i e s c, blockEffect c (s.slot c.g e.form.slot.toNat) i = some e ∧ Issuing s c e.form.guard ∧ e.ok = true :=
  ⟨.pln oneF, _, slotS, ctxOf slotS, blockForm _ (by decide +kernel) (by decide +kernel), issuing_of _ _ (by decide +kernel), by decide +kernel⟩

theorem witness_FloatAndConversionResults_float : ∃ i o s c, floatOp i = some o ∧ Issuing s c o.form.guard ∧ (o.effect c).ok = true :=
  ⟨.fma (bare (.v 1) (.v 3) (.v 2)), _, wS, ctxOf wS, rfl, issuing_of _ _ (by decide +kernel), by decide +kernel⟩

theorem witness_FloatAndConversionResults_conversion : ∃ i o s c, (fcvtOp i = some o ∨ icvtOp i = some o) ∧ Issuing s c o.form.guard ∧ (o.effect c).ok = true :=
  ⟨.icvt { wide (.v 4) (.v 2) .unused .unused with mod := 2 }, _, wS, ctxOf wS, .inr rfl, issuing_of _ _ (by decide +kernel), by decide +kernel⟩

/-- CVT.to of slot 0. -/
def toOp : RegOp := (slotOp (slotS.slot (ctxOf slotS).g 0) (.cvtTo oneF)).getD (op32 (bare .zero .zero .zero) [] fun _ => 0)

theorem witness_FloatAndConversionResults_slot : ∃ i o s c, slotOp (s.slot c.g o.form.slot.toNat) i = some o ∧ Issuing s c o.form.guard ∧ (o.effect c).ok = true := by
  have e : toOp.form = oneF := by decide +kernel
  refine ⟨.cvtTo oneF, toOp, slotS, ctxOf slotS, ?_, issuing_of _ _ (by decide +kernel), by decide +kernel⟩
  rw [e]; exact op_of (by decide +kernel)

theorem witness_LaneResults : ∃ i e s c, laneEffect c i = some e ∧ Issuing s c e.form.guard ∧ e.ok = true :=
  ⟨.shflXor (wide (.v 31) (.v 2) (.v 3) .unused), _, wS, ctxOf wS, rfl, issuing_of _ _ (by decide +kernel), by decide +kernel⟩

theorem witness_CapabilityResults : ∃ i e s c, capEffectOf c i = some e ∧ Issuing s c e.form.guard ∧ e.ok = true :=
  ⟨.cnar (wide (.s 6) (.s 4) (.s 1) (.s 2)), _, capS, ctxOf capS, rfl, issuing_of _ _ (by decide +kernel), by decide +kernel⟩

theorem witness_CapabilityResults_mint : ∃ i e s c, mintEffect c i = some e ∧ Issuing s c e.form.guard ∧ e.ok = true :=
  ⟨.cmint (wide (.s 8) (.s 1) (.s 2) (.s 3)), _, sysS, ctxOf sysS, rfl, issuing_of _ _ (by decide +kernel), by decide +kernel⟩

end Sys2Proof.Tests
end

