-- ==== Sys2Proof/Tests/WitnessSystem.lean ====
section
/-! SUPPORT. Witnesses: concrete states and operands that meet the hypotheses of the statements on Strand, Loupe, launches and the system
instructions. -/

namespace Sys2Proof.Tests

open Sys2Proof Sys2Proof.Machine Sys2Proof.Claims

-- One theorem at a time, so that the package compiles as one text in little memory.
set_option Elab.async false

/-! ### Strand -/

/-- A session descriptor: one stream, the plan LIST, SCORE, TOPK of two elements. -/
def sessBytes : List Byte :=
  leBytes 8 (2 ^ 56 + 3 * 2 ^ 48) ++ leBytes 8 0x4000 ++ leBytes 16 (capOf (2 * 2 ^ 60) 0x1000 129 0 0 true).bits.toNat ++ List.replicate 32 0 ++
    leBytes 16 (capOf (2 * 2 ^ 60) 0x1000 129 0 0 true).bits.toNat ++ List.replicate 112 0 ++
    leBytes 8 (2 ^ 60 + 1) ++ leBytes 8 (4 * 2 ^ 60) ++ leBytes 8 (7 * 2 ^ 60 + 2)
/-- A thread; s10 names the descriptor, c6 16 bytes of the scratchpad to write. -/
def sessG : Group :=
  { groupOf [laneOf wordsA] [0, 0, 0, 0, 0, 0, 0, 0, 0, 0, 2 * 2 ^ 60 + 0x1000, 0, 2 * 2 ^ 60 + 0x800, 16 + 2 * 2 ^ 40] with ctag := 64 }
/-- A state with the session of the core in a given condition. -/
def sessS (x : Session) : State := (at_ sessG []).modCore 0 fun k =>
  { k with spad := cwrite k.spad 0x1000 sessBytes, stags := [0x101, 0x104], sess := [x, Session.reset] }
/-- The condition after a run of two elements. -/
def doneX : Session := { Session.reset with st := .done, k := 2, topk := [(5, 9), (3, 2)] }
/-- SOPEN, SRUN or SSTAT into s4. -/
def sessF : Form := wide (.s 4) (.s 10) .zero .unused
/-- STOPK s4, c6. -/
def topF : Form := wide (.s 4) (.s 12) .zero .unused

theorem witness_StrandInstructions_open : ∃ (s : State) (c : Ctx) (f : Form) (d : Fin 48), Issuing s c f.guard ∧ f.d = .s d ∧ flagFree c f = true ∧
    c.r.core < 256 ∧ (s.core c.r.core).sess.length = 2 ∧ isS f.a = true ∧ uniform f f.b = true ∧ wholeAddr c f / 2 ^ 22 = 2 ^ 39 ∧
    wholeAddr c f % 64 = 0 ∧ (sessDesc s c f).check = none :=
  ⟨sessS Session.reset, ctxOf (sessS Session.reset), sessF, 4, issuing_of _ _ (by decide +kernel), rfl, by decide +kernel⟩

theorem witness_StrandInstructions_run : ∃ (s : State) (c : Ctx) (f : Form) (d : Fin 48), Issuing s c f.guard ∧ f.d = .s d ∧ flagFree c f = true ∧
    c.r.core < 256 ∧ (s.core c.r.core).sess.length = 2 ∧ ((s.core c.r.core).session (sessNum f)).st = .done :=
  ⟨sessS doneX, ctxOf (sessS doneX), sessF, 4, issuing_of _ _ (by decide +kernel), rfl, by decide +kernel⟩

theorem witness_StrandInstructions_top : ∃ (s : State) (c : Ctx) (f : Form) (d : Fin 48), Issuing s c f.guard ∧ f.d = .s d ∧ flagFree c f = true ∧
    c.r.core < 256 ∧ (s.core c.r.core).sess.length = 2 ∧ capName f.a = true ∧ uniform f f.b = true ∧
    (let x := (s.core c.r.core).session (sessNum f)
     let cp := c.g.cap c.tk (f.a.num / 2)
     let a := (cp.base + c.g.read c.tk f.lit 64 0 f.b) % 2 ^ 64
     cp.check 2 1 (8 * x.k) (c.g.read c.tk f.lit 64 0 f.b) = 0 ∧ (a / 2 ^ 60 = 0 ∨ a / 2 ^ 60 = 2 ∨ a / 2 ^ 60 = 4) ∧
     (x.k = 0 ∨ s.rangeOn (s.origin c.r c.g) a (a + 8 * x.k - 1) = true) ∧ x.st = .done) :=
  ⟨sessS doneX, ctxOf (sessS doneX), topF, 4, issuing_of _ _ (by decide +kernel), rfl, by decide +kernel⟩

/-- A running session whose lists are used up. -/
def overX : Session := { Session.reset with st := .run, ref := ⟨0, 0, 0⟩, ten := 1 }

theorem witness_StrandInstructions_over : ∃ (s : State) (c : Ctx) (f : Form) (d : Fin 48), Issuing s c f.guard ∧ f.d = .s d ∧ (∀ k, (s.core k).pub = []) ∧
    flagFree c f = true ∧ c.r.core < 256 ∧ (s.core c.r.core).sess.length = 2 ∧
    (let x := (s.core c.r.core).session (sessNum f)
     x.st = .run ∧ (s.core c.r.core).halted = false ∧ s.stopped x.ten = false ∧ x.openLists = [] ∧ x.held = 0 ∧
     s.strandNext (quadOf c.r.core) = some (sessNumber c.r.core (sessNum f))) :=
  ⟨sessS overX, ctxOf (sessS overX), sessF, 4, issuing_of _ _ (by decide +kernel), rfl, core_all (P := fun k => k.pub = []) _ (by decide +kernel) rfl,
    by decide +kernel⟩

/-! ### Loupe -/

/-- A lane of a Loupe grid: v0 the interval 3 to 9, v1 the point 5. -/
def tileLane (point : Bool) : Thread :=
  { laneOf [3, 9, 5, 5] with lv := true, point := point, rect := ⟨0, 3, 0, 0⟩, hid := [(0, ⟨0, false, false⟩), (2, ⟨0, false, false⟩)] }
/-- A Loupe group; c2 may be filled. -/
def tileGroup (point : Bool) : Group :=
  { groupOf [tileLane point, tileLane point] [0, 0, 0, 0, 2 * 2 ^ 60 + 0x800, 64 + 2 * 2 ^ 40 + 2 * 2 ^ 48] with lpass := true, ctag := 4, role := 0 }
/-- Its grid: 128 elements in tiles of 4. -/
def tileGrid : Grid :=
  { gridOf_ [] with lrec := [BitVec.ofNat 64 (2 ^ 38), BitVec.ofNat 64 bootPc, 0, 0, 0, 0, BitVec.ofNat 64 (2 * 2 ^ 20 + 128 * 2 ^ 32)] ++ List.replicate 25 0,
                    loupe := ⟨[⟨0, ⟨0, 3, 0, 0⟩, 0, false, true, 0, 2⟩], 1, 1, 0, 0, 0⟩ }
/-- The state. -/
def tilesS (point : Bool) : State := withGrid (at_ (tileGroup point) []) tileGrid

theorem witness_LoupeInstructions_ordinary : ∃ i o s c, endOf i = some o ∧ Issuing s c o.form.guard ∧ (o.effect c).ok = true :=
  ⟨.ivlo (wide (.v 9) (.v 2) .unused .unused), _, wS, ctxOf wS, rfl, issuing_of _ _ (by decide +kernel), by decide +kernel⟩

theorem witness_LoupeInstructions_ends : ∃ (i : Instr) (hi : Bool) (s : State) (c : Ctx) (f : Form) (n a : Fin 32), (i = .ivlo f ∧ hi = false ∨ i = .ivhi f ∧ hi = true) ∧
    s.ctx = some c ∧ c.g.lpass = true ∧ (∀ l ∈ c.set, c.guard f.guard l = .t) ∧ f.d = .v n ∧ f.a = .v a ∧ c.g.pend = [] :=
  ⟨.ivhi (wide (.v 31) (.v 0) .unused .unused), true, tilesS false, ctxOf (tilesS false), wide (.v 31) (.v 0) .unused .unused, 31, 0, .inr ⟨rfl, rfl⟩,
    ctx_of _ (by decide +kernel), by decide +kernel, by decide +kernel, rfl, rfl, by decide +kernel⟩

theorem witness_LoupeInstructions_point : ∃ (s : State) (c : Ctx) (f : Form) (n : Nat) (a : Fin 32), s.ctx = some c ∧ c.g.lpass = true ∧
    (∀ l ∈ c.set, c.guard f.guard l = .t) ∧ predName f.d = some n ∧ f.a = .v a ∧ c.g.pend = [] :=
  ⟨tilesS false, ctxOf (tilesS false), wide (.v 7) (.v 1) .unused .unused, 7, 1, ctx_of _ (by decide +kernel), by decide +kernel, by decide +kernel,
    by decide +kernel, rfl, by decide +kernel⟩

/-- LFILL c2, v1. -/
def fillF : Form := wide .unused (.s 4) (.v 1) .unused

theorem witness_LoupeInstructions_fill : ∃ (s : State) (c : Ctx) (f : Form), s.ctx = some c ∧ c.g.lpass = true ∧ (∀ l ∈ c.set, c.guard f.guard l = .t) ∧
    capName f.a = true ∧ threadSource c.g f.lit 32 f.b = true ∧
    (∀ l ∈ c.set, s.fillCheck (s.origin c.r c.g) (c.g.thread l) (capIn c f.a) (f.a.num / 2) (c.g.readIv c.tk f.lit 32 l f.b) = .hold) :=
  ⟨tilesS false, ctxOf (tilesS false), fillF, ctx_of _ (by decide +kernel), by decide +kernel⟩

theorem witness_LoupeInstructions_illegal : ∃ (s : State) (c : Ctx) (f : Form), Issuing s c f.guard ∧ capName f.a = true ∧ threadSource c.g f.lit 32 f.b = true :=
  ⟨wS, ctxOf wS, fillF, issuing_of _ _ (by decide +kernel), by decide +kernel, by decide +kernel⟩

theorem witness_LoupeInstructions_splitPoint : ∃ (s : State) (c : Ctx) (f : Form), s.ctx = some c ∧ c.g.lpass = true ∧ c.on f.guard ≠ [] ∧
    (∀ l ∈ c.set, (c.g.thread l).point = true) :=
  ⟨tilesS true, ctxOf (tilesS true), noF, ctx_of _ (by decide +kernel), by decide +kernel⟩

/-- LSPLIT in the lanes where p1 holds. -/
def splitF : Form := { noF with guard := ⟨false, 1⟩ }
/-- p1 holds in lane 0. -/
def splitG : Group := { tileGroup false with threads := lput gone (tileGroup false).threads 0 { tileLane false with preds := [.t, .f, .f, .f, .f, .f, .f] } }
/-- The state. -/
def splitS : State := withGrid (at_ splitG []) tileGrid

theorem witness_LoupeInstructions_split : ∃ (s : State) (c : Ctx) (f : Form) (l : Nat) (x : Grid), s.ctx = some c ∧ c.g.lpass = true ∧ c.notOff f.guard = [l] ∧
    (∃ m ∈ c.g.liveLanes, m ≠ l) ∧ (c.g.thread l).lv = true ∧ (c.g.thread l).point = false ∧ s.gridOf c.g = some x ∧ x.handle = c.g.handle :=
  ⟨splitS, ctxOf splitS, splitF, 0, tileGrid, ctx_of _ (by decide +kernel), by decide +kernel⟩

/-- A group with a summary of one block in c2 and its source in c3. -/
def sumG : Group :=
  { groupOf [laneOf wordsA] [0, 0, 0, 0, 2 * 2 ^ 60 + 0x800, 24 + 2 * 2 ^ 40, 2 * 2 ^ 60 + 0x1000, 1024 + 2 ^ 40 + 2 * 2 ^ 48] with ctag := 12 }
/-- The state. -/
def sumS : State := at_ sumG []
/-- LSUM.u c2, c3. -/
def sumF : Form := { wide .unused (.s 4) (.s 6) .unused with mod := 1 }

theorem witness_LoupeInstructions_sum : ∃ (s : State) (c : Ctx) (f : Form), Issuing s c f.guard ∧ flagFree c f = true ∧ capName f.a = true ∧ capName f.b = true ∧
    s.sumCheck (s.origin c.r c.g) (capIn c f.a) (capIn c f.b) (f.a.num / 2) (f.b.num / 2) = none :=
  ⟨sumS, ctxOf sumS, sumF, issuing_of _ _ (by decide +kernel), by decide +kernel⟩

/-- A Loupe group that has drained. -/
def drained : Group := { tileGroup false with threads := List.replicate 64 gone, st := .draining }
/-- The state with a grid. -/
def drainedS (x : Grid) : State := withGrid (at_ drained []) x
/-- The grid when every tile has been taken. -/
def overGrid : Grid := { tileGrid with loupe := ⟨[], 32, 32, 32, 0, 0⟩ }
/-- A grid of 65,535 elements. -/
def wideGrid : Grid := { tileGrid with lrec := lput 0 tileGrid.lrec 6 (BitVec.ofNat 64 (2 * 2 ^ 20 + 65535 * 2 ^ 32)) }
/-- Its queue with entries that have no work. -/
def busyQueue (n : Nat) : Grid :=
  { wideGrid with loupe := ⟨(List.range n).map fun i => ⟨i, ⟨0, 0, 0, 0⟩, 0, false, true, 0, 1⟩, n, n, 0, 0, 0⟩ }

theorem witness_LoupeEngineActs_over : ∃ (s : State) (r : GRef) (g : Group) (x : Grid), s.group? r = some g ∧ g.lpass = true ∧ s.thawed g = true ∧ g.filling = [] ∧
    (g.st = .draining ∨ g.st = .batchWait) ∧ g.flags.all (· == 0) = true ∧ s.gridOf g = some x ∧ x.takeBatch = .finished :=
  ⟨drainedS overGrid, ⟨0, 0, 0⟩, { drained with }, overGrid, by decide +kernel, by decide +kernel, by decide +kernel, by decide +kernel, by decide +kernel,
    by decide +kernel, by decide +kernel, rfl⟩

theorem run_of {b : Batch} (h : (match b with | .run _ _ => true | _ => false) = true) : ∃ y is, b = .run y is := by
  cases b with
  | run y is => exact ⟨y, is, rfl⟩
  | wait => simp at h
  | finished => simp at h

theorem tiles_same (x : Grid) (l : LoupeGrid) : ({ x with loupe := l } : Grid).tileCount = x.tileCount := rfl

theorem full_waits (n : Nat) (h : 4096 ≤ n) (c : n < wideGrid.tileCount) : (busyQueue n).takeBatch = .wait := by
  have e : (busyQueue n).loupe.tiles.find? Tile.hasWork = none := by
    rw [List.find?_eq_none]
    intro t ht
    obtain ⟨i, -, rfl⟩ := List.mem_map.1 ht
    simp [Tile.hasWork]
  have f : (busyQueue n).loupe.free = 0 := by
    have l : (busyQueue n).loupe.tiles.length = n := by simp [busyQueue]
    unfold LoupeGrid.free
    rw [l]
    unfold Config.tileEntries
    omega
  have d : (busyQueue n).loupe.cursor < (busyQueue n).tileCount := by
    rw [show (busyQueue n).tileCount = wideGrid.tileCount from tiles_same ..]
    exact c
  unfold Grid.takeBatch
  simp only [e, d, if_true, f]

theorem witness_LoupeEngineActs_run : ∃ (s : State) (r : GRef) (g : Group) (x : Grid), s.group? r = some g ∧ g.lpass = true ∧ s.thawed g = true ∧ g.filling = [] ∧
    (g.st = .draining ∨ g.st = .batchWait) ∧ g.flags.all (· == 0) = true ∧ s.gridOf g = some x ∧ ∃ y is, x.takeBatch = .run y is :=
  ⟨drainedS tileGrid, ⟨0, 0, 0⟩, { drained with }, tileGrid, by decide +kernel, by decide +kernel, by decide +kernel, by decide +kernel, by decide +kernel,
    by decide +kernel, by decide +kernel, run_of (by decide +kernel)⟩

theorem witness_LoupeEngineActs_wait : ∃ (s : State) (r : GRef) (g : Group) (x : Grid), s.group? r = some g ∧ g.lpass = true ∧ s.thawed g = true ∧ g.filling = [] ∧
    (g.st = .draining ∨ g.st = .batchWait) ∧ g.flags.all (· == 0) = true ∧ s.gridOf g = some x ∧ x.takeBatch = .wait :=
  ⟨drainedS (busyQueue 4096), ⟨0, 0, 0⟩, { drained with }, busyQueue 4096, by decide +kernel, by decide +kernel, by decide +kernel, by decide +kernel, by decide +kernel,
    by decide +kernel, rfl, full_waits _ (Nat.le_refl _) (by decide +kernel)⟩

/-- The summary's destination and source. -/
def sumDst : Cap := capOf (2 * 2 ^ 60 + 0x800) 24 2 0 0 true
/-- The source. -/
def sumSrc : Cap := capOf (2 * 2 ^ 60 + 0x1000) 1024 1 2 0 true
/-- The operation of LSUM. -/
def sumP : Pend := opOf (ctxOf sumS) sumF (.lsum none sumDst sumSrc 1 0) [] []
/-- The state in which it is outstanding. -/
def summing : State := sumS.setGroup ⟨0, 0, 0⟩ (counted sumP sumG)

theorem witness_LoupeEngineActs_sum : ∃ (s s1 : State) (r : GRef) (id b : Nat) (g : Group) (p : Pend) (dst src : Cap) (k : BitVec 2), s.group? r = some g ∧
    g.pend.find? (fun x => x.id == id) = some p ∧ p.kind = .lsum none dst src k b ∧ s.thawed g = true ∧
    (s.core r.core).halted = false ∧ s.sumBlock (s.engineOrigin r g.ten g.team) (r, id) dst src k.toNat b = (s1, none) :=
  ⟨summing, _, ⟨0, 0, 0⟩, 0, 0, counted sumP sumG, sumP, sumDst, sumSrc, 1, by decide +kernel, by decide +kernel, rfl, by decide +kernel,
    by decide +kernel, pair_of (by decide +kernel)⟩

theorem witness_IntegerBoundsHold : ∃ (f : Form) (a b k : Iv) (x y z : Nat), let w := f.width
    fitsIn w a ∧ fitsIn w b ∧ fitsIn w k ∧ holds f.uns w a x ∧ holds f.uns w b y ∧ holds f.uns w k z :=
  ⟨bare (.v 1) (.v 2) (.v 3), ⟨3, 9, 0, false, false⟩, ⟨0xfffffffb, 2, 0, false, false⟩, ⟨7, 7, 0, false, false⟩, 9, 0xfffffffb, 7,
    by unfold fitsIn; decide +kernel, by unfold fitsIn; decide +kernel, by unfold fitsIn; decide +kernel, by unfold holds; decide +kernel,
    by unfold holds; decide +kernel, by unfold holds; decide +kernel⟩

/-- MAD.sat: the widest product of the two operands is the largest word, so that none leaves the type, and the sum does. -/
theorem witness_IntegerBoundsHold_saturated : ∃ (f : Form) (a b k : Iv) (x y z : Nat), let w := f.width
    fitsIn w a ∧ fitsIn w b ∧ fitsIn w k ∧ holds f.uns w a x ∧ holds f.uns w b y ∧ holds f.uns w k z ∧ f.sat = true ∧
    ∀ m n, holds f.uns w a m → holds f.uns w b n →
      valIn f.uns w (valLim f.uns true w (valIn f.uns w m * valIn f.uns w n)) = valIn f.uns w m * valIn f.uns w n := by
  refine ⟨{ bare (.v 1) (.v 2) (.v 3) with mod := 12 }, ⟨0xffffffff, 0xffffffff, 0, false, false⟩, ⟨1, 1, 0, false, false⟩, ⟨7, 7, 0, false, false⟩,
    0xffffffff, 1, 7, by unfold fitsIn; decide +kernel, by unfold fitsIn; decide +kernel, by unfold fitsIn; decide +kernel, by unfold holds; decide +kernel,
    by unfold holds; decide +kernel, by unfold holds; decide +kernel, by decide +kernel, ?_⟩
  intro m n hm hn
  have a : valIn true 32 m = 4294967295 := Int.le_antisymm hm.2 hm.1
  have b : valIn true 32 n = 1 := Int.le_antisymm hn.2 hn.1
  show valIn true 32 (valLim true true 32 (valIn true 32 m * valIn true 32 n)) = valIn true 32 m * valIn true 32 n
  rw [a, b]
  decide +kernel

/-! ### Launches -/

/-- A group that may launch the record in c2, and whose s1 is the handle 1. -/
def launchG : Group := { groupOf [laneOf wordsA] [0, 1, 2, 0, 0x10200, 0x100 + 2 ^ 40] with ctag := 4 }
/-- The state, with the group's own grid. -/
def launchS : State := withGrid (at_ launchG []) (gridOf_ [])
/-- LAUNCH s9, c2. -/
def launchF : Form := wide (.s 9) (.s 4) .unused .unused
/-- LQRY or LCAN s9, s1. -/
def queryF : Form := wide (.s 9) (.s 1) .unused .unused
/-- The same of s2, which is no handle. -/
def queryNoneF : Form := wide (.s 9) (.s 2) .unused .unused

theorem witness_LaunchInstructions_launch : ∃ (s : State) (c : Ctx) (f : Form) (d : Fin 48), Issuing s c f.guard ∧ f.d = .s d ∧ flagFree c f = true ∧
    capName f.a = true ∧ (capIn c f.a).check 1 1 256 0 = 0 ∧ (s.core c.r.core).pub = [] :=
  ⟨launchS, ctxOf launchS, launchF, 9, issuing_of _ _ (by decide +kernel), rfl, by decide +kernel⟩

theorem witness_LaunchInstructions_running : ∃ (s : State) (c : Ctx) (f : Form) (d : Fin 48) (p : Part) (x : Grid), Issuing s c f.guard ∧ f.d = .s d ∧
    flagFree c f = true ∧ uniform f f.a = true ∧ s.part? c.g.part = some p ∧ p.grid? (c.g.read c.tk f.lit 64 0 f.a % 2 ^ 32) = some x ∧
    x.st = .running :=
  ⟨launchS, ctxOf launchS, queryF, 9, { bootPart with grids := [gridOf_ []] }, gridOf_ [], issuing_of _ _ (by decide +kernel), rfl, by decide +kernel⟩

theorem witness_LaunchInstructions_gone : ∃ (s : State) (c : Ctx) (f : Form) (d : Fin 48) (p : Part), Issuing s c f.guard ∧ f.d = .s d ∧
    flagFree c f = true ∧ uniform f f.a = true ∧ s.part? c.g.part = some p ∧ p.grid? (c.g.read c.tk f.lit 64 0 f.a % 2 ^ 32) = none :=
  ⟨launchS, ctxOf launchS, queryNoneF, 9, { bootPart with grids := [gridOf_ []] }, issuing_of _ _ (by decide +kernel), rfl, by decide +kernel⟩

/-- LQRY or LCAN s9, zero: no grid has the handle 0. -/
theorem witness_LaunchInstructions_zero : ∃ (s : State) (c : Ctx) (f : Form) (d : Fin 48) (p : Part), Issuing s c f.guard ∧ f.d = .s d ∧
    flagFree c f = true ∧ uniform f f.a = true ∧ f.a = .zero ∧ s.part? c.g.part = some p ∧ p.grid? (c.g.read c.tk f.lit 64 0 f.a % 2 ^ 32) = none :=
  ⟨launchS, ctxOf launchS, wide (.s 9) .zero .unused .unused, 9, { bootPart with grids := [gridOf_ []] }, issuing_of _ _ (by decide +kernel), rfl,
    by decide +kernel, by decide +kernel, rfl, by decide +kernel, by decide +kernel⟩

/-! ### System registers and privilege -/

/-- SYSRD s9, or SYSWR from s1, of a register number. -/
def regF (n : Nat) : Form := { wide (.s 9) (.s 1) .unused .unused with imm := BitVec.ofNat 24 n }
/-- A system group whose s1 has a value, in service of the group in slot 5 of its quarter. -/
def sysOf (v : Nat) : State :=
  ((sysState { sysGroup with scal := [0, BitVec.ofNat 64 v] ++ List.replicate 46 0 } []).setGroup ⟨0, 0, 5⟩ two).modQuarter 0 0 fun q =>
    { q with serving := some 5, serv := whoOf 1 ⟨0, 0, 5⟩ }
/-- A group whose s1 has a value. -/
def tenOf (v : Nat) : State := at_ { two with scal := [0, BitVec.ofNat 64 v] ++ List.replicate 46 0 } []

theorem witness_SystemRegisters_read : ∃ (s : State) (c : Ctx) (f : Form) (d : Fin 48) (v : Nat), Issuing s c f.guard ∧ f.d = .s d ∧
    sysValue s c (f.imm.toNat % 4096) = some v ∧ freeScal c d.val = true :=
  ⟨sysOf 0, ctxOf (sysOf 0), regF 0x105, 9, 8000, issuing_of _ _ (by decide +kernel), rfl, by decide +kernel, by decide +kernel⟩

/-- Every register number of which the statement speaks has its value in a group of the tenant, or in its system group. -/
theorem witness_SystemRegisters_numbers :
    (∀ n ∈ [0x10, 0x12, 0x13, 0x14, 0x15, 0x16, 0x18, 0x20, 0x23, 0x2f], (sysValue launchS (ctxOf launchS) n).isSome = true) ∧
    (∀ n ∈ [0x100, 0x105, 0x106, 0x107, 0x109, 0x10a], (sysValue (sysOf 0) (ctxOf (sysOf 0)) n).isSome = true) := by decide +kernel

theorem witness_SystemRegisters_frzto : ∃ (s : State) (c : Ctx) (f : Form), Issuing s c f.guard ∧ uniform f f.a = true ∧ f.imm.toNat % 4096 = 0x105 ∧ c.sys = true ∧
    c.g.read c.tk f.lit 64 0 f.a < 2 ^ 14 :=
  ⟨sysOf 16383, ctxOf (sysOf 16383), regF 0x105, issuing_of _ _ (by decide +kernel), by decide +kernel⟩

theorem witness_SystemRegisters_sfault : ∃ (s : State) (c : Ctx) (f : Form), Issuing s c f.guard ∧ uniform f f.a = true ∧ f.imm.toNat % 4096 = 0x106 ∧ c.sys = true ∧
    c.g.read c.tk f.lit 64 0 f.a / 2 ^ 57 % 8 = 0 :=
  ⟨sysOf (2 ^ 57 - 1), ctxOf (sysOf (2 ^ 57 - 1)), regF 0x106, issuing_of _ _ (by decide +kernel), by decide +kernel⟩

theorem witness_SystemRegisters_saving : ∃ (s : State) (c : Ctx) (f : Form), Issuing s c f.guard ∧ uniform f f.a = true ∧ f.imm.toNat % 4096 = 0x107 ∧ c.sys = true ∧
    c.g.read c.tk f.lit 64 0 f.a < 2 :=
  ⟨sysOf 1, ctxOf (sysOf 1), regF 0x107, issuing_of _ _ (by decide +kernel), by decide +kernel⟩

theorem witness_SystemRegisters_gstat : ∃ (s : State) (c : Ctx) (f : Form) (g : Group), Issuing s c f.guard ∧ uniform f f.a = true ∧ f.imm.toNat % 4096 = 0x14 ∧
    c.sys = true ∧ c.g.read c.tk f.lit 64 0 f.a < 4 ∧ (ownerOf s c).2 = some g ∧ (ownerOf s c).1 ≠ c.r :=
  ⟨sysOf 3, ctxOf (sysOf 3), regF 0x14, two, issuing_of _ _ (by decide +kernel), by decide +kernel⟩

theorem witness_SystemRegisters_spzcfg : ∃ (s : State) (c : Ctx) (f : Form) (tm : Team), Issuing s c f.guard ∧ uniform f f.a = true ∧ f.imm.toNat % 4096 = 0x18 ∧
    c.sys = false ∧ c.g.read c.tk f.lit 64 0 f.a &&& (1 + 0x3fff * 2 ^ 8 + 0x3ff * 2 ^ 44) = c.g.read c.tk f.lit 64 0 f.a ∧ s.team c.r c.g = some tm :=
  ⟨tenOf (1 + 0x3fff * 2 ^ 8 + 0x3ff * 2 ^ 44), ctxOf (tenOf (1 + 0x3fff * 2 ^ 8 + 0x3ff * 2 ^ 44)), regF 0x18, bootTeam, issuing_of _ _ (by decide +kernel),
    by decide +kernel⟩

theorem witness_PrivilegeTraps_instruction : ∃ (i : Instr) (f : Form) (s : State) (c : Ctx), s.ctx = some c ∧ c.sys = false ∧ privilegedForm i = some f ∧
    (∀ g, i = .eret g → c.atEnd = true) :=
  ⟨.freeze launchF, launchF, wS, ctxOf wS, ctx_of _ (by decide +kernel), by decide +kernel, rfl, by simp⟩

theorem witness_PrivilegeTraps_register : ∃ (i : Instr) (f : Form) (s : State) (c : Ctx), s.ctx = some c ∧ c.sys = false ∧ (i = .sysrd f ∨ i = .syswr f) ∧
    0x100 ≤ f.imm.toNat % 4096 ∧ f.imm.toNat % 4096 ≤ 0x1ff :=
  ⟨.syswr (regF 0x1ff), regF 0x1ff, wS, ctxOf wS, ctx_of _ (by decide +kernel), by decide +kernel, .inr rfl, by decide +kernel, by decide +kernel⟩

/-- The record of a trap of the group in slot 5. -/
def trapRec : Record := ⟨0x0e, 0, 1, 0, BitVec.ofNat 64 bootPc, BitVec.ofNat 64 (bootPc + 12), 1, 0, 0, whoOf 1 ⟨0, 0, 5⟩, 0⟩
/-- The system group serves it; its RPC in the ring is the record's PC. -/
def eretS : State :=
  let s := (sysState sysGroup []).setGroup ⟨0, 0, 5⟩ { two with st := .trapped }
  ({ s with mem := cwrite s.mem (bootFrame + 0x210) (leBytes 8 bootPc) } : State).modQuarter 0 0 fun q =>
    { q with serving := some 5, serv := whoOf 1 ⟨0, 0, 5⟩, ring := [trapRec], busy := true, fqb := 0x10200, frec := BitVec.ofNat 64 (15 * 2 ^ 60 + 0x10200) }

theorem witness_TrapsReturn : ∃ (s s1 : State) (c : Ctx) (f : Form) (x : Record) (g : Group) (slot : Nat) (rest : List Record) (rpc : Nat) (tag : Bool),
    Issuing s c f.guard ∧
    s.readVa (s.origin c.r c.g) .load ((s.quarter c.r.core c.r.qtr).frec.toNat % 2 ^ 57 + 16) 8 = (s1, .bytes (leBytes 8 rpc) tag) ∧
    (rpc = x.pc.toNat ∨ ∃ s2, s1.checkTarget (s1.origin (whoRef x.who) g) (BitVec.ofNat 64 rpc) = (s2, .ok) ∧ s2.groups = s1.groups ∧
      s2.quarter c.r.core c.r.qtr = s1.quarter c.r.core c.r.qtr) ∧
    c.sys = true ∧ c.atEnd = true ∧ c.r.qtr < 4 ∧ (s.core c.r.core).quarters.length = 4 ∧ c.g.flags.all (· == 0) = true ∧
    (s.core c.r.core).pub = [] ∧ s.requestsOut c.r = false ∧ (s.quarter c.r.core c.r.qtr).ring = x :: rest ∧ (s.quarter c.r.core c.r.qtr).serving = some slot ∧
    (s.quarter c.r.core c.r.qtr).serv = x.who ∧ x.who.getLsbD 0 = false ∧ whoRef x.who ≠ c.r ∧
    (whoRef x.who).core = c.r.core ∧ (whoRef x.who).qtr = c.r.qtr ∧ (whoRef x.who).slot < 63 ∧
    s.group? (whoRef x.who) = some g ∧ 1 ≤ x.cause ∧ x.cause ≤ 0x0e ∧ rpc < 2 ^ 64 ∧
    s1.groups = s.groups ∧ s1.quarter c.r.core c.r.qtr = s.quarter c.r.core c.r.qtr :=
  ⟨eretS, _, ctxOf eretS, noF, trapRec, { two with st := .trapped }, 5, [], bootPc, false, issuing_of _ _ (by decide +kernel),
    pair_of (by decide +kernel), .inl (by decide +kernel), by decide +kernel⟩

theorem witness_MaintenanceInstructions_tlbi : ∃ (s : State) (c : Ctx) (f : Form), Issuing s c f.guard ∧ c.sys = true ∧ flagFree c f = true ∧
    (isS f.a = true ∨ f.a = .zero) ∧ c.g.read c.tk f.lit 64 0 f.a = 0 ∧ (∀ x ∈ s.cores, x.2.pub = []) :=
  ⟨sysOf 0, ctxOf (sysOf 0), wide .unused (.s 1) .unused .unused, issuing_of _ _ (by decide +kernel), by decide +kernel⟩

theorem witness_MaintenanceInstructions_log : ∃ (s : State) (c : Ctx) (f : Form) (d : Fin 48), Issuing s c f.guard ∧ c.sys = true ∧ f.d = .s d ∧
    freeScal c d.val = true ∧ c.r.core < 256 ∧ uniform f f.a = true ∧ f.a ≠ .zero :=
  ⟨sysOf 2047, ctxOf (sysOf 2047), regF 0, 9, issuing_of _ _ (by decide +kernel), by decide +kernel, rfl, by decide +kernel⟩

/-! ### FREEZE, THAW, WINSP, WINFL and HALT -/

/-- A system group whose s1 is 1, the tenant, with the tenant as given. -/
def freezeS (frozen freezing : Bool) : State := (sysOf 1).modTenant 1 fun t => { t with frozen := frozen, freezing := freezing }

theorem witness_FreezeAndWindowInstructions_freeze : ∃ (s : State) (c : Ctx) (f : Form) (d : Fin 48) (tn : Tenant), Issuing s c f.guard ∧ c.sys = true ∧ f.d = .s d ∧
    flagFree c f = true ∧ uniform f f.a = true ∧ f.a ≠ .zero ∧ s.tenant? (c.g.read c.tk f.lit 64 0 f.a % 65536) = some tn ∧ tn.frozen = false ∧
    tn.freezing = false :=
  ⟨freezeS false false, ctxOf (freezeS false false), regF 0, 9, { bootTenant with }, issuing_of _ _ (by decide +kernel), by decide +kernel, rfl, by decide +kernel⟩

theorem witness_FreezeAndWindowInstructions_joins : ∃ (s : State) (c : Ctx) (f : Form) (d : Fin 48) (tn : Tenant), Issuing s c f.guard ∧ c.sys = true ∧ f.d = .s d ∧
    flagFree c f = true ∧ uniform f f.a = true ∧ f.a ≠ .zero ∧ s.tenant? (c.g.read c.tk f.lit 64 0 f.a % 65536) = some tn ∧ tn.frozen = false ∧
    tn.freezing = true :=
  ⟨freezeS false true, ctxOf (freezeS false true), regF 0, 9, { bootTenant with freezing := true }, issuing_of _ _ (by decide +kernel), by decide +kernel, rfl,
    by decide +kernel⟩

/-- A tenant that no table knows. -/
theorem witness_FreezeAndWindowInstructions_unknown : ∃ (s : State) (c : Ctx) (f : Form) (d : Fin 48) (tn : Tenant), Issuing s c f.guard ∧ c.sys = true ∧
    f.d = .s d ∧ flagFree c f = true ∧ uniform f f.a = true ∧ f.a ≠ .zero ∧ s.tenant? (c.g.read c.tk f.lit 64 0 f.a % 65536) = none ∧
    tn = unknownTenant c.g.part ∧ tn.frozen = false ∧ tn.freezing = false :=
  ⟨sysOf 7, ctxOf (sysOf 7), regF 0, 9, _, issuing_of _ _ (by decide +kernel), by decide +kernel, rfl, by decide +kernel, by decide +kernel, by decide +kernel,
    by decide +kernel, rfl, rfl, rfl⟩

theorem witness_FreezeAndWindowInstructions_thawed : ∃ (s : State) (c : Ctx) (f : Form) (d : Fin 48) (tn : Tenant), Issuing s c f.guard ∧ c.sys = true ∧ f.d = .s d ∧
    flagFree c f = true ∧ uniform f f.a = true ∧ f.a ≠ .zero ∧ s.tenant? (c.g.read c.tk f.lit 64 0 f.a % 65536) = some tn ∧
    c.g.ten ≠ c.g.read c.tk f.lit 64 0 f.a % 65536 ∧ tn.frozen = false :=
  ⟨freezeS false false, ctxOf (freezeS false false), regF 0, 9, bootTenant, issuing_of _ _ (by decide +kernel), by decide +kernel, rfl, by decide +kernel,
    by decide +kernel, by decide +kernel, by decide +kernel, by decide +kernel, rfl⟩

/-- The frozen tenant's one frozen group was Ready. -/
def stillS : State := (freezeS true false).setGroup ⟨0, 0, 5⟩ ({ two with frozen := true } : Group)

theorem witness_FreezeAndWindowInstructions_frozen : ∃ (s s1 s2 : State) (n : Nat) (c : Ctx) (f : Form) (d : Fin 48) (tn : Tenant) (r : GRef) (g : Group),
    Issuing s c f.guard ∧ c.sys = true ∧ f.d = .s d ∧ flagFree c f = true ∧ uniform f f.a = true ∧ f.a ≠ .zero ∧
    s.tenant? (c.g.read c.tk f.lit 64 0 f.a % 65536) = some tn ∧ c.g.ten ≠ c.g.read c.tk f.lit 64 0 f.a % 65536 ∧ tn.frozen = true ∧
    s.thawIp (c.g.read c.tk f.lit 64 0 f.a % 65536) = (s1, 0) ∧ s1.group? c.r = some c.g ∧
    (s.tenantGroups.filter fun x => x.2.ten == c.g.read c.tk f.lit 64 0 f.a % 65536 && x.2.frozen) = [(r, g)] ∧ (∀ x ∈ s.cores, x.2.saved = []) ∧
    r.qtr < 4 ∧ s.group? r = some g ∧ g.st = .ready ∧ g.pend = [] ∧
    s.haltTen (c.g.read c.tk f.lit 64 0 f.a % 65536) = (s2, n) ∧ s2.group? c.r = some c.g :=
  ⟨stillS, _, _, _, ctxOf stillS, regF 0, 9, { bootTenant with frozen := true }, ⟨0, 0, 5⟩, ({ two with frozen := true } : Group), issuing_of _ _ (by decide +kernel),
    by decide +kernel, rfl, by decide +kernel, by decide +kernel, by decide +kernel, by decide +kernel, by decide +kernel, by decide +kernel,
    pair_of (by decide +kernel), by decide +kernel, by decide +kernel, by decide +kernel, by decide +kernel, by decide +kernel, rfl, rfl, rfl, by decide +kernel⟩

/-- A Locket image of one section, of a grid of the tenant, in the scratchpad of the core whose system group issues; the section lies 0x1000
bytes from the image's beginning. s1 names core 1, s2 core 2; cores 0 and 1 are the partition's. -/
def imageS (sec : List (Nat × List Byte)) : State :=
  let sc := [0, 1, 2, 0, 2 * 2 ^ 60 + 0x8000, 0x4000 + 2 ^ 40].map (BitVec.ofNat 64) ++ List.replicate 42 0
  let g : Group := { sysGroup with scal := sc, ctag := 4 }
  let head := [(0, leBytes 8 (2 ^ 56 + 4 * 2 ^ 32 + 2 ^ 16 + 1)), (0x10, leBytes 8 5), (0x300, leBytes 8 0x1000 ++ leBytes 8 2)]
  let put (m : List Host.Cell) (x : Nat × List Byte) : List Host.Cell := cwrite m (0x8000 + x.1) x.2
  (((sysState g []).modPart 0 fun p => { p with cores := [0, 1] }).modCore 1 fun k => { k with inService := true, part := some 0 }).modCore 0 fun k =>
    { k with spad := (head ++ sec.map fun (x : Nat × List Byte) => (0x1000 + x.1, x.2)).foldl put k.spad }
/-- The section's words: one core, whose part begins at 0x48; group 0 was Ready, with two words a thread, s0 7 and thread 0 at the
instruction. -/
def sectionBytes : List (Nat × List Byte) :=
  [(0, leBytes 8 0x11000000), (0x40, leBytes 8 0x48), (0x1048, leBytes 8 (2 ^ 60)), (0x1050, leBytes 8 (2 * 2 ^ 32)), (0x1070, leBytes 8 0x2200),
   (0x1188, leBytes 8 7), (0x1448, leBytes 8 bootPc), (0x1450, leBytes 8 (2 ^ 11))]
/-- The state with that image. -/
def thawS : State := imageS sectionBytes
/-- THAW s9, c2, and a scalar register with the target. -/
def thawF (n : Fin 48) : Form := wide (.s 9) (.s 4) (.s n) .unused

/-- What THAW reads. -/
def thawX : State × Thawing := thawS.readImage (thawS.engineOrigin (ctxOf thawS).r 0 16) (ctxOf thawS).g.part (capIn (ctxOf thawS) (.s 4)).base none

/-- The image that was read, and the partition. -/
def readOf (x : State × Thawing) : Option (Image × Part) :=
  match x.2, x.1.part? 0 with
  | .image i, some p => some (i, p)
  | _, _ => none

theorem image_of {x : State × Thawing} {i : Image} {p : Part} (h : readOf x = some (i, p)) : x = (x.1, .image i) ∧ x.1.part? 0 = some p := by
  obtain ⟨s, t⟩ := x
  unfold readOf at h
  cases hp : s.part? 0 with
  | none => cases t <;> simp [hp] at h
  | some q => cases t <;> simp_all

/-- What there is to know of that image: it does not fit on core 2; on core 1 it fits and leaves the system group in its place; and it is plain. -/
def plainRead (x : State × Thawing) : Bool :=
  match readOf x with
  | none => false
  | some (i, p) =>
    let kp := (i.part 0).getD []
    (x.1.sectionShort 0 p i 2 0).isSome && x.1.group? (ctxOf thawS).r == some (ctxOf thawS).g &&
    (x.1.sectionShort 0 p i 1 0).isNone && (x.1.thawSection 0 i 1 0).1.group? (ctxOf thawS).r == some (ctxOf thawS).g &&
    (p.grid? i.handle).isNone && !(i.grid 0 0).lpass && i.cw == 1 && i.ch == 1 && (i.part 0).isSome && partGroups kp == [0] &&
    recordOf kp 0 0 / 2 ^ 60 == 1 && ((List.range 8).all fun k => recordOf kp 0 (8 + 2 * k) / 2 ^ 60 == 0) && recordOf kp 0 6 == 0 &&
    recordOf kp 0 32 / 2 ^ 56 == 0 && recordOf kp 0 2 == 0 && recordOf kp 0 3 == 0 && savedChans kp == [] &&
    ((List.range 8).all fun e => dwOff kp (0x25800 + 256 * e + 8 * 19) % 16 == 0) &&
    ((List.range 2).all fun n => dwOff kp (0x26000 + 8192 * n) / 2 ^ 60 == 0) && partLog kp == 0

theorem plain_thawX : plainRead thawX = true := by decide +kernel

theorem witness_FreezeAndWindowInstructions_short : ∃ (s : State) (c : Ctx) (f : Form) (d : Fin 48) (s1 : State) (im : Image) (p : Part) (x0 y0 i status n : Nat),
    Issuing s c f.guard ∧ c.sys = true ∧ f.d = .s d ∧ flagFree c f = true ∧ capName f.a = true ∧ uniform f f.b = true ∧
    (capIn c f.a).check 1 1 (capIn c f.a).len 0 = 0 ∧ s.readImage (s.engineOrigin c.r 0 16) c.g.part (capIn c f.a).base none = (s1, .image im) ∧
    x0 = c.g.read c.tk f.lit 64 0 f.b % 16 ∧ y0 = c.g.read c.tk f.lit 64 0 f.b / 16 % 16 ∧ s1.part? c.g.part = some p ∧
    s1.sectionShort c.g.part p im x0 y0 = some (i, status, n) ∧ s1.group? c.r = some c.g := by
  have h := plain_thawX
  unfold plainRead at h
  split at h
  · simp at h
  · rename_i i p hr
    obtain ⟨h1, h2⟩ := image_of hr
    simp only [Bool.and_eq_true, beq_iff_eq, Option.isSome_iff_exists] at h
    obtain ⟨x, hx⟩ := h.1.1.1.1.1.1.1.1.1.1.1.1.1.1.1.1.1.1.1
    exact ⟨thawS, ctxOf thawS, thawF 2, 9, _, i, p, 2, 0, _, _, _, issuing_of _ _ (by decide +kernel), by decide +kernel, rfl, by decide +kernel,
      by decide +kernel, by decide +kernel, by decide +kernel, h1, by decide +kernel, by decide +kernel, h2, hx, by simp [h]⟩

theorem witness_FreezeAndWindowInstructions_thaw : ∃ (s : State) (c : Ctx) (f : Form) (d : Fin 48) (s1 s2 : State) (im : Image) (p : Part) (v : DWord) (x0 y0 gi : Nat)
    (kp : List Byte), Issuing s c f.guard ∧ c.sys = true ∧ f.d = .s d ∧ flagFree c f = true ∧ capName f.a = true ∧ uniform f f.b = true ∧
    (capIn c f.a).check 1 1 (capIn c f.a).len 0 = 0 ∧ s.readImage (s.engineOrigin c.r 0 16) c.g.part (capIn c f.a).base none = (s1, .image im) ∧
    x0 = c.g.read c.tk f.lit 64 0 f.b % 16 ∧ y0 = c.g.read c.tk f.lit 64 0 f.b / 16 % 16 ∧ s1.part? c.g.part = some p ∧
    s1.sectionShort c.g.part p im x0 y0 = none ∧ s1.thawSection c.g.part im x0 y0 = (s2, v) ∧ s2.group? c.r = some c.g ∧
    PlainSection im kp gi ∧ p.grid? im.handle = none ∧ (∀ tk n, (im.grid tk n).lpass = false) ∧ 16 * y0 + x0 ≠ c.r.core := by
  have h := plain_thawX
  unfold plainRead at h
  split at h
  · simp at h
  · rename_i i p hr
    obtain ⟨h1, h2⟩ := image_of hr
    simp only [Bool.and_eq_true, beq_iff_eq, Option.isSome_iff_exists, Option.isNone_iff_eq_none, List.all_eq_true, List.mem_range, Bool.not_eq_true'] at h
    obtain ⟨⟨⟨⟨⟨⟨⟨⟨⟨⟨⟨⟨⟨⟨⟨⟨⟨⟨⟨-, -⟩, fits⟩, keeps⟩, new⟩, plain⟩, w1⟩, w2⟩, kp, hk⟩, g0⟩, st⟩, waits⟩, c1⟩, c2⟩, c3⟩, c4⟩, ch⟩, mt⟩, se⟩, lg⟩ := h
    simp only [hk, Option.getD_some] at g0 st waits c1 c2 c3 c4 ch mt se lg
    exact ⟨thawS, ctxOf thawS, thawF 1, 9, _, _, i, p, _, 1, 0, 0, kp, issuing_of _ _ (by decide +kernel), by decide +kernel, rfl, by decide +kernel,
      by decide +kernel, by decide +kernel, by decide +kernel, h1, by decide +kernel, by decide +kernel, h2, fits, rfl, keeps,
      ⟨⟨w1, w2, hk⟩, g0, st, waits, ⟨c1, c2, c3, c4⟩, ch, mt, se, lg⟩, new, fun _ _ => plain, by decide +kernel⟩

theorem witness_FreezeAndWindowInstructions_haltGrid : ∃ (s : State) (c : Ctx) (f : Form) (d : Fin 48) (r : GRef) (g : Group) (s1 : State) (n : Nat), Issuing s c f.guard ∧
    c.sys = true ∧ f.d = .s d ∧ flagFree c f = true ∧ s.servedGroup c.r.core c.r.qtr = some (r, g) ∧ s.haltGrid g.part g.handle = (s1, n) ∧
    s1.group? c.r = some c.g :=
  ⟨sysOf 0, ctxOf (sysOf 0), regF 0, 9, ⟨0, 0, 5⟩, two, _, _, issuing_of _ _ (by decide +kernel), by decide +kernel, rfl, by decide +kernel, by decide +kernel,
    rfl, by decide +kernel⟩

theorem witness_FreezeAndWindowInstructions_noGroup : ∃ (s : State) (c : Ctx) (f : Form) (d : Fin 48), Issuing s c f.guard ∧ c.sys = true ∧ f.d = .s d ∧ flagFree c f = true ∧
    isS f.a = true ∧ uniform f f.b = true ∧ f.b ≠ .zero ∧ s.servedGroup c.r.core c.r.qtr = none :=
  ⟨sysS, ctxOf sysS, wide (.s 9) (.s 1) (.s 2) .unused, 9, issuing_of _ _ (by decide +kernel), by decide +kernel, rfl, by decide +kernel⟩

/-- A thread whose window has moved by 8 words, of which 5 may be spilled to 0x10200. -/
def windowG : Group := { two with threads := lput gone two.threads 0 { laneOf (wordsA ++ wordsB) with wb := 8, depth := 1 }, st := .trapped }
/-- The state. -/
def windowS : State :=
  ((sysState { sysGroup with scal := [0, 0x10200, 5] ++ List.replicate 45 0 } []).setGroup ⟨0, 0, 5⟩ windowG).modQuarter 0 0 fun q =>
    { q with serving := some 5, serv := whoOf 1 ⟨0, 0, 5⟩, ring := [trapRec], busy := true, troot := BitVec.ofNat 64 bootRoot }
/-- WINSP s9, s1, s2. -/
def winF : Form := wide (.s 9) (.s 1) (.s 2) .unused

theorem witness_FreezeAndWindowInstructions_window : ∃ (s : State) (c : Ctx) (f : Form) (d : Fin 48) (i : Instr) (r : GRef) (g : Group) (x : Record) (rest : List Record)
    (s1 : State) (n : Nat), Issuing s c f.guard ∧ c.sys = true ∧ f.d = .s d ∧ flagFree c f = true ∧ (i = .winsp f ∨ i = .winfl f) ∧
    moveLanes (i == .winsp f) (s.origin c.r c.g) r (c.g.read c.tk f.lit 64 0 f.a)
      (let b := c.g.read c.tk f.lit 64 0 f.b
       if b < 65536 then b else 0) s (lanesOf x.mask) = (s1, some n) ∧ isS f.a = true ∧
    uniform f f.b = true ∧ f.b ≠ .zero ∧ s.servedGroup c.r.core c.r.qtr = some (r, g) ∧ r ≠ c.r ∧ gkey r ≠ gkey c.r ∧
    (s.quarter c.r.core c.r.qtr).ring = x :: rest ∧ x.mask ≠ 0 ∧ s1.group? c.r = some c.g :=
  ⟨windowS, ctxOf windowS, winF, 9, .winsp winF, ⟨0, 0, 5⟩, windowG, trapRec, [], _, 5, issuing_of _ _ (by decide +kernel), by decide +kernel, rfl, by decide +kernel,
    .inl rfl, pair_of (by decide +kernel), by decide +kernel⟩

/-- Who moves the window. -/
def windowO : Origin := windowS.origin (ctxOf windowS).r (ctxOf windowS).g

theorem witness_FreezeAndWindowInstructions_store : ∃ (s : State) (o : Origin) (va : Nat) (u : State) (k : Nat), MemoriesWf s ∧
    s.tenantLeaf o va true = (u, .ok (.phys k)) ∧ ∀ j, (u.core j).pub = [] :=
  ⟨windowS, windowO, 0x10200, _, bootFrame + 0x200, by unfold MemoriesWf; decide +kernel, pair_of (by decide +kernel), core_all (P := fun k => k.pub = []) _ (by decide +kernel) rfl⟩

theorem witness_FreezeAndWindowInstructions_load : ∃ (s : State) (o : Origin) (va : Nat) (u : State) (k : Nat), MemoriesWf s ∧
    s.tenantLeaf o va false = (u, .ok (.phys k)) ∧ (u.core o.r.core).pub = [] :=
  ⟨windowS, windowO, 0x10200, _, bootFrame + 0x200, by unfold MemoriesWf; decide +kernel, pair_of (by decide +kernel), by decide +kernel⟩

theorem witness_FreezeAndWindowInstructions_fault : ∀ wr : Bool, ∃ (s : State) (o : Origin) (va : Nat) (u : State) (sub : Nat), MemoriesWf s ∧ o.r.qtr < 4 ∧
    (u.quarter o.r.core o.r.qtr).sfault.getLsbD 63 = false ∧ s.tenantLeaf o va wr = (u, .fault sub) :=
  fun wr => ⟨windowS, windowO, 0x20000, _, 1, by unfold MemoriesWf; decide +kernel, by decide +kernel, by cases wr <;> decide +kernel,
    pair_of (by cases wr <;> decide +kernel)⟩

end Sys2Proof.Tests
end

section
/-! PROOFS. What a step is made of, and how every step ends. -/

namespace Sys2Proof.Machine

open Sys2Proof

/-! ### The end of a step -/

/-- The end of a step drops a latched instruction and brings the turn back to a core of the mesh and one of its quarters (R1, R132),
so whatever the step's work has left there does not matter. -/
theorem State.endStep_between (s : State) : Between s.endStep :=
  ⟨rfl, Nat.mod_lt s.turn.core (by decide), Nat.mod_lt s.turn.qtr (by decide)⟩

/-- Closing a step is ending it, after the turn's own end where a barrel turn was run. -/
theorem State.close_eq_endStep (s : State) (turn : Bool) :
    s.close turn = (if turn then s.endTurn else s).endStep := by
  cases turn <;> rfl

theorem State.close_between (s : State) (turn : Bool) : Between (s.close turn) := by
  rw [State.close_eq_endStep]
  exact State.endStep_between _

/-! ### The work of a step -/

/-- What the run of the latched instruction can leave: with none latched the step closes at once; a latched one is executed, with the
latch empty, before the step closes. -/
theorem State.runIssued_next {s t : State} {turn : Bool} (h : s.runIssued turn = .next t) :
    (s.issue = none ∧ t = s.close turn) ∨
    ∃ i u, s.issue = some i ∧ exec i { s with issue := none } = .next u ∧ t = u.close turn := by
  unfold State.runIssued at h
  split at h
  next hi => exact .inl ⟨hi, (Host.Outcome.next.inj h).symm⟩
  next i hi =>
    split at h
    next u hu => exact .inr ⟨i, u, hi, hu, (Host.Outcome.next.inj h).symm⟩
    next => nomatch h
    next => nomatch h

/-- What a step that goes on has done: its event has left a state `u` (R132), with no instruction latched, or with one whose execution
has left `v`; closing that state is the step's last act. -/
theorem step_next {s t : State} (h : step s = .next t) :
    ∃ u, exec s.nextEvent { s with agenda := s.agenda.drop 1 } = .next u ∧
      ((u.issue = none ∧ t = u.close s.agenda.isEmpty) ∨
       ∃ i v, u.issue = some i ∧ exec i { u with issue := none } = .next v ∧ t = v.close s.agenda.isEmpty) := by
  unfold step at h
  split at h
  next u hu => exact ⟨u, hu, State.runIssued_next h⟩
  next => nomatch h
  next => nomatch h

/-- Settles O5: whatever the step's event and its instruction leave, the step closes it, and closing makes it a state between steps; the
state before the step need not be one. -/
theorem stepsKeepBetween : Obligations.StepsKeepBetween := by
  intro s t h _
  obtain ⟨u, -, ⟨-, rfl⟩ | ⟨_, v, -, -, rfl⟩⟩ := step_next h
  · exact State.close_between u _
  · exact State.close_between v _

end Sys2Proof.Machine
end

section
/-! PROOFS. The team barrier: what BARV zero and BWAIT zero leave of the team and of the issuing group. -/

namespace Sys2Proof.Machine

open Sys2Proof Sys2Proof.Claims

/-! ### Instructions that execute once for the issuing set -/

/-- In an ordinary grid no thread runs on intervals. -/
theorem interval_plain {c : Ctx} (h : c.g.lpass = false) : c.interval = false := by
  simp [Ctx.interval, h]

/-- An instruction that executes once, with good operands and a flag where it needs one, runs its own part. -/
theorem run_once {s : State} {c : Ctx} {f : Form} {long : Bool} {d a b e : Option Field} {aw : Nat} {body : Ctx → State → Res}
    (hi : Issuing s c f.guard) (ho : (Rules.once long d a b e aw).operandFault c.g f = none)
    (hf : long = true → flagFree c f = true) :
    (Rules.once long d a b e aw).run f c body s = body c s := by
  have some_on : c.notOff f.guard ≠ [] := notOff_eq_on hi.sure ▸ hi.runs
  refine run_body (fun h => nomatch h) (fun h => nomatch h) ho (.inr some_on) (fun h => ?_) fun _ => interval_plain hi.plain
  simpa [flagFree] using hf h

/-! ### The group that a long-latency instruction leaves -/

/-- Starting an operation counts it on its flag. -/
theorem start_eq_withOp {s : State} {c : Ctx} (hg : s.group? c.r = some c.g) (f : Form) (kind : PendKind) (dests : List Reg)
    (vals : List DWord) : c.start f s kind dests vals = withOp s c (opOf c f kind dests vals) :=
  State.modGroup_of_some hg _

/-- An instruction that ends by putting a changed group back leaves that change, the latches aged and the issuing set past it. -/
theorem after_setGroup {s : State} {c : Ctx} (hs : s.ctx = some c) (f : Form) (own : Group → Group)
    (hown : own c.g = { own c.g with threads := c.g.threads, latches := c.g.latches }) :
    After s c f 64 own (fun _ th => th) (s.setGroup c.r (c.advance (c.latched f.hold f.a f.lit 64 (own c.g)))) := by
  obtain ⟨g, rfl, hrest, hthread⟩ :=
    left_threads hs f.hold f.a f.lit 64 List.nodup_nil (fun _ h => nomatch h) (u := fun _ th => th) hown (fun _ _ => rfl)
  exact ⟨_, rfl, hrest, fun l => (hthread l).trans (by simp [Ctx.past, Claims.past, Thread.past])⟩

/-- Two changes of the group that leave one and the same state agree but for threads and latches. -/
theorem after_pend_eq {s t : State} {c : Ctx} {f : Form} {aw : Nat} {own own' : Group → Group} {upd upd' : Nat → Thread → Thread}
    (h : After s c f aw own upd t) (h' : After s c f aw own' upd' t) : (own c.g).pend = (own' c.g).pend := by
  obtain ⟨g, rfl, hg, -⟩ := h
  obtain ⟨g', ht, hg', -⟩ := h'
  have same : g = g' := by
    have h := congrArg (fun u => State.group? u c.r) ht
    simpa using h
  calc (own c.g).pend = g.pend := by rw [hg]
    _ = g'.pend := by rw [same]
    _ = (own' c.g).pend := by rw [hg']

/-! ### A team's test -/

theorem mem_sins {l : List Nat} {k n : Nat} : n ∈ sins l k ↔ n ∈ l ∨ n = k := by
  induction l with
  | nil => simp [sins]
  | cons j r ih =>
    unfold sins
    split
    · simp [or_comm]
    · split
      next h => subst h; simp [or_comm]
      next => simp [ih, or_assoc]

/-- A team after the test of its barrier. -/
def Team.tested (t : Team) : Team := if t.complete then { t with gen := t.gen + 1, arrived := [] } else t

/-- A team in which a group has arrived. -/
def Team.arrive (t : Team) (n : Nat) : Team := { t with arrived := sins t.arrived n }

theorem Team.arrive_complete (t : Team) (n : Nat) : (t.arrive n).complete =
    (((List.range t.ngrp).all fun i => t.arrived.contains i || i == n || t.gone.contains i) && decide (t.gone.length < t.ngrp)) := by
  have has (i : Nat) : (sins t.arrived n).contains i = (t.arrived.contains i || i == n) := by
    rw [Bool.eq_iff_iff]
    simp [mem_sins]
  show (((List.range t.ngrp).all fun i => (sins t.arrived n).contains i || t.gone.contains i) && decide (t.gone.length < t.ngrp)) = _
  simp only [has]

/-- With the last live group the generation completes. -/
theorem Team.tested_last {t : Team} {n : Nat}
    (h : ((List.range t.ngrp).all fun i => t.arrived.contains i || i == n || t.gone.contains i) = true ∧ t.gone.length < t.ngrp) :
    (t.arrive n).tested = { t with gen := t.gen + 1, arrived := [] } := by
  rw [Team.tested, Team.arrive_complete, if_pos (by simpa using h)]
  rfl

/-- Before it the arrival is noted. -/
theorem Team.tested_early {t : Team} {n : Nat}
    (h : ((List.range t.ngrp).all fun i => t.arrived.contains i || i == n || t.gone.contains i) = false ∨ t.ngrp ≤ t.gone.length) :
    (t.arrive n).tested = t.arrive n := by
  rw [Team.tested, Team.arrive_complete, if_neg]
  rw [Bool.and_eq_true, decide_eq_true_eq, Classical.not_and_iff_not_or_not, Bool.not_eq_true, Nat.not_lt]
  exact h

theorem State.modTeam_team {s : State} {core slot : Nat} {tm : Team} (h : mget (s.core core).teams slot = some tm) (f : Team → Team) :
    mget ((s.modTeam core slot f).core core).teams slot = some (f tm) := by
  simp [State.modTeam, h]

theorem State.teamTest_team {s : State} {core slot : Nat} {tm : Team} (h : mget (s.core core).teams slot = some tm) :
    mget ((s.teamTest core slot).core core).teams slot = some tm.tested := by
  unfold State.teamTest Team.tested
  simp only [h]
  split
  · exact State.modTeam_team h _
  · exact h

@[simp] theorem State.teamTest_mem (s : State) (core slot : Nat) : (s.teamTest core slot).mem = s.mem := by
  unfold State.teamTest
  split
  · rfl
  · split <;> rfl

@[simp] theorem State.modGroup_core (s : State) (r : GRef) (f : Group → Group) (k : Nat) : (s.modGroup r f).core k = s.core k := by
  simp [State.core]

/-- An arrival at the team barrier (R281): the team notes the group and is tested; the physical memory stays. -/
theorem State.teamArrive_team {s : State} {r : GRef} {g : Group} {tm : Team} (hr : r.slot ≠ 63) (hg : s.group? r = some g)
    (ht : s.team r g = some tm) :
    mget ((s.teamArrive r).core r.core).teams g.team = some (tm.arrive g.gidx).tested ∧
      (s.teamArrive r).mem = s.mem := by
  unfold State.teamArrive
  simp only [hr, hg, ht, if_false]
  refine ⟨State.teamTest_team (State.modTeam_team (tm := tm) ?_ _), by simp⟩
  simpa [State.team] using ht

/-- BARV zero runs as its own part says. -/
theorem exec_barv_zero {s : State} {c : Ctx} {f : Form} (hi : Issuing s c f.guard) (ha : f.a = .zero) :
    exec (.barv f) s = .next ((s.teamArrive c.r).modGroup c.r fun g => c.advance (c.latched f.hold f.a f.lit 64 g)) := by
  have good : (Rules.once false none (srcF isSZ) none none 64).operandFault c.g f = none := by
    simp [Rules.operandFault, Rules.once, Rules.plain, firstSome, fieldFault, srcF, isSZ, ha]
  have ran : (Rules.once false none (srcF isSZ) none none 64).run f c (Ctx.barv f) s = .next (s.teamArrive c.r) := by
    rw [run_once hi good (fun h => nomatch h), Ctx.barv, if_pos ha]
  show execBarv f s = _
  simp only [execBarv, State.issueForm, hi.ctx, if_pos ha, ran, Ctx.settle]
  rfl

/-- The first half of the statement holds: BARV zero arrives for the group, and with the last live group the generation completes
(R21, R281). -/
theorem barv_zero_arrives {s : State} {c : Ctx} {f : Form} {tm : Team} (hi : Issuing s c f.guard) (ha : f.a = .zero)
    (ht : s.team c.r c.g = some tm) (hc : c.sys = false) :
    ∃ t tm2, exec (.barv f) s = .next t ∧ mget (t.core c.r.core).teams c.g.team = some tm2 ∧ t.mem = s.mem ∧
      (let all := (List.range tm.ngrp).all fun n => tm.arrived.contains n || n == c.g.gidx || tm.gone.contains n
       (all = true ∧ tm.gone.length < tm.ngrp → tm2 = { tm with gen := tm.gen + 1, arrived := [] }) ∧
       (all = false ∨ tm.ngrp ≤ tm.gone.length → tm2 = { tm with arrived := sins tm.arrived c.g.gidx })) := by
  obtain ⟨-, hg, -, -, -, -, -, -, hsys, -⟩ := ctx_some hi.ctx
  have tenant : c.r.slot ≠ 63 := by simpa [hc] using hsys
  obtain ⟨team, mem⟩ := State.teamArrive_team tenant hg ht
  exact ⟨_, _, exec_barv_zero hi ha, by rw [State.modGroup_core, team], by rw [State.modGroup_mem, mem],
    Team.tested_last, Team.tested_early⟩

/-! ### BWAIT zero -/

theorem predName_some {o : Opnd} {n : Nat} (h : predName o = some n) : ∃ m : Fin 32, o = .v m ∧ m.val = n ∧ n < 8 := by
  unfold predName at h
  split at h
  next m =>
    split at h
    next hm => obtain rfl := Option.some.inj h; exact ⟨m, rfl, rfl, hm⟩
    next => nomatch h
  next => nomatch h

section
variable {s : State} {c : Ctx} {f : Form} {n : Nat}

/-- BWAIT zero ends with what its own part makes of the group (R283). -/
theorem exec_bwait_zero {g : Group} (hi : Issuing s c f.guard) (ha : f.a = .zero) (hd : predName f.d = some n)
    (hf : flagFree c f = true) (hb : Ctx.bwait f c s = .next (s.setGroup c.r g)) :
    exec (.bwait f) s = .next (s.setGroup c.r (c.advance (c.latched f.hold f.a f.lit 64 g))) := by
  obtain ⟨m, hm, rfl, hlt⟩ := predName_some hd
  have good : (Rules.once true (dstF isP) (srcF isSZ) none none 64).operandFault c.g f = none := by
    simp [Rules.operandFault, Rules.once, Rules.plain, firstSome, fieldFault, srcF, dstF, isSZ, isP, notDst, ha, hm, hlt]
  show execBwait f s = _
  simp only [execBwait, ha, if_true]
  rw [← ha]
  exact issueForm_next hi.ctx ((run_once hi good fun _ => hf).trans hb)

/-- BWAIT zero waits while the group's last arrival is of the present generation (R283). -/
theorem bwait_zero_waits {k : Nat} (hi : Issuing s c f.guard) (ha : f.a = .zero) (hd : predName f.d = some n)
    (hf : flagFree c f = true) (hw : c.waitsFull true = false) (hp : s.teamPending c.r c.g = some k) :
    ∃ t, exec (.bwait f) s = .next t ∧ Started s c f (opOf c f (.bwait none false k) (predRegs c f n) []) t := by
  obtain ⟨m, hm, rfl, -⟩ := predName_some hd
  have own : Ctx.bwait f c s = .next (withOp s c (opOf c f (.bwait none false k) (predRegs c f m.val) [])) := by
    simp only [Ctx.bwait, ha, hw, hp, start_eq_withOp (ctx_group hi.ctx), hm, Opnd.num]
    rfl
  exact ⟨_, exec_bwait_zero hi ha hd hf own, after_setGroup hi.ctx f (counted _) rfl⟩

/-- The group that a BWAIT zero met at once leaves: the model finishes every operation that carries the new operation's id. -/
def metGroup (c : Ctx) (f : Form) (n : Nat) (g : Group) : Group :=
  withPend (counted (opOf c f (.bwait none false 0) (predRegs c f n) []) g) c.g.nextId (·.finishAll true)

/-- What it holds outstanding: the older operations, those with the new id finished, and the new one, met. -/
theorem metGroup_pend (c : Ctx) (f : Form) (n : Nat) : (metGroup c f n c.g).pend =
    (c.g.pend.map fun p => if p.id = c.g.nextId then p.finishAll true else p) ++
      [metOp c f (.bwait none false 0) (predRegs c f n) (sameVals (predRegs c f n) 1)] := by
  simp [metGroup, withPend, counted, opOf, metOp, Pend.finishAll, Pend.finish, Pend.new, sameVals, b2n]

/-- BWAIT zero that is met at once. -/
theorem bwait_zero_met (hi : Issuing s c f.guard) (ha : f.a = .zero) (hd : predName f.d = some n) (hf : flagFree c f = true)
    (hw : c.waitsFull true = false) (hp : s.teamPending c.r c.g = none) :
    ∃ t, exec (.bwait f) s = .next t ∧ After s c f 64 (metGroup c f n) (fun _ th => th) t := by
  obtain ⟨m, hm, rfl, -⟩ := predName_some hd
  have own : Ctx.bwait f c s = .next (s.setGroup c.r (metGroup c f m.val c.g)) := by
    simp only [Ctx.bwait, ha, hw, hp, start_eq_withOp (ctx_group hi.ctx), hm, Opnd.num, withOp, State.modPend, State.setGroup_modGroup,
      metGroup, withPend, beq_iff_eq]
    rfl
  exact ⟨_, exec_bwait_zero hi ha hd hf own, after_setGroup hi.ctx f (metGroup c f _) rfl⟩

/-- A BWAIT zero that is met at once starts its own operation and nothing more exactly when finishing the older operations with the new
operation's id changes none of them: in particular when the id is new to the group. -/
theorem bwait_zero_met_started_iff (hi : Issuing s c f.guard) (ha : f.a = .zero) (hd : predName f.d = some n)
    (hf : flagFree c f = true) (hw : c.waitsFull true = false) (hp : s.teamPending c.r c.g = none) :
    (∃ t, exec (.bwait f) s = .next t ∧
      Started s c f (metOp c f (.bwait none false 0) (predRegs c f n) (sameVals (predRegs c f n) 1)) t) ↔
      ∀ p ∈ c.g.pend, p.id = c.g.nextId → p.finishAll true = p := by
  obtain ⟨t, ht, hmet⟩ := bwait_zero_met hi ha hd hf hw hp
  have older : (∀ p ∈ c.g.pend, p.id = c.g.nextId → p.finishAll true = p) ↔
      (c.g.pend.map fun p => if p.id = c.g.nextId then p.finishAll true else p) = c.g.pend := by
    rw [← List.map_id c.g.pend, List.map_map, List.map_inj_left]
    simp
  rw [older]
  constructor
  · rintro ⟨t', ht', hstart⟩
    obtain rfl : t = t' := Host.Outcome.next.inj (ht.symm.trans ht')
    have pends := after_pend_eq hmet hstart
    rw [metGroup_pend] at pends
    exact List.append_cancel_right pends
  · intro hsame
    have group : metGroup c f n c.g =
        counted (metOp c f (.bwait none false 0) (predRegs c f n) (sameVals (predRegs c f n) 1)) c.g := by
      have pends := metGroup_pend c f n
      rw [hsame] at pends
      show { metGroup c f n c.g with pend := (metGroup c f n c.g).pend } = _
      rw [pends]
      rfl
    obtain ⟨g, rfl, hg, hl⟩ := hmet
    exact ⟨_, ht, g, rfl, by rw [← group]; exact hg, hl⟩

/-- The second half of the statement holds where the id of the group's next operation is new to it: BWAIT zero is met at once unless the
group's last arrival is still of the present generation (R283). -/
theorem bwait_zero_started_of_newId {tm : Team} (hi : Issuing s c f.guard) (ha : f.a = .zero) (ht : s.team c.r c.g = some tm)
    (hd : predName f.d = some n) (hf : flagFree c f = true) (hw : c.waitsFull true = false)
    (hnew : ∀ p ∈ c.g.pend, p.id ≠ c.g.nextId) :
    ∃ t, exec (.bwait f) s = .next t ∧ Started s c f (match c.g.bgen with
      | some k => if k < tm.gen then metOp c f (.bwait none false 0) (predRegs c f n) (sameVals (predRegs c f n) 1)
        else opOf c f (.bwait none false k) (predRegs c f n) []
      | none => metOp c f (.bwait none false 0) (predRegs c f n) (sameVals (predRegs c f n) 1)) t := by
  have met (hp : s.teamPending c.r c.g = none) :=
    (bwait_zero_met_started_iff hi ha hd hf hw hp).2 fun p hp h => absurd h (hnew p hp)
  cases hb : c.g.bgen with
  | none => exact met (by simp [State.teamPending, hb])
  | some k =>
    by_cases hk : k < tm.gen
    · simpa only [hk, if_true] using met (by simp [State.teamPending, hb, ht, hk])
    · simpa only [hk, if_false] using bwait_zero_waits hi ha hd hf hw (by simp [State.teamPending, hb, ht, hk])

end

/-! ### The refuting state -/

/-- An outstanding BWAIT of the team barrier, with id 0. -/
def reusedIdWait : Pend := Pend.new 0 0 0 0 (.bwait none false 0) [] []

/-- A ready group of 64 threads that holds it, although 0 is the id that its next operation gets. -/
def reusedIdGroup : Group := { bootGroup with pend := [reusedIdWait] }

/-- The state in which that group issues. -/
def reusedIdState : State := (State.reset.boot []).setGroup ⟨0, 0, 0⟩ reusedIdGroup

/-- Its issue. -/
def reusedIdCtx : Ctx :=
  { r := ⟨0, 0, 0⟩, g := reusedIdGroup, set := allLanes, pc := BitVec.ofNat 64 bootPc, len := 0, sys := false, tk := 0 }

/-- BWAIT p2, zero, under the guard !p1, which every thread passes. -/
def bwaitZeroForm : Form :=
  { ext := true, hold := 0, guard := ⟨true, 1⟩, d := .v 2, a := .zero, b := .unused, c := .unused, mod := 0, scope := 0, slot := 0,
    fs := false, imm := 0, lit := none }

theorem reusedId_issuing : Issuing reusedIdState reusedIdCtx bwaitZeroForm.guard :=
  ⟨by decide +kernel, rfl, by decide +kernel, by decide +kernel⟩

/-- Refutes O33: nothing in the statement says that the id of the group's next operation is new. In `reusedIdState` an older BWAIT of the
group carries it, and a BWAIT zero that is met at once finishes that one too, where `Started` keeps every older operation as it was. As
`Group.addPend` counts the ids upwards, only states with a reused id are concerned: `barv_zero_arrives` and `bwait_zero_started_of_newId` are
what holds of the statement. -/
theorem not_teamBarrier : ¬ Obligations.TeamBarrier := by
  unfold Obligations.TeamBarrier
  intro h
  have team : reusedIdState.team reusedIdCtx.r reusedIdCtx.g = some bootTeam := by decide +kernel
  have started := (h reusedIdState reusedIdCtx bwaitZeroForm bootTeam reusedId_issuing rfl team rfl).2 2 rfl
    (by decide +kernel) (by decide +kernel)
  have finished := (bwait_zero_met_started_iff reusedId_issuing rfl rfl (by decide +kernel) (by decide +kernel) rfl).1 started
    reusedIdWait (List.mem_singleton_self _) rfl
  exact absurd (congrArg Pend.kind finished) (by decide)

end Sys2Proof.Machine
end

section
/-! PROOFS. Privilege: what raises the privileged-instruction trap in a tenant's group. -/

namespace Sys2Proof.Machine

open Sys2Proof Sys2Proof.Claims

/-- Privilege is the second check of an instruction, before its operands and its guard (R129): whatever the instruction would do, in a
tenant's group it raises the privileged-instruction trap. -/
theorem issueForm_traps_privileged {s : State} {c : Ctx} {ru : Rules} (f : Form) (body : Ctx → State → Res) (hs : s.ctx = some c)
    (hsys : c.sys = false) (hpriv : ru.priv = true) (hend : ru.ctl = true → c.atEnd = true) :
    s.issueForm ru f body = .next (s.trapGroup c.r c.g 0x03 0 c.len c.pc c.pc (maskOf c.set) 0 0) := by
  have last : (ru.ctl && !c.atEnd) = false := by
    cases hctl : ru.ctl
    · rfl
    · simp [hend hctl]
  have denied : (ru.priv && !c.sys) = true := by simp [hpriv, hsys]
  simp only [State.issueForm, hs, Rules.run, last, denied, Bool.false_eq_true, if_false, if_true, Ctx.trapAll, Ctx.settle, Ctx.mask]

/-- A privileged instruction issues by rules that say so, and ERET alone of them must be the last of its clause (R356, R374). -/
theorem privilegedForm_issues {i : Instr} {f : Form} (h : privilegedForm i = some f) :
    ∃ ru body, ru.priv = true ∧ (ru.ctl = true → i = .eret f) ∧ ∀ s, exec i s = s.issueForm ru f body := by
  unfold privilegedForm at h
  split at h
  case h_16 => nomatch h
  case h_1 => exact Option.some.inj h ▸ ⟨_, _, rfl, fun _ => rfl, fun _ => rfl⟩
  all_goals exact Option.some.inj h ▸ ⟨_, _, rfl, fun hctl => Bool.noConfusion hctl, fun _ => rfl⟩

/-- Of a system register that is open to system groups only, the first check of SYSRD and SYSWR is the privilege (R356). -/
theorem issueSysReg_traps_privileged {s : State} {c : Ctx} (f : Form) (ru : Rules) (assigned : Bool) (body : Ctx → State → Res)
    (hs : s.ctx = some c) (hsys : c.sys = false) :
    s.issueSysReg f ru true assigned body =
      .next (s.trapGroup c.r c.g 0x03 0 c.len c.pc c.pc (maskOf c.set) 0 (BitVec.ofNat 64 (f.imm.toNat % 4096))) := by
  simp only [State.issueSysReg, hs, Ctx.sysReg, hsys, Bool.not_false, Bool.and_true, if_true, Ctx.settle, Ctx.mask]

/-- Settles O43: privilege is checked before the operands and the guard, by the instruction or by the register's number. -/
theorem privilegeTraps : Obligations.PrivilegeTraps := by
  intro i f s c hs hsys
  refine ⟨fun hform hend => ?_, fun hinstr hlo hhi => ?_⟩
  · obtain ⟨ru, body, hpriv, hctl, hexec⟩ := privilegedForm_issues hform
    rw [hexec]
    exact issueForm_traps_privileged f body hs hsys hpriv fun h => hend f (hctl h)
  · have closed : sysOnly (f.imm.toNat % 4096) = true := by simp [sysOnly, hlo, hhi]
    rcases hinstr with rfl | rfl
    · show execSysrd f s = _
      rw [execSysrd, closed]
      exact issueSysReg_traps_privileged f _ _ _ hs hsys
    · show execSyswr f s = _
      rw [execSyswr, closed]
      exact issueSysReg_traps_privileged f _ _ _ hs hsys

end Sys2Proof.Machine
end

section
/-! PROOFS. The capability instructions: their operand fields, the shared course of an instruction that writes its result once for the
group, and what CNAR, CPERM, CGET, CCHK and CMINT write (R87 to R91). -/

namespace Sys2Proof.Machine

open Sys2Proof Sys2Proof.Claims

/-! ### Operand fields (R117, R118, R163) -/

/-- With no fault in any field the operands pass the check of R129. -/
theorem operandFault_none {ru : Rules} {g : Group} {f : Form} (hd : fieldFault g f.lit.isSome 0 ru.d f.d = none)
    (ha : fieldFault g f.lit.isSome 1 ru.a f.a = none) (hb : fieldFault g f.lit.isSome 2 ru.b f.b = none)
    (hc : fieldFault g f.lit.isSome 3 ru.c f.c = none) : ru.operandFault g f = none := by
  simp only [Rules.operandFault, firstSome, hd, ha, hb, hc]

theorem fieldFault_unused (g : Group) (lit : Bool) (idx : Nat) (o : Opnd) : fieldFault g lit idx none o = none := rfl

theorem isS_of_isS2 {o : Opnd} (h : isS2 o = true) : isS o = true := by
  cases o with
  | s _ => rfl
  | _ => exact Bool.noConfusion h

/-- A scalar name, as a source or a destination, raises no fault where the field admits it. -/
theorem fieldFault_scalar {g : Group} {lit : Bool} {idx : Nat} {dst : Bool} {ok : Opnd → Bool} {o : Opnd} (hs : isS o = true)
    (hok : ok o = true) : fieldFault g lit idx (some ⟨dst, ok⟩) o = none := by
  cases o with
  | s _ => simp [fieldFault, notDst, hok]
  | _ => exact Bool.noConfusion hs

/-- A capability's name is an even scalar (R118). -/
theorem capName_eq_isS2 (o : Opnd) : capName o = isS2 o := by cases o <;> rfl

/-- A source that is uniform raises no fault where the field takes uniform sources. -/
theorem fieldFault_uniform {g : Group} {lit : Option DWord} {idx : Nat} {o : Opnd} (h : uniformSource lit o = true) :
    fieldFault g lit.isSome idx (srcF isUni) o = none := by
  cases o with
  | s _ | zero | lit => simp_all [fieldFault, srcF, isUni, uniformSource]
  | v _ | l _ | lane | rsv _ => exact Bool.noConfusion h

/-! ### An instruction that writes once for the group (R163) -/

/-- A short-latency instruction with good operands whose own part changes its group's own registers, and no thread, leaves that change. -/
theorem issueForm_after_own {s : State} {c : Ctx} {f : Form} {ru : Rules} {body : Ctx → State → Res} {own : Group → Group}
    (hi : Issuing s c f.guard) (ho : ru.operandFault c.g f = none) (hru : ru.ctl = false ∧ ru.long = false ∧ ru.und = false ∧ ru.aw = 64)
    (hpriv : ru.priv = true → c.sys = true) (hown : own c.g = { own c.g with threads := c.g.threads, latches := c.g.latches })
    (hb : body c s = .next (s.setGroup c.r (own c.g))) :
    ∃ t, s.issueForm ru f body = .next t ∧ After s c f 64 own (fun _ th => th) t := by
  obtain ⟨hctl, hlong, hund, haw⟩ := hru
  have some_on : c.notOff f.guard ≠ [] := notOff_eq_on hi.sure ▸ hi.runs
  have ran : ru.run f c body s = .next (s.setGroup c.r (own c.g)) := by
    rw [run_body (by simp [hctl]) hpriv ho (.inr some_on) (by simp [hlong]) (by simp [hund]), hb]
  exact ⟨_, issueForm_next hi.ctx ran, haw ▸ after_setGroup hi.ctx f own hown⟩

/-- Where a thread's guard holds the uniform effect is made. -/
theorem uniform_runs {s : State} {c : Ctx} {f : Form} (hi : Issuing s c f.guard) (k : Unit → Res) : c.uniform f s k = k () := by
  simp [Ctx.uniform, hi.runs]

/-! ### The registers written (R78 to R80) -/

/-- A capability written where no uncovered operation writes either half. -/
theorem setCap_free {g : Group} {n : Nat} (hlo : g.uncovered (.scalar (2 * n)) = false)
    (hhi : g.uncovered (.scalar (2 * n + 1)) = false) (tk : Nat) (k : Cap) : g.setCap tk n k = putCap n k g := by
  have own : g.pairMixed n = false := by simp [Group.pairMixed, hlo, hhi]
  have low : BitVec.ofNat 64 (k.bits.extractLsb' 0 64).toNat = k.bits.setWidth 64 := by
    rw [BitVec.ofNat_toNat, BitVec.setWidth_eq]
    ext i hi
    simp
  have high : BitVec.ofNat 64 (k.bits.extractLsb' 64 64).toNat = (k.bits >>> 64).setWidth 64 := by
    rw [BitVec.ofNat_toNat, BitVec.setWidth_eq]
    ext i hi
    simp
  have wrote : g.setScalar tk (2 * n) (k.bits.setWidth 64) = putScal (2 * n) (k.bits.extractLsb' 0 64).toNat g := by
    rw [setScalar_free hlo, putScal, low]
  have wrote' : (putScal (2 * n) (k.bits.extractLsb' 0 64).toNat g).setScalar tk (2 * n + 1) ((k.bits >>> 64).setWidth 64) =
      putScal (2 * n + 1) (k.bits.extractLsb' 64 64).toNat (putScal (2 * n) (k.bits.extractLsb' 0 64).toNat g) := by
    rw [setScalar_free (by exact hhi), ← high]
    rfl
  simp only [Group.setCap, putCap, own, wrote, wrote', Bool.not_false, Bool.and_true]

theorem putScal_own (n v : Nat) (g : Group) :
    putScal n v g = { putScal n v g with threads := g.threads, latches := g.latches } := rfl

theorem putCap_own (n : Nat) (k : Cap) (g : Group) :
    putCap n k g = { putCap n k g with threads := g.threads, latches := g.latches } := by
  unfold putCap
  split <;> rfl

/-- What an admitted write of a capability is: its destination is an even scalar, and the model's own write makes the effect's change. -/
theorem capEffect_some {c : Ctx} {f : Form} {ok : Bool} {k : Cap} {e : Effect} (h : capEffect c f f.d ok k = some e)
    (hok : e.ok = true) :
    ok = true ∧ isS2 f.d = true ∧ e = ⟨f, e.ok, 64, putCap (f.d.num / 2) k, fun _ t => t⟩ ∧
      c.g.setCap c.tk (f.d.num / 2) k = putCap (f.d.num / 2) k c.g := by
  unfold capEffect at h
  split at h
  next n hd =>
    obtain rfl := Option.some.inj h
    simp only [freeScal, Bool.and_eq_true, Bool.not_eq_true', beq_iff_eq] at hok
    obtain ⟨⟨⟨good, even⟩, hlo⟩, hhi⟩ := hok
    have twice : 2 * (n.val / 2) = n.val := by omega
    rw [hd]
    refine ⟨good, by simp [isS2, even], rfl, setCap_free ?_ ?_ c.tk k⟩
    · simpa [Opnd.num, twice] using hlo
    · simpa [Opnd.num, twice] using hhi
  next => nomatch h

/-- The shared end of CNAR, CPERM and CMINT. -/
theorem issueForm_writes_cap {s : State} {c : Ctx} {f : Form} {ru : Rules} {body : Ctx → State → Res} {ok : Bool} {k : Cap} {e : Effect}
    (h : capEffect c f f.d ok k = some e) (hok : e.ok = true) (hi : Issuing s c e.form.guard)
    (hru : ru.ctl = false ∧ ru.long = false ∧ ru.und = false ∧ ru.aw = 64) (hpriv : ok = true → ru.priv = true → c.sys = true)
    (ho : ok = true → isS2 f.d = true → ru.operandFault c.g f = none)
    (hb : ok = true → Issuing s c f.guard → body c s = .next (s.setGroup c.r (c.g.setCap c.tk (f.d.num / 2) k))) :
    ∃ t, s.issueForm ru f body = .next t ∧ After s c e.form e.aw e.own e.upd t := by
  obtain ⟨good, dest, he, wrote⟩ := capEffect_some h hok
  rw [he] at hi ⊢
  exact issueForm_after_own hi (ho good dest) hru (hpriv good) (putCap_own _ _ _) (by rw [hb good hi, wrote])

/-- The shared end of CGET and CCHK. -/
theorem issueForm_writes_scalar {s : State} {c : Ctx} {f : Form} {ru : Rules} {body : Ctx → State → Res} {ok : Bool} {v : Nat} {n : Fin 48}
    (hd : f.d = .s n) (hok : (scalEffect c f 64 n.val ok v).ok = true) (hi : Issuing s c f.guard)
    (hru : ru.ctl = false ∧ ru.long = false ∧ ru.und = false ∧ ru.aw = 64) (hpriv : ru.priv = false)
    (ho : ok = true → ru.operandFault c.g f = none)
    (hb : body c s = .next (s.setGroup c.r (c.g.setScalar c.tk f.d.num (BitVec.ofNat 64 v)))) :
    ∃ t, s.issueForm ru f body = .next t ∧ After s c f 64 (putScal n.val v) (fun _ th => th) t := by
  simp only [scalEffect, freeScal, Bool.and_eq_true, Bool.not_eq_true'] at hok
  obtain ⟨good, free⟩ := hok
  have wrote : c.g.setScalar c.tk f.d.num (BitVec.ofNat 64 v) = putScal n.val v c.g := by
    rw [hd]
    exact setScalar_free free c.tk _
  exact issueForm_after_own hi (ho good) hru (by simp [hpriv]) (putScal_own _ _ _) (by rw [hb, wrote])

/-! ### The capabilities formed -/

/-- CMINT's three plain numbers are the fields of the capability that it mints (R91). -/
theorem minted_eq_capOf (a b n : Nat) :
    minted a b n = capOf a b (n % 256) (n / 2 ^ 8 % 16) (n / 2 ^ 12) true := by
  unfold minted capOf
  congr 2
  omega

/-- CNAR's new BASE and LEN, and with IMM[23] the element layout of IMM (R87). -/
theorem narrowed_eq_capOf (a : Cap) (b n : Nat) {w : Nat} (imm : BitVec w) : narrowed a b n imm.toNat =
    capOf ((a.base + b) % 2 ^ 64) (n % 2 ^ 40) a.perm (if imm.getLsbD 23 then imm.toNat / 2 ^ 12 % 16 else a.esz)
      (if imm.getLsbD 23 then imm.toNat % 2 ^ 12 else a.pitch)
      (a.tag && (!imm.getLsbD 23 || (if imm.getLsbD 23 then imm.toNat / 2 ^ 12 % 16 else a.esz) ≤ 4)) := by
  have relay : bit imm.toNat 23 = imm.getLsbD 23 := by
    rw [BitVec.getLsbD, Nat.testBit_eq_decide_div_mod_eq]
    rfl
  have esz : slice imm.toNat 15 12 = imm.toNat / 2 ^ 12 % 16 := rfl
  have pitch : slice imm.toNat 11 0 = imm.toNat % 2 ^ 12 := by simp [slice]
  simp only [narrowed, relay, esz, pitch]
  cases imm.getLsbD 23 <;> rfl

theorem capField_eq (a : Cap) (m : Nat) : capField a m = match m with
    | 0 => a.base
    | 1 => a.len
    | 2 => a.perm
    | 3 => a.esz
    | 4 => 64 * a.pitch
    | 5 => if a.tag then 1 else 0
    | _ => (a.base + a.len) % 2 ^ 64 := by
  unfold capField b2n
  rfl

/-! ### The instructions -/

section
variable {s : State} {c : Ctx} {f : Form} {e : Effect}

theorem cnar_after (h : capEffectOf c (.cnar f) = some e) (hi : Issuing s c e.form.guard) (hok : e.ok = true) :
    ∃ t, exec (.cnar f) s = .next t ∧ After s c e.form e.aw e.own e.upd t := by
  refine issueForm_writes_cap h hok hi ⟨rfl, rfl, rfl, rfl⟩ (fun _ hp => Bool.noConfusion hp) (fun good dest => ?_) fun good hi => ?_
  all_goals
    simp only [Bool.and_eq_true, capName_eq_isS2] at good
    obtain ⟨⟨⟨ha, hb⟩, hc⟩, inside⟩ := good
  · exact operandFault_none (fieldFault_scalar (isS_of_isS2 dest) dest) (fieldFault_scalar (isS_of_isS2 ha) ha)
      (fieldFault_uniform hb) (fieldFault_uniform hc)
  · have fits : ((c.capOf f.a).tag && decide (c.number f f.b + c.number f f.c > (c.capOf f.a).len)) = false := by
      cases htag : (c.capOf f.a).tag
      · rfl
      · have within : c.number f f.b + c.number f f.c ≤ (c.capOf f.a).len := by
          have tagged : (capIn c f.a).tag = true := htag
          rw [tagged] at inside
          exact of_decide_eq_true inside
        simpa using within
    rw [Ctx.cnar, uniform_runs hi]
    simp only [fits, Bool.false_eq_true, if_false, immOf, narrowed_eq_capOf]
    rfl

theorem cperm_after (h : capEffectOf c (.cperm f) = some e) (hi : Issuing s c e.form.guard) (hok : e.ok = true) :
    ∃ t, exec (.cperm f) s = .next t ∧ After s c e.form e.aw e.own e.upd t := by
  refine issueForm_writes_cap h hok hi ⟨rfl, rfl, rfl, rfl⟩ (fun _ hp => Bool.noConfusion hp) (fun good dest => ?_) fun _ hi => ?_
  · simp only [Bool.and_eq_true, capName_eq_isS2] at good
    obtain ⟨ha, hb⟩ := good
    exact operandFault_none (fieldFault_scalar (isS_of_isS2 dest) dest) (fieldFault_scalar (isS_of_isS2 ha) ha)
      (fieldFault_uniform hb) (fieldFault_unused _ _ _ _)
  · rw [Ctx.cperm, uniform_runs hi]
    rfl

theorem cget_after (h : capEffectOf c (.cget f) = some e) (hi : Issuing s c e.form.guard) (hok : e.ok = true) :
    ∃ t, exec (.cget f) s = .next t ∧ After s c e.form e.aw e.own e.upd t := by
  simp only [capEffectOf] at h
  split at h
  next n hd =>
    obtain rfl := Option.some.inj h
    have issuing : Issuing s c f.guard := hi
    refine issueForm_writes_scalar hd hok issuing ⟨rfl, rfl, rfl, rfl⟩ rfl (fun ha => ?_) ?_
    · rw [capName_eq_isS2] at ha
      exact operandFault_none (fieldFault_scalar (by simp [hd, isS]) (by simp [hd, isS])) (fieldFault_scalar (isS_of_isS2 ha) ha)
        (fieldFault_unused _ _ _ _) (fieldFault_unused _ _ _ _)
    · rw [Ctx.cget, uniform_runs issuing, capField_eq]
      rfl
  next => nomatch h

theorem cchk_after (h : capEffectOf c (.cchk f) = some e) (hi : Issuing s c e.form.guard) (hok : e.ok = true) :
    ∃ t, exec (.cchk f) s = .next t ∧ After s c e.form e.aw e.own e.upd t := by
  simp only [capEffectOf] at h
  split at h
  next n hd =>
    obtain rfl := Option.some.inj h
    have issuing : Issuing s c f.guard := hi
    refine issueForm_writes_scalar hd hok issuing ⟨rfl, rfl, rfl, rfl⟩ rfl (fun good => ?_) ?_
    · simp only [Bool.and_eq_true, capName_eq_isS2] at good
      obtain ⟨⟨ha, hb⟩, hc⟩ := good
      exact operandFault_none (fieldFault_scalar (by simp [hd, isS]) (by simp [hd, isS])) (fieldFault_scalar (isS_of_isS2 ha) ha)
        (fieldFault_uniform hb) (fieldFault_uniform hc)
    · rw [Ctx.cchk, uniform_runs issuing]
      rfl
  next => nomatch h

theorem cmint_after (h : mintEffect c (.cmint f) = some e) (hi : Issuing s c e.form.guard) (hok : e.ok = true) :
    ∃ t, exec (.cmint f) s = .next t ∧ After s c e.form e.aw e.own e.upd t := by
  refine issueForm_writes_cap h hok hi ⟨rfl, rfl, rfl, rfl⟩ (fun good _ => ?_) (fun good dest => ?_) fun good _ => ?_
  all_goals
    simp only [Bool.and_eq_true, decide_eq_true_eq] at good
    obtain ⟨⟨⟨⟨⟨⟨sys, ha⟩, hb⟩, hc⟩, len⟩, rest⟩, formed⟩ := good
  · exact sys
  · exact operandFault_none (fieldFault_scalar (isS_of_isS2 dest) dest) (fieldFault_uniform ha) (fieldFault_uniform hb)
      (fieldFault_uniform hc)
  · have fields := minted_eq_capOf (c.number f f.a) (c.number f f.b) (c.number f f.c)
    have noLen : c.number f f.b / 2 ^ 40 = 0 := Nat.div_eq_of_lt len
    have noRest : c.number f f.c / 2 ^ 24 = 0 := Nat.div_eq_of_lt rest
    have whole : (minted (c.number f f.a) (c.number f f.b) (c.number f f.c)).formed = true := fields ▸ formed
    rw [Ctx.cmint]
    simp only [noLen, noRest, whole, ne_eq, not_true_eq_false, Bool.not_true, Bool.false_eq_true, or_self, if_false]
    rw [fields]
    rfl

end

/-- Settles O12: each of the five instructions writes the manual's result once for its group, where its operands are good. -/
theorem capabilityResults : Obligations.CapabilityResults := by
  rintro i e s c (h | h) hi hok
  · cases i with
    | cnar f => exact cnar_after h hi hok
    | cperm f => exact cperm_after h hi hok
    | cget f => exact cget_after h hi hok
    | cchk f => exact cchk_after h hi hok
    | _ => nomatch h
  · cases i with
    | cmint f => exact cmint_after h hi hok
    | _ => nomatch h

end Sys2Proof.Machine
end

section
/-! PROOFS. Stores to scratchpads: what one of them changes, and what several leave, one after another (R81, R201, R205). -/

namespace Sys2Proof.Machine

open Sys2Proof Sys2Proof.Claims

/-! ### One store to a scratchpad (R81, R205) -/

/-- Scratchpads that no uncovered operation or POOL request writes and in which no object is armed. -/
structure SpadsCalm (s : State) : Prop where
  wf      : ∀ k, Memory.wf (s.core k).spad = true
  free    : s.owning = []
  unarmed : ∀ k, (s.core k).armed = []

/-- A core after a store to its scratchpad: the bytes, and the tags of the granules that it meets. -/
def Core.stored (k : Core) (off : Nat) (bs : List Byte) (tag : Bool) : Core :=
  { k with spad := cwrite k.spad off bs,
           stags := if tag then sins (untag k.stags off bs.length) (off / 16) else untag k.stags off bs.length }

theorem mget_mem {α : Type} {m : NMap α} {k : Nat} {v : α} (h : mget m k = some v) : (k, v) ∈ m := by
  induction m with
  | nil => exact nomatch h
  | cons x r ih =>
    obtain ⟨j, a⟩ := x
    unfold mget at h
    split at h
    next hj => subst hj; obtain rfl := Option.some.inj h; exact List.mem_cons_self
    next => exact List.mem_cons_of_mem _ (ih h)

/-- A state whose memories have the canonical form has every scratchpad in it, those of cores without an entry too. -/
theorem spads_wf {s : State} (h : MemoriesWf s) (k : Nat) : Memory.wf (s.core k).spad = true := by
  obtain ⟨-, hcores⟩ := h
  unfold State.core mgetD
  cases hk : mget s.cores k with
  | none => rfl
  | some core => exact hcores _ (mget_mem hk)

/-- No uncovered operation owns scratchpad bytes or a pool object exactly when none outstanding does (R140, R237). -/
theorem owning_eq_nil_iff {s : State} :
    s.owning = [] ↔ ∀ x ∈ s.groups, ∀ p ∈ x.2.pend, p.owns = [] ∧ p.poolCap = none := by
  simp only [State.owning, List.flatten_eq_nil_iff, List.mem_map, forall_exists_index, and_imp, forall_apply_eq_imp_iff₂,
    List.filter_eq_nil_iff]
  simp

theorem poolsHeld_of_owning_nil {s : State} (h : s.owning = []) : s.poolsHeld = [] := by
  simp only [State.poolsHeld, List.flatten_eq_nil_iff, List.mem_map, forall_exists_index, and_imp, forall_apply_eq_imp_iff₂,
    List.map_eq_nil_iff, List.filterMap_eq_nil_iff]
  exact fun x hx p hp => (owning_eq_nil_iff.1 h x hx p hp).2

/-- Where no operation owns scratchpad bytes, the write is the plain one. -/
theorem spadTake_of_owning_nil {s : State} (h : s.owning = []) (core off : Nat) (bs : List Byte) :
    s.spadTake none core off bs = s.spadWrite core off bs := by
  have none_owns (other : GRef → Pend → Bool) :
      (s.groups.map fun g => g.2.pend.filter fun p => !p.owns.isEmpty && other (grefOf g.1) p).flatten = [] := by
    simp only [List.flatten_eq_nil_iff, List.mem_map, forall_exists_index, and_imp, forall_apply_eq_imp_iff₂, List.filter_eq_nil_iff]
    intro x hx p hp
    simp [(owning_eq_nil_iff.1 h x hx p hp).1]
  simp only [State.spadTake]
  rw [none_owns fun r p => !(none : Option (GRef × Nat)).any fun m => m.1 == r && m.2 == p.id]
  rfl

/-- A plain write where nothing is armed. -/
theorem spadWrite_of_unarmed {s : State} {core : Nat} (h : (s.core core).armed = []) (off : Nat) (bs : List Byte) :
    s.spadWrite core off bs = s.modCore core fun k => k.spadPut off bs := by
  have unarmed : ((s.modCore core fun k => k.spadPut off bs).core core).armed = [] := by
    rw [State.modCore_core, if_pos rfl]
    exact h
  simp only [State.spadWrite, unarmed, List.isEmpty_nil, if_true]

/-- A group's own store changes its core alone, besides the note of what it has replaced. -/
theorem spadPutStore_calm {s : State} (h : SpadsCalm s) (by_ : Option Gid) (core off : Nat) (bs : List Byte) (tag : Bool) :
    s.spadPutStore by_ core off bs tag = (s.noteOld by_ core off bs).modCore core fun k => k.stored off bs tag := by
  obtain ⟨-, free, unarmed⟩ := h
  have wrote : s.spadStore core off bs by_ = (s.noteOld by_ core off bs).modCore core fun k => k.spadPut off bs := by
    have noted : (s.noteOld by_ core off bs).owning = [] := free
    rw [State.spadStore, spadTake_of_owning_nil noted, spadWrite_of_unarmed (by exact unarmed core)]
  simp only [State.spadPutStore, poolsHeld_of_owning_nil free, List.map_nil, List.filter_nil, List.flatten_nil, List.foldl_nil, free,
    List.any_nil, Bool.not_false, Bool.and_true, wrote]
  cases tag
  · rfl
  · simp only [if_true, State.modCore, State.setCore, State.core, mgetD_mset_same, mset_mset]
    rfl

/-! ### Stores through SPD and DSP, one after another -/

/-- A store lands in a scratchpad whatever the state: the paths SPD and DSP depend on the address and its origin alone (R201, R206). -/
def Lands (o : Origin) (x : Put) (p : Nat × Nat) : Prop :=
  ∃ d, ∀ s : State, s.path o .store x.addr x.bs.length = some (.spad p.1 p.2 d)

theorem putDirect_spad {o : Origin} {x : Put} {p : Nat × Nat} (hx : Lands o x p) {s : State} (h : SpadsCalm s) (pc : DWord) :
    ∃ olds, s.putDirect o pc x = { s with spadOld := olds }.modCore p.1 fun k => k.stored p.2 x.bs x.tag := by
  obtain ⟨d, hpath⟩ := hx
  simp only [State.putDirect, hpath, spadPutStore_calm h]
  exact ⟨_, rfl⟩

theorem putDirect_core {o : Origin} {x : Put} {p : Nat × Nat} (hx : Lands o x p) {s : State} (h : SpadsCalm s) (pc : DWord) (k : Nat) :
    (s.putDirect o pc x).core k = if k = p.1 then (s.core p.1).stored p.2 x.bs x.tag else s.core k := by
  obtain ⟨olds, put⟩ := putDirect_spad hx h pc
  rw [put, State.modCore_core]
  rfl

theorem putDirect_rest {o : Origin} {x : Put} {p : Nat × Nat} (hx : Lands o x p) {s : State} (h : SpadsCalm s) (pc : DWord) :
    (s.putDirect o pc x).groups = s.groups ∧ (s.putDirect o pc x).mem = s.mem ∧ (s.putDirect o pc x).mtags = s.mtags := by
  obtain ⟨olds, put⟩ := putDirect_spad hx h pc
  rw [put]
  exact ⟨rfl, rfl, rfl⟩

theorem putDirect_calm {o : Origin} {x : Put} {p : Nat × Nat} (hx : Lands o x p) {s : State} (h : SpadsCalm s) (pc : DWord) :
    SpadsCalm (s.putDirect o pc x) := by
  obtain ⟨hgroups, -, -⟩ := putDirect_rest hx h pc
  refine ⟨fun k => ?_, ?_, fun k => ?_⟩
  · rw [putDirect_core hx h]
    split
    · exact wf_cwrite (h.wf _) _ _
    · exact h.wf k
  · simpa only [State.owning, hgroups] using h.free
  · rw [putDirect_core hx h]
    split
    · exact h.unarmed p.1
    · exact h.unarmed k

section
variable {o : Origin} {at_ : Put → Option (Nat × Nat)} {xs : List Put} {s : State}

/-- Stores to scratchpads leave the groups, memory and its tags alone. -/
theorem foldl_putDirect_rest (hat : ∀ x ∈ xs, ∃ p, at_ x = some p ∧ Lands o x p) (h : SpadsCalm s) (pc : DWord) :
    (xs.foldl (State.putDirect o pc) s).groups = s.groups ∧ (xs.foldl (State.putDirect o pc) s).mem = s.mem ∧
      (xs.foldl (State.putDirect o pc) s).mtags = s.mtags := by
  induction xs generalizing s with
  | nil => exact ⟨rfl, rfl, rfl⟩
  | cons x xs ih =>
    obtain ⟨p, -, hx⟩ := hat x List.mem_cons_self
    obtain ⟨hgroups, hmem, htags⟩ := putDirect_rest hx h pc
    obtain ⟨hgroups', hmem', htags'⟩ := ih (fun y hy => hat y (List.mem_cons_of_mem _ hy)) (putDirect_calm hx h pc)
    exact ⟨hgroups'.trans hgroups, hmem'.trans hmem, htags'.trans htags⟩

/-- A byte after one store: the store's where it reaches, else as before. -/
theorem putDirect_byte {x : Put} {p : Nat × Nat} (hp : at_ x = some p) (hx : Lands o x p) (h : SpadsCalm s) (pc : DWord) (k n : Nat) :
    cget ((s.putDirect o pc x).core k).spad n = (lastByte at_ k n [x]).getD (cget (s.core k).spad n) := by
  obtain ⟨j, off⟩ := p
  rw [putDirect_core hx h]
  simp only [lastByte, hp]
  by_cases hk : k = j
  · subst hk
    simp only [if_true, Core.stored, cget_cwrite (h.wf k), true_and]
    by_cases hlo : off ≤ n
    · by_cases hhi : n < off + x.bs.length
      · have within : n - off < x.bs.length := by omega
        simp [hlo, hhi, within]
      · have beyond : x.bs.length ≤ n - off := by omega
        simp [hlo, hhi, beyond]
    · simp [hlo]
  · simp [hk, Ne.symm hk]

/-- Of the stores to a byte the last counts (R225). -/
theorem lastByte_cons (x : Put) (k n : Nat) (d : Byte) :
    (lastByte at_ k n (x :: xs)).getD d = (lastByte at_ k n xs).getD ((lastByte at_ k n [x]).getD d) := by
  rw [lastByte]
  cases lastByte at_ k n xs <;> rfl

theorem foldl_putDirect_byte (hat : ∀ x ∈ xs, ∃ p, at_ x = some p ∧ Lands o x p) (h : SpadsCalm s) (pc : DWord) (k n : Nat) :
    cget ((xs.foldl (State.putDirect o pc) s).core k).spad n = (lastByte at_ k n xs).getD (cget (s.core k).spad n) := by
  induction xs generalizing s with
  | nil => rfl
  | cons x xs ih =>
    obtain ⟨p, hp, hx⟩ := hat x List.mem_cons_self
    rw [List.foldl_cons, ih (fun y hy => hat y (List.mem_cons_of_mem _ hy)) (putDirect_calm hx h pc), putDirect_byte hp hx h,
      ← lastByte_cons]

/-- Does a store meet a granule? -/
def meetsGranule (at_ : Put → Option (Nat × Nat)) (k n : Nat) (x : Put) : Bool :=
  match at_ x with
  | some (j, off) => j == k && (granules off x.bs.length).contains n
  | none => false

/-- A granule's tag after one store: set by a tagged pair, else clear where the store meets it. -/
theorem putDirect_tag {x : Put} {p : Nat × Nat} (hp : at_ x = some p) (hx : Lands o x p) (h : SpadsCalm s) (pc : DWord)
    (haligned : x.tag = true → p.2 % 16 = 0) (k n : Nat) :
    ((s.putDirect o pc x).core k).stags.contains n =
      ((x.tag && at_ x == some (k, 16 * n)) || ((s.core k).stags.contains n && !meetsGranule at_ k n x)) := by
  obtain ⟨j, off⟩ := p
  rw [putDirect_core hx h, meetsGranule, hp]
  by_cases hk : k = j
  · subst hk
    have untagged : (untag (s.core k).stags off x.bs.length).contains n =
        ((s.core k).stags.contains n && !(granules off x.bs.length).contains n) := by
      rw [Bool.eq_iff_iff]
      simp [untag]
    cases htag : x.tag
    · simpa [Core.stored] using untagged
    · have granule : n = off / 16 ↔ off = 16 * n := by have := haligned htag; simp only at this; omega
      rw [Bool.eq_iff_iff] at untagged ⊢
      simp only [List.contains_iff_mem] at untagged
      simp [Core.stored, mem_sins, untagged, granule, or_comm]
  · have other : (j == k) = false := by simpa using Ne.symm hk
    have place : (some (j, off) == some (k, 16 * n)) = false := by simp [Ne.symm hk]
    simp [hk, other, place]

/-- Stores of untagged data clear the tags of the granules that they meet (R81). -/
theorem foldl_putDirect_untag (hat : ∀ x ∈ xs, ∃ p, at_ x = some p ∧ Lands o x p) (hplain : ∀ x ∈ xs, x.tag = false)
    (h : SpadsCalm s) (pc : DWord) (k n : Nat) : ((xs.foldl (State.putDirect o pc) s).core k).stags.contains n =
      ((s.core k).stags.contains n && !xs.any (meetsGranule at_ k n)) := by
  induction xs generalizing s with
  | nil => simp
  | cons x xs ih =>
    obtain ⟨p, hp, hx⟩ := hat x List.mem_cons_self
    have plain := hplain x List.mem_cons_self
    rw [List.foldl_cons, ih (fun y hy => hat y (List.mem_cons_of_mem _ hy)) (fun y hy => hplain y (List.mem_cons_of_mem _ hy))
      (putDirect_calm hx h pc), putDirect_tag hp hx h pc (by simp [plain])]
    simp [plain, Bool.and_assoc]

/-- The tags after an instruction's stores, which are untagged, or one of a pair. -/
theorem foldl_putDirect_tag (hat : ∀ x ∈ xs, ∃ p, at_ x = some p ∧ Lands o x p)
    (htags : (∀ x ∈ xs, x.tag = false) ∨ ∃ x, xs = [x] ∧ ∀ p, at_ x = some p → p.2 % 16 = 0) (h : SpadsCalm s) (pc : DWord)
    (k n : Nat) :
    ((xs.foldl (State.putDirect o pc) s).core k).stags.contains n =
      ((xs.any fun x => x.tag && at_ x == some (k, 16 * n)) || ((s.core k).stags.contains n && !xs.any (meetsGranule at_ k n))) := by
  rcases htags with hplain | ⟨x, rfl, haligned⟩
  · have untagged : (xs.any fun x => x.tag && at_ x == some (k, 16 * n)) = false := by
      rw [List.any_eq_false]
      intro x hx
      simp [hplain x hx]
    rw [foldl_putDirect_untag hat hplain h, untagged, Bool.false_or]
  · obtain ⟨p, hp, hx⟩ := hat x List.mem_cons_self
    simpa using putDirect_tag hp hx h pc (fun _ => haligned p hp) k n

end

end Sys2Proof.Machine
end

section
/-! PROOFS. What translation leaves alone: it fills the TLBs, marks pages, and asks for moves, pulls and host pages, and no group changes
(R211 to R221, R400, R416). -/

namespace Sys2Proof.Machine

open Sys2Proof Sys2Proof.Claims

@[simp] theorem State.tlbFill_groups (s : State) (w : Who) (va : Nat) (l : Leaf) : (s.tlbFill w va l).groups = s.groups := by
  unfold State.tlbFill
  extract_lets vpn ent q l2 s1
  have filled : s1.groups = s.groups := by
    unfold s1
    split <;> rfl
  split <;> exact filled

@[simp] theorem State.setDirtyBit_groups (s : State) (part n : Nat) : (s.setDirtyBit part n).groups = s.groups := by
  unfold State.setDirtyBit
  split
  · rfl
  · split
    · rfl
    · split <;> rfl

@[simp] theorem State.markWrite_groups (s : State) (w : Who) (va e : Nat) (loc : Loc) :
    (s.markWrite w va e loc).groups = s.groups := by
  unfold State.markWrite
  extract_lets s1 s2 up s3
  have noted : s1.groups = s.groups := by
    unfold s1
    split
    · split <;> rfl
    · rfl
  have set : s3.groups = s.groups := by
    have entry : s2.groups = s1.groups := by
      unfold s2
      split <;> rfl
    exact entry.trans noted
  split
  · exact noted
  · split
    · exact set
    · split
      · exact (State.setDirtyBit_groups _ _ _).trans set
      · exact set

@[simp] theorem State.requestMove_groups (s : State) (ten page : Nat) (m : PageMove) :
    (s.requestMove ten page m).groups = s.groups := by
  unfold State.requestMove
  split
  · extract_lets last
    split <;> rfl
  · split
    · rfl
    · split
      · rfl
      · split <;> rfl

@[simp] theorem State.meetRemote_groups (s : State) (ten page dev : Nat) : (s.meetRemote ten page dev).1.groups = s.groups := by
  unfold State.meetRemote State.startPull
  split
  · rfl
  · split
    · rfl
    · dsimp only
      split <;> rfl

@[simp] theorem State.meetLeaf_groups (s : State) (w : Who) (acc : Access) (ext : Bool) (va : Nat) (l : Leaf) :
    (s.meetLeaf w acc ext va l).1.groups = s.groups := by
  unfold State.meetLeaf
  extract_lets page loc filled
  split
  · split <;> simp
  · rfl
  · split
    · rfl
    · split
      · simp
      · dsimp only
        split <;> simp [filled]

@[simp] theorem State.hostRegion_groups (s : State) (w : Who) (pasid : Nat) (acc : Access) (va : Nat) :
    (s.hostRegion w pasid acc va).1.groups = s.groups := by
  unfold State.hostRegion
  extract_lets a page wr h
  split
  · split
    · rfl
    · split
      · split
        · rfl
        · split <;> rfl
      · extract_lets o
        split
        · rfl
        · split
          · rfl
          · split
            · exact State.requestMove_groups ..
            · rfl
            · split
              · rfl
              · dsimp only
                split
                · exact State.markWrite_groups ..
                · rfl
  · split
    · rfl
    · split
      · rfl
      · split <;> rfl

/-- A translation changes no group. -/
@[simp] theorem State.translate_groups (s : State) (w : Who) (acc : Access) (va : Nat) : (s.translate w acc va).1.groups = s.groups := by
  unfold State.translate
  split
  · exact State.hostRegion_groups ..
  · split
    · rfl
    · exact State.meetLeaf_groups ..

@[simp] theorem State.place_groups (s : State) (o : Origin) (acc : Access) (a n : Nat) :
    (s.place o acc a n).1.groups = s.groups := by
  unfold State.place
  dsimp only
  split
  next va _ =>
    have moved := State.translate_groups s o.who acc va
    rcases htr : s.translate o.who acc va with ⟨u, tr⟩
    rw [htr] at moved
    cases tr <;> exact moved
  next => rfl
  next => rfl

/-- Finding the places of stores changes no group. -/
@[simp] theorem State.places_groups (s : State) (o : Origin) (acc : Access) (xs : List Put) :
    (s.places o acc xs).1.groups = s.groups := by
  induction xs generalizing s with
  | nil => rfl
  | cons x xs ih => exact (ih _).trans (State.place_groups ..)

end Sys2Proof.Machine
end

section
/-! PROOFS. The stores of one instruction: which addresses name a scratchpad, and what becomes of the stores beside the publication buffer
and of those that enter it (R198 to R201, R206, R225). -/

namespace Sys2Proof.Machine

open Sys2Proof Sys2Proof.Claims

/-! ### The paths SPD and DSP (R201, R206) -/

theorem regTarget_ne_spad (s : State) (o : Origin) (a n k off : Nat) (d : Bool) : s.regTarget o a n ≠ some (.spad k off d) := by
  unfold State.regTarget
  extract_lets r lane w m
  split
  · simp
  · split
    · simp
    · extract_lets own t
      split
      · simp
      · split <;> split <;> simp

theorem sysTarget_ne_spad (s : State) (o : Origin) (a n k off : Nat) (d : Bool) : s.sysTarget o a n ≠ some (.spad k off d) := by
  unfold State.sysTarget
  split
  · simp
  · split
    · simp
    · simp
    · extract_lets core part frozen
      split
      · simp
      · split <;> simp
    · simp

/-- What names a scratchpad byte: SPD or DSP, the same in every state; the offset is the address's low bits. -/
theorem target_spad {s : State} {o : Origin} {a n k off : Nat} {d : Bool} (h : s.target o a n = some (.spad k off d)) :
    (pathOf a = 2 ∨ pathOf a = 4) ∧ off = slice a 21 0 ∧ ∀ u : State, u.target o a n = some (.spad k off d) := by
  have same (hpath : pathOf a = 2 ∨ pathOf a = 4) (u : State) : u.target o a n = s.target o a n := by
    rcases hpath with hpath | hpath <;> simp only [State.target, hpath]
  have named : (pathOf a = 2 ∨ pathOf a = 4) ∧ off = slice a 21 0 := by
    -- the cases are the paths in their order: GEN, CON, SPD, SPZ, DSP, REG, DAP, PEER, SYS, and none
    unfold State.target at h
    split at h
    case h_3 hpath =>
      split at h
      · obtain ⟨-, rfl, -⟩ := by simpa using h
        exact ⟨.inl hpath, rfl⟩
      · exact nomatch h
    case h_5 hpath =>
      split at h
      · exact nomatch h
      · dsimp only at h
        split at h
        · exact nomatch h
        · obtain ⟨-, rfl, -⟩ := by simpa using h
          exact ⟨.inr hpath, rfl⟩
    case h_1 | h_2 | h_7 => split at h <;> simp at h
    case h_4 =>
      split at h
      · exact nomatch h
      · dsimp only at h
        split at h <;> simp at h
    case h_6 => exact (regTarget_ne_spad _ _ _ _ _ _ _ h).elim
    case h_8 =>
      dsimp only at h
      split at h <;> simp at h
    case h_9 => exact (sysTarget_ne_spad _ _ _ _ _ _ _ h).elim
    case h_10 => exact nomatch h
  obtain ⟨hpath, hoff⟩ := named
  exact ⟨hpath, hoff, fun u => (same hpath u).trans h⟩

/-- The path test only refuses what an address names (R199). -/
theorem target_of_path {s : State} {o : Origin} {acc : Access} {a n : Nat} {t : Target} (h : s.path o acc a n = some t) :
    s.target o a n = some t := by
  cases ht : s.target o a n with
  | none => simp [State.path, ht] at h
  | some u =>
    simp only [State.path, ht, Option.ite_none_right_eq_some] at h
    exact h.2

theorem path_spad {s : State} {o : Origin} {a n k off : Nat} {d : Bool} (h : s.path o .store a n = some (.spad k off d)) :
    (pathOf a = 2 ∨ pathOf a = 4) ∧ off = slice a 21 0 ∧ ∀ u : State, u.path o .store a n = some (.spad k off d) := by
  obtain ⟨hpath, hoff, everywhere⟩ := target_spad (target_of_path h)
  refine ⟨hpath, hoff, fun u => ?_⟩
  simp [State.path, everywhere u, Target.storable]

/-- A store that the statement places in a scratchpad lands there, beside the publication buffer, at its address's low bits. -/
theorem spadAt_lands {s : State} {c : Ctx} {x : Put} {p : Nat × Nat} (h : spadAt s c x = some p) :
    Lands (s.origin c.r c.g) x p ∧ buffered x.addr = false ∧ p.2 = slice x.addr 21 0 := by
  unfold spadAt at h
  split at h
  next k off d hp =>
    obtain rfl := Option.some.inj h
    obtain ⟨hpath, hoff, everywhere⟩ := path_spad hp
    refine ⟨⟨d, everywhere⟩, ?_, hoff⟩
    rcases hpath with hpath | hpath <;> simp [buffered, hpath]
  next => nomatch h

/-! ### The stores of one instruction (R225, R200) -/

/-- Stores to scratchpads are performed at once, one after another. -/
theorem store_direct {s : State} {c : Ctx} {xs : List Put} (hlands : ∀ x ∈ xs, ∃ p, Lands (s.origin c.r c.g) x p)
    (hdirect : ∀ x ∈ xs, buffered x.addr = false) (all : LaneMask) (kind : Nat) :
    c.store all kind s xs = .next (xs.foldl (State.putDirect (s.origin c.r c.g) c.pc) s) := by
  have none_buffered : (xs.filter fun x => buffered x.addr) = [] := by
    rw [List.filter_eq_nil_iff]
    intro x hx
    simp [hdirect x hx]
  have all_direct : (xs.filter fun x => !buffered x.addr) = xs := by
    rw [List.filter_eq_self]
    intro x hx
    simp [hdirect x hx]
  have none_waits : (xs.any fun x => (s.putWaits (s.origin c.r c.g) x).2) = false := by
    rw [List.any_eq_false]
    intro x hx
    obtain ⟨p, d, hpath⟩ := hlands x hx
    simp [State.putWaits, hpath]
  simp [Ctx.store, none_buffered, all_direct, State.places, none_waits, allPlaced]

theorem foldl_add_eq_sum {α : Type} (f : α → Nat) (xs : List α) (n : Nat) : xs.foldl (fun n x => n + f x) n = n + (xs.map f).sum := by
  induction xs generalizing n with
  | nil => rfl
  | cons x xs ih => simp [ih, Nat.add_assoc]

theorem pubUsed_eq_sum (es : List PubEntry) : pubUsed es = (es.map (·.bytes.length)).sum := by
  simp [pubUsed, foldl_add_eq_sum]

/-- Stores that have all found their places enter the publication buffer, where it has room. -/
theorem store_buffered {s s1 : State} {c : Ctx} {xs : List Put} {ls : List Loc} (hbuf : ∀ x ∈ xs, buffered x.addr = true)
    (hlen : ls.length = xs.length)
    (hplaces : s.places (s.origin c.r c.g) .store xs = (s1, (xs.zip ls).map fun x => (x.1, .ok x.2)))
    (hroom : ((s.core c.r.core).pub.map (·.bytes.length)).sum + (xs.map (·.bs.length)).sum ≤ 65536) (all : LaneMask) (kind : Nat) :
    c.store all kind s xs = .next (((xs.zip ls).map fun x => (x.1, Except.ok x.2)).foldl c.putBuffer s1) := by
  have none_direct : (xs.filter fun x => !buffered x.addr) = [] := by
    rw [List.filter_eq_nil_iff]
    intro x hx
    simp [hbuf x hx]
  have all_buffered : (xs.filter fun x => buffered x.addr) = xs := List.filter_eq_self.2 hbuf
  have placed : allPlaced ((xs.zip ls).map fun x => (x.1, Except.ok x.2)) = true := by
    simp [allPlaced]
  have bytes : (((xs.zip ls).map fun x => (x.1, (Except.ok x.2 : Except PutMiss Loc))).foldl (fun n x => n + x.1.bs.length) 0) =
      (xs.map (·.bs.length)).sum := by
    have stores : ((xs.zip ls).map Prod.fst) = xs := List.map_fst_zip (Nat.le_of_eq hlen.symm)
    have lengths : (xs.map (·.bs.length)) = (xs.zip ls).map fun x => x.1.bs.length :=
      calc xs.map (·.bs.length) = ((xs.zip ls).map Prod.fst).map (·.bs.length) := by rw [stores]
        _ = (xs.zip ls).map fun x => x.1.bs.length := List.map_map
    rw [foldl_add_eq_sum, Nat.zero_add, List.map_map, lengths]
    rfl
  have room : ¬ (pubUsed (s.core c.r.core).pub + (xs.map (·.bs.length)).sum > Config.pubBytes) := by
    rw [pubUsed_eq_sum]
    exact Nat.not_lt.2 hroom
  simp only [Ctx.store, none_direct, all_buffered, hplaces, List.any_nil, Bool.false_eq_true, if_false, placed, if_true, bytes, room,
    List.foldl_nil, decide_false, Bool.and_false]

/-- The entries stand at the buffer's end, in the order of the stores. -/
theorem foldl_putBuffer {c : Ctx} (xs : List Put) (ls : List Loc) (es : List PubEntry) (s : State) :
    ((xs.zip ls).map fun x => (x.1, Except.ok x.2)).foldl c.putBuffer (s.modCore c.r.core fun k => { k with pub := k.pub ++ es }) =
      s.modCore c.r.core fun k => { k with pub := k.pub ++ (es ++ pubOf c xs ls) } := by
  induction xs generalizing ls es with
  | nil => simp [pubOf]
  | cons x xs ih =>
    cases ls with
    | nil => simp [pubOf]
    | cons l ls =>
      have entered : c.putBuffer (s.modCore c.r.core fun k => { k with pub := k.pub ++ es }) (x, .ok l) =
          s.modCore c.r.core fun k => { k with pub := k.pub ++ (es ++ pubOf c [x] [l]) } := by
        simp [Ctx.putBuffer, State.modCore, State.setCore, State.core, pubOf]
      rw [List.zip_cons_cons, List.map_cons, List.foldl_cons, entered, ih, List.append_assoc]
      rfl

theorem putBuffer_all {c : Ctx} {xs : List Put} {ls : List Loc} (hne : xs ≠ []) (hlen : ls.length = xs.length) (s : State) :
    ((xs.zip ls).map fun x => (x.1, Except.ok x.2)).foldl c.putBuffer s =
      s.modCore c.r.core fun k => { k with pub := k.pub ++ pubOf c xs ls } := by
  obtain ⟨x, xs, rfl⟩ := List.exists_cons_of_ne_nil hne
  obtain ⟨l, ls, rfl⟩ := List.exists_cons_of_length_eq_add_one hlen
  exact foldl_putBuffer xs ls (pubOf c [x] [l]) s

end Sys2Proof.Machine
end

section
/-! PROOFS. ST and STK: how a store is issued, with which lanes, addresses, bytes and tags, and where these end (R81, R223, R225, R227). -/

namespace Sys2Proof.Machine

open Sys2Proof Sys2Proof.Claims

/-! ### Issuing a store (R223, R225, R227) -/

/-- A source that a thread may read raises no fault where the field admits it. -/
theorem fieldFault_source {g : Group} {lit : Option DWord} {w idx : Nat} {ok : Opnd → Bool} {o : Opnd} (h : threadSource g lit w o = true)
    (hok : ok o = true) : fieldFault g lit.isSome idx (srcF ok) o = none := by
  cases o with
  | l n =>
    have fresh : (g.latches.getD n.val Latch.empty).inRange = true := h
    simpa [fieldFault, srcF, hok] using fresh
  | lit =>
    have given : lit.isSome = true := h
    simp [fieldFault, srcF, hok, given]
  | rsv _ => exact Bool.noConfusion h
  | v _ | s _ | zero | lane => simp [fieldFault, srcF, hok]

theorem isAny_of_threadSource {g : Group} {lit : Option DWord} {w : Nat} {o : Opnd} (h : threadSource g lit w o = true) :
    isAny o = true := by
  cases o with
  | rsv _ => exact Bool.noConfusion h
  | _ => rfl

theorem accessBytes_cases (f : Form) :
    accessBytes f = 1 ∨ accessBytes f = 2 ∨ accessBytes f = 4 ∨ accessBytes f = 8 ∨ accessBytes f = 16 := by
  unfold accessBytes
  split <;> simp

/-- The n low bytes of a number are those of its remainder. -/
theorem leBytes_mod (n v : Nat) : leBytes n (v % 2 ^ (8 * n)) = leBytes n v := by
  induction n generalizing v with
  | zero => rfl
  | succ n ih =>
    have split : 2 ^ (8 * (n + 1)) = 256 * 2 ^ (8 * n) := by rw [Nat.mul_add, Nat.pow_add]; omega
    have low : BitVec.ofNat 8 (v % (256 * 2 ^ (8 * n))) = BitVec.ofNat 8 v := by
      apply BitVec.eq_of_toNat_eq
      simp
    rw [leBytes, leBytes, split, low, Nat.mod_mul_right_div_self, ih]

/-- The data that a thread stores, as the manual gives them (R223). -/
def storedValue (c : Ctx) (f : Form) (l : Nat) : Nat :=
  match f.d with
  | .v k => ((List.range ((accessBytes f + 3) / 4)).map fun i =>
      (c.g.word c.tk l ((c.g.thread l).wb + k.val + i)).toNat * 2 ^ (32 * i)).foldl (· + ·) 0
  | .s k => (c.g.scalar c.tk k.val).toNat + (if accessBytes f = 16 then (c.g.scalar c.tk (k.val + 1)).toNat * 2 ^ 64 else 0)
  | .zero => 0
  | .lane => l
  | o => c.g.read c.tk f.lit (if accessBytes f < 8 then 32 else 64) l o

/-- In an ordinary grid a vector register is one word of the stack. -/
theorem read_vec {g : Group} (hp : g.lpass = false) (tk : Nat) (lit : Option DWord) (l : Nat) (m : Fin 32) :
    g.read tk lit 32 l (.v m) = (g.word tk l ((g.thread l).wb + m.val)).toNat := by
  simp [Group.read, Group.readIv, hp, Group.wordOf, Group.regWords, Iv.pt]

/-- A pair is two. -/
theorem read_pair {g : Group} (hp : g.lpass = false) (tk : Nat) (lit : Option DWord) (l : Nat) (m : Fin 32) :
    g.read tk lit 64 l (.v m) = (g.word tk l ((g.thread l).wb + m.val)).toNat +
      (g.word tk l ((g.thread l).wb + m.val + 1)).toNat * 2 ^ 32 := by
  simp [Group.read, Group.readIv, hp, Group.wordOf, Group.regWords, Iv.pt]

/-- Two words, or four, one above the other in base B, as the pairs that the model reads. -/
theorem sum_two_words (w : Nat → Nat) (B : Nat) : ((List.range 2).map fun i => w i * B ^ i).foldl (· + ·) 0 = w 0 + w 1 * B := by
  simp [List.range_succ]

theorem sum_four_words (w : Nat → Nat) (B : Nat) :
    ((List.range 4).map fun i => w i * B ^ i).foldl (· + ·) 0 = w 0 + w 1 * B + (w 2 + w 3 * B) * B ^ 2 := by
  have cube : w 3 * B * B ^ 2 = w 3 * B ^ 3 := by rw [Nat.mul_assoc, Nat.pow_succ B 2, Nat.mul_comm B]
  simp [List.range_succ, Nat.add_mul, cube, Nat.add_assoc]

/-- Two or four vector registers hold the manual's words, one above the other (R223). -/
theorem storeData_wide {c : Ctx} {f : Form} {k : Fin 32} (hp : c.g.lpass = false) (hd : f.d = .v k)
    (hreg : isData (accessBytes f) f.d = true) (hn : accessBytes f = 8 ∨ accessBytes f = 16) (l : Nat) : c.storeData f l = storedValue c f l := by
  have whole : k.val % 32 = k.val := Nat.mod_eq_of_lt k.isLt
  rcases hn with hn | hn
  · have two : (8 + 3) / 4 = 2 := rfl
    have narrow : ¬ (8 = 16) := by decide
    simp only [Ctx.storeData, storedValue, hd, hn, two, narrow, if_false, if_true, read_pair hp, Nat.add_zero, whole, Nat.pow_mul]
    exact (sum_two_words (fun i => (c.g.word c.tk l ((c.g.thread l).wb + k.val + i)).toNat) (2 ^ 32)).symm
  · have next : (k.val + 2) % 32 = k.val + 2 := by
      have four : k.val % 4 = 0 := by simpa [isData, hn, hd, isS2, isV4] using hreg
      have := k.isLt
      omega
    have four : (16 + 3) / 4 = 4 := rfl
    have square : (2 : Nat) ^ 64 = (2 ^ 32) ^ 2 := by decide
    simp only [Ctx.storeData, storedValue, hd, hn, four, if_true, read_pair hp, Nat.add_zero, whole, next, Nat.pow_mul, square]
    exact (sum_four_words (fun i => (c.g.word c.tk l ((c.g.thread l).wb + k.val + i)).toNat) (2 ^ 32)).symm

/-- The bytes that the model stores are those of the manual's value. -/
theorem storeData_bytes {c : Ctx} {f : Form} (hp : c.g.lpass = false)
    (hreg : (!(isV f.d || isS f.d) || isData (accessBytes f) f.d) = true)
    (hwide : (accessBytes f != 16 || isV f.d || isS f.d || f.d == .zero || f.d == .lane) = true) (l : Nat) :
    leBytes (accessBytes f) (c.storeData f l) = leBytes (accessBytes f) (storedValue c f l % 2 ^ (8 * accessBytes f)) := by
  rw [leBytes_mod]
  cases hd : f.d with
  | v k =>
    by_cases hn : accessBytes f = 8 ∨ accessBytes f = 16
    · rw [storeData_wide hp hd (by simpa [hd, isV] using hreg) hn]
    · obtain ⟨not8, not16⟩ := not_or.1 hn
      have one : (accessBytes f + 3) / 4 = 1 := by
        have := accessBytes_cases f
        omega
      simp only [Ctx.storeData, storedValue, hd, not8, not16, if_false, one, read_vec hp, leBytes_mod]
      simp [Nat.mod_eq_of_lt k.isLt]
  | s k =>
    simp only [Ctx.storeData, storedValue, hd]
    split
    · rfl
    · rw [leBytes_mod, Nat.add_zero]
  | zero | lane => simp only [Ctx.storeData, storedValue, hd]
  | lit | l _ | rsv _ =>
    have not16 : accessBytes f ≠ 16 := by simpa [hd, isV, isS] using hwide
    simp only [Ctx.storeData, storedValue, hd, not16, if_false, leBytes_mod]

/-- A lane's address is the manual's A + B. -/
theorem addr_eq_addrOf (c : Ctx) (f : Form) (l : Nat) : c.addr f l = addrOf c f l := by
  unfold Ctx.addr addrOf addrWidth
  cases f.b <;> rfl

/-- Stores that are aligned and have a path fail no check (R199, R223). -/
theorem no_accessFailure {s : State} {c : Ctx} {xs : List Put} (hfit : storesFit s c xs = true) {x : Put} (hx : x ∈ xs) :
    s.accessFailure (s.origin c.r c.g) .store x.bs.length (x.lane, x.addr) = none := by
  simp only [storesFit, List.all_eq_true, Bool.and_eq_true, beq_iff_eq] at hfit
  obtain ⟨aligned, path⟩ := hfit x hx
  have some_path : (s.path (s.origin c.r c.g) .store x.addr x.bs.length).isNone = false := by
    rw [Option.isNone_eq_false_iff]
    exact path
  simp [State.accessFailure, aligned, some_path]

section
variable {s : State} {c : Ctx} {f : Form} {ok : Bool} {xs : List Put}

/-- The stores of ST as the manual has them (R225). -/
def stPuts (c : Ctx) (f : Form) : List Put :=
  if isUni f.d && isUni f.b then [⟨64, addrOf c f 0, leBytes (accessBytes f) (storedValue c f 0 % 2 ^ (8 * accessBytes f)), false⟩]
  else (c.on f.guard).map fun l => ⟨l, addrOf c f l, leBytes (accessBytes f) (storedValue c f l % 2 ^ (8 * accessBytes f)), false⟩

/-- The conditions on ST's operands. -/
def stGood (c : Ctx) (f : Form) : Bool :=
  isS f.a && threadSource c.g f.lit 32 f.b && threadSource c.g f.lit 32 f.d && (!(isV f.d || isS f.d) || isData (accessBytes f) f.d)
    && (accessBytes f != 16 || isV f.d || isS f.d || f.d == .zero || f.d == .lane)

theorem storeOf_st (c : Ctx) (f : Form) : storeOf c (.st f) = some (f, stGood c f, stPuts c f) := rfl

theorem storeOf_stExtended (c : Ctx) (f : Form) : storeOf c (.stExtended f) = some (f, stGood c f, stPuts c f) := rfl

/-- The one store of STK (R227). -/
def stkPut (c : Ctx) (f : Form) : Put :=
  ⟨64, addrOf c f 0, leBytes 16 (c.g.cap c.tk (f.d.num / 2)).bits.toNat, (c.g.cap c.tk (f.d.num / 2)).tag⟩

theorem storeOf_stk {f' : Form} (h : storeOf c (.stk f) = some (f', ok, xs)) (hok : ok = true) :
    f' = f ∧ xs = [stkPut c f] ∧ isS f.a = true ∧ uniformSource f.lit f.b = true ∧ isS2 f.d = true ∧
      [0, 2, 4].contains (addrOf c f 0 / 2 ^ 60) = true ∧
      ¬ (addrOf c f 0 / 2 ^ 60 = 0 ∧ (c.g.cap c.tk (f.d.num / 2)).tag = true ∧ bit (c.g.cap c.tk (f.d.num / 2)).perm 5 = false) := by
  simp only [storeOf] at h
  split at h
  next k hd =>
    simp only [Option.some.injEq, Prod.mk.injEq] at h
    obtain ⟨rfl, rfl, rfl⟩ := h
    simp only [Bool.and_eq_true] at hok
    obtain ⟨⟨⟨⟨ha, hb⟩, hk⟩, hpath⟩, hglobal⟩ := hok
    refine ⟨rfl, by rw [stkPut, hd]; rfl, ha, hb, by rw [hd]; exact hk, hpath, ?_⟩
    rintro ⟨hgen, htag, hperm⟩
    rw [hd] at htag hperm
    simp only [Opnd.num] at htag hperm
    rw [decide_eq_true hgen, htag, hperm] at hglobal
    exact Bool.noConfusion hglobal
  next => nomatch h

/-- ST's lanes, addresses and bytes in the model are the manual's. -/
theorem puts_eq_stPuts (hi : Issuing s c f.guard) (hgood : stGood c f = true) :
    ((c.askers f (isUni f.d && isUni f.b)).map fun l =>
      (⟨l, c.addr f (l % 64), leBytes (accessBytes f) (c.storeData f (l % 64)), false⟩ : Put)) = stPuts c f := by
  simp only [stGood, Bool.and_eq_true] at hgood
  obtain ⟨⟨-, hreg⟩, hwide⟩ := hgood
  simp only [storeData_bytes hi.plain hreg hwide, addr_eq_addrOf, Ctx.askers, stPuts]
  split
  · rfl
  · refine List.map_congr_left fun l hl => ?_
    obtain ⟨lane, -⟩ := ctx_live hi.ctx (on_sub hl)
    rw [Nat.mod_eq_of_lt lane]

theorem stPuts_length {x : Put} (hx : x ∈ stPuts c f) : x.bs.length = accessBytes f := by
  unfold stPuts at hx
  split at hx
  · obtain rfl := List.mem_singleton.1 hx
    exact Laws.leBytes_length _ _
  · obtain ⟨l, -, rfl⟩ := List.mem_map.1 hx
    exact Laws.leBytes_length _ _

/-- ST with good operands, aligned and with a path for every lane, performs its stores. -/
theorem execSt_stores (hi : Issuing s c f.guard) (hgood : stGood c f = true) (hfit : storesFit s c (stPuts c f) = true) :
    s.issueForm (storeRules f) f (Ctx.storeData_ f) = .next (c.settle s (c.latched f.hold f.a f.lit 64)
      (c.store (maskOf (c.notOff f.guard)) 0 s (stPuts c f))) := by
  have operands : (storeRules f).operandFault c.g f = none := by
    simp only [stGood, Bool.and_eq_true] at hgood
    obtain ⟨⟨⟨⟨ha, hb⟩, hd⟩, hreg⟩, -⟩ := hgood
    have data : isStoreData (accessBytes f) f.d = true := by
      unfold isStoreData
      split
      next h => simpa [h] using hreg
      next => exact isAny_of_threadSource hd
    exact operandFault_none (fieldFault_source hd data) (fieldFault_scalar ha ha)
      (fieldFault_source hb (isAny_of_threadSource hb)) (fieldFault_unused _ _ _ _)
  have some_on : c.notOff f.guard ≠ [] := notOff_eq_on hi.sure ▸ hi.runs
  have no_failure : (stPuts c f).filterMap (fun x => s.accessFailure (s.origin c.r c.g) .store (accessBytes f) (x.lane, x.addr)) = [] := by
    rw [List.filterMap_eq_nil_iff]
    intro x hx
    rw [← stPuts_length hx]
    exact no_accessFailure hfit hx
  have ran : (storeRules f).run f c (Ctx.storeData_ f) s = c.store (maskOf (c.notOff f.guard)) 0 s (stPuts c f) := by
    rw [run_body (fun h => Bool.noConfusion h) (fun h => Bool.noConfusion h) operands (.inr some_on) (fun h => Bool.noConfusion h)
      fun _ => interval_plain hi.plain]
    simp only [Ctx.storeData_, puts_eq_stPuts hi hgood, no_failure, Ctx.failed]
  simp only [State.issueForm, hi.ctx, ran]
  rfl

/-- STK with good operands, aligned and with a path, performs its store. -/
theorem execStk_stores {f' : Form} (hstore : storeOf c (.stk f) = some (f', ok, xs)) (hok : ok = true) (hi : Issuing s c f.guard)
    (hfit : storesFit s c xs = true) :
    exec (.stk f) s = .next (c.settle s (c.latched f.hold f.a f.lit 64) (c.store (maskOf (c.notOff f.guard)) 1 s xs)) := by
  obtain ⟨-, rfl, ha, hb, hd, hpath, hglobal⟩ := storeOf_stk hstore hok
  have operands : (Rules.once false (dstF isS2) (srcF isS) (srcF isUni) none 64).operandFault c.g f = none :=
    operandFault_none (fieldFault_scalar (isS_of_isS2 hd) hd) (fieldFault_scalar ha ha) (fieldFault_uniform hb) (fieldFault_unused _ _ _ _)
  have no_failure : s.accessFailure (s.origin c.r c.g) .store 16 (64, addrOf c f 0) = none := by
    have := no_accessFailure hfit List.mem_cons_self
    rwa [stkPut, Laws.leBytes_length] at this
  have path : pathOf (addrOf c f 0) = addrOf c f 0 / 2 ^ 60 := by
    have : addrOf c f 0 < 2 ^ 64 := Nat.mod_lt _ (by decide)
    simp only [pathOf, slice]
    omega
  have ran : (Rules.once false (dstF isS2) (srcF isS) (srcF isUni) none 64).run f c (Ctx.storeCap f) s =
      c.store (maskOf (c.notOff f.guard)) 1 s [stkPut c f] := by
    rw [run_once hi operands fun h => nomatch h]
    simp only [Ctx.storeCap, addr_eq_addrOf, onceLane, no_failure, path, hpath, Bool.not_true, Bool.false_eq_true, if_false]
    rw [if_neg (by simpa using hglobal)]
    rfl
  show s.issueForm _ f (Ctx.storeCap f) = _
  simp only [State.issueForm, hi.ctx, ran]
  rfl

/-- ST and STK that pass their checks perform their stores, and the issuing set goes on. -/
theorem exec_stores {i : Instr} (hstore : storeOf c i = some (f, ok, xs)) (hok : ok = true) (hi : Issuing s c f.guard)
    (hfit : storesFit s c xs = true) :
    ∃ all kind, exec i s = .next (c.settle s (c.latched f.hold f.a f.lit 64) (c.store all kind s xs)) := by
  cases i with
  | st g | stExtended g =>
    simp only [storeOf_st, storeOf_stExtended, Option.some.injEq, Prod.mk.injEq] at hstore
    obtain ⟨rfl, rfl, rfl⟩ := hstore
    exact ⟨_, _, execSt_stores hi hok hfit⟩
  | stk g =>
    obtain ⟨rfl, -⟩ := storeOf_stk hstore hok
    exact ⟨_, _, execStk_stores hstore hok hi hfit⟩
  | _ => nomatch hstore

/-- An instruction that stores makes at least one store. -/
theorem stores_ne_nil {i : Instr} (hstore : storeOf c i = some (f, ok, xs)) (hok : ok = true) (hi : Issuing s c f.guard) : xs ≠ [] := by
  cases i with
  | st g | stExtended g =>
    simp only [storeOf_st, storeOf_stExtended, Option.some.injEq, Prod.mk.injEq] at hstore
    obtain ⟨rfl, rfl, rfl⟩ := hstore
    unfold stPuts
    split
    · simp
    · simpa using hi.runs
  | stk g =>
    obtain ⟨-, rfl, -⟩ := storeOf_stk hstore hok
    simp
  | _ => nomatch hstore

/-- ST stores no tag, and STK stores one granule (R81). -/
theorem stores_tags {i : Instr} (hstore : storeOf c i = some (f, ok, xs)) (hok : ok = true) :
    (∀ x ∈ xs, x.tag = false) ∨ ∃ x, xs = [x] ∧ x.bs.length = 16 := by
  cases i with
  | st g | stExtended g =>
    simp only [storeOf_st, storeOf_stExtended, Option.some.injEq, Prod.mk.injEq] at hstore
    obtain ⟨-, -, rfl⟩ := hstore
    left
    intro x hx
    unfold stPuts at hx
    split at hx
    · obtain rfl := List.mem_singleton.1 hx; rfl
    · obtain ⟨l, -, rfl⟩ := List.mem_map.1 hx; rfl
  | stk g =>
    obtain ⟨-, rfl, -⟩ := storeOf_stk hstore hok
    exact .inr ⟨_, rfl, Laws.leBytes_length _ _⟩
  | _ => nomatch hstore

end

/-! ### The statement -/

/-- The group that an instruction leaves whose own part changes nothing of it. -/
theorem left_unchanged {s : State} {c : Ctx} (hs : s.ctx = some c) (f : Form) :
    Left c f.hold f.a f.lit 64 id (fun _ th => th) (c.advance (c.latched f.hold f.a f.lit 64 c.g)) := by
  obtain ⟨g, hg, left⟩ := after_setGroup hs f id rfl
  have same : c.advance (c.latched f.hold f.a f.lit 64 c.g) = g := by
    have h := congrArg (fun u => State.group? u c.r) hg
    simpa using h
  exact same ▸ left

/-- What a store's own part has made of the state is kept, and the issuing set goes on. -/
theorem settle_groups {s u : State} {c : Ctx} (hs : s.ctx = some c) (hu : u.groups = s.groups) (latch : Group → Group) :
    c.settle s latch (.next u) = u.setGroup c.r (c.advance (latch c.g)) := by
  have group : u.group? c.r = some c.g := by
    rw [State.group?, hu]
    exact ctx_group hs
  exact State.modGroup_of_some group _

/-- Settles O22. Through SPD and DSP the stores are performed one after another, each changing its core's scratchpad alone; through GEN and
PEER they stand in the buffer once translation, which changes no group, has found their places. -/
theorem storesReachTheirPlaces : Obligations.StoresReachTheirPlaces := by
  constructor
  · intro i f ok xs s c hstore hwf hi hok hfit hfree hspad hcalm
    have calm : SpadsCalm s := ⟨spads_wf hwf, hfree, hcalm⟩
    have hat : ∀ x ∈ xs, ∃ p, spadAt s c x = some p ∧ Lands (s.origin c.r c.g) x p := fun x hx =>
      have ⟨p, hp⟩ := Option.isSome_iff_exists.1 (hspad x hx)
      ⟨p, hp, (spadAt_lands hp).1⟩
    have direct : ∀ x ∈ xs, buffered x.addr = false := fun x hx =>
      have ⟨_, hp, _⟩ := hat x hx
      (spadAt_lands hp).2.1
    have tags : (∀ x ∈ xs, x.tag = false) ∨ ∃ x, xs = [x] ∧ ∀ p, spadAt s c x = some p → p.2 % 16 = 0 := by
      rcases stores_tags hstore hok with plain | ⟨x, rfl, hlen⟩
      · exact .inl plain
      · refine .inr ⟨x, rfl, fun p hp => ?_⟩
        have aligned : x.addr % 16 = 0 := by
          simp only [storesFit, List.all_cons, List.all_nil, Bool.and_true, Bool.and_eq_true, beq_iff_eq, hlen] at hfit
          exact hfit.1
        rw [(spadAt_lands hp).2.2, slice]
        omega
    obtain ⟨all, kind, hexec⟩ := exec_stores hstore hok hi hfit
    obtain ⟨hgroups, hmem, hmtags⟩ := foldl_putDirect_rest hat calm c.pc
    rw [store_direct (fun x hx => (hat x hx).imp fun _ h => h.2) direct, settle_groups hi.ctx hgroups] at hexec
    refine ⟨_, _, hexec, by simp, left_unchanged hi.ctx f, fun k n => ?_, fun k n => ?_, hmem, hmtags, fun r hr => ?_⟩
    · exact foldl_putDirect_byte hat calm c.pc k n
    · exact foldl_putDirect_tag hat tags calm c.pc k n
    · rw [State.setGroup_group?, if_neg hr, State.group?, hgroups, State.group?]
  · intro i f ok xs s s1 c ls hstore hi hok hfit hpath hlen hplaces hroom
    have buffers : ∀ x ∈ xs, buffered x.addr = true := by
      intro x hx
      have path : pathOf x.addr = x.addr / 2 ^ 60 % 2 ^ 4 := rfl
      rcases hpath x hx with h | h <;> rw [h] at path <;> simp [buffered, path]
    have kept : s1.groups = s.groups := by
      have := State.places_groups s (s.origin c.r c.g) .store xs
      rwa [hplaces] at this
    obtain ⟨all, kind, hexec⟩ := exec_stores hstore hok hi hfit
    rw [store_buffered buffers hlen hplaces hroom, putBuffer_all (stores_ne_nil hstore hok hi) hlen,
      settle_groups hi.ctx (by exact kept)] at hexec
    exact ⟨_, hexec, rfl, _, rfl, left_unchanged hi.ctx f⟩

end Sys2Proof.Machine
end
